-- ==== Sys2Proof/Word.lean ====
section
/-!
DEFINITION. The plain data words of the L2432: the widths the manual names in R3 and nothing else.
-/

namespace Sys2Proof

/-- One byte of a host-memory structure, of a wire or of a record. -/
abbrev Byte := BitVec 8

/-- A 32-bit register word. -/
abbrev Word := BitVec 32

/-- R3: a time stamp, LSB 62.5 ps, modulo 2^64. -/
abbrev T64 := BitVec 64

/-- R3: a time inside frames, the low 32 bits of a `T64`. -/
abbrev T32 := BitVec 32

/-- R3: a position, 32 integer bits and 16 fraction bits, modulo 2^32 counts. -/
abbrev P48 := BitVec 48

end Sys2Proof
end

