-- ==== Sys2Proof/Syntax.lean ====
section
/-!
DEFINITION. The commands of the L2432: one constructor of `Instr` per row of the operations-and-events table.

Every constructor's first operand `dt` is the D0 time, in LSB of 62.5 ps, that has passed since the previous
command's grant (R20, R42): the order of commands is the order of grants, and the sum of the `dt` is the D0 counter.
The other operands are what the outside of the part supplies for that step: the words of a bus access, the bytes a
DMA read returns, a received frame, the level of a ball, a measured voltage, what a check of memory finds.
-/

namespace Sys2Proof

/-- R112: the two access paths of the set-up registers. -/
inductive Path where
  | pcie | svc
  deriving DecidableEq, Repr

/-- R82, R123, R383: where a descriptor comes from. -/
inductive Source where
  | sq (n : Fin 8)
  | svc
  | tunnel
  deriving DecidableEq, Repr

/-- R4: the domain codes 0 LOCAL, 1 RING, 2 CANT, 3 HOST. -/
inductive Dom where
  | d0 | d1 | d2 | d3
  deriving DecidableEq, Repr

/-- R74, R109: the rings the device writes. -/
inductive OutRing where
  | cq (n : Fin 8)
  | evq
  | str (n : Fin 4)
  deriving DecidableEq, Repr

/-- R108: any ring, for its enable. -/
inductive Ring where
  | sq (n : Fin 8)
  | out (r : OutRing)
  deriving DecidableEq, Repr

/-- R141, R539: who runs a job or holds a lease. -/
inductive Owner where
  | slot (n : Fin 32)
  | lattice (n : Fin 4)
  deriving DecidableEq, Repr

/-- R185, R160: the schedule of a job. -/
inductive Sched where
  | current | outer
  deriving DecidableEq, Repr

/-- R176: what the SEC-DED check of a word finds. -/
inductive Ecc where
  | clean | corrected | bad
  deriving DecidableEq, Repr

/-- R176, R178, R134, R425: the memories with check bits that the scrubber reads. -/
inductive EccMem where
  | glade | folio | pstore | quire
  deriving DecidableEq, Repr

/-- R486: what causes a chip reset. -/
inductive ResetKind where
  | powerGood | resetN | selfReset
  deriving DecidableEq, Repr

/-- R104: what causes a HOST-region reset, but for the loss of the link, which is LINK_LOSS. -/
inductive HostResetKind where
  | perst | hot | flr
  deriving DecidableEq, Repr

/-- R91: what the DMA of a descriptor's host buffer moves. `ok = false`: the transfer failed after `data`. -/
structure HostBuf where
  data : List Byte
  ok   : Bool
  deriving DecidableEq, Repr

/-- R86: a descriptor without its opcode, and the host buffer its payload points to. -/
structure Desc where
  flags   : Byte
  tag     : Byte
  target  : Word
  apply   : T64
  payload : BitVec 384
  buf     : HostBuf
  deriving DecidableEq, Repr

/-- R86: the 64 bytes of a descriptor as they lie in memory (byte 0 least significant), and its host buffer. -/
structure RawDesc where
  bits : BitVec 512
  buf  : HostBuf
  deriving DecidableEq, Repr

/-- R85: what a read of a submission ring returns. -/
inductive FetchResult where
  | ok (entries : List RawDesc)
  | failed (code : Byte)
  deriving DecidableEq, Repr

/-- R106: whether a posted write to host memory is delivered; R109 numbers the failures. -/
inductive WriteResult where
  | ok
  | failed (code : Byte)
  deriving DecidableEq, Repr

/-- R13, R22: the cells whose isolation takes a part of the device out of service. The lanes are named by their own mask. -/
inductive BistUnit where
  | port (p : Fin 3)
  | pin (k : Fin 4)
  | compare (u : Fin 16)
  | latch (u : Fin 16)
  | lattice (n : Fin 4)
  | check (u : Fin 8)
  | can (c : Fin 2)
  | lanePair (k : Fin 4)
  | select (ep : Fin 12)
  | placer (p : Fin 12)
  /-- a cell that has no command of its own -/
  | other
  deriving DecidableEq, Repr

/-- R126, R489: a cell that BIST found failed: the cell, and the region, block and cell that BIST_FAIL names, which the manual
does not number. -/
structure BistCell where
  unit   : BistUnit
  region : Byte
  block  : Byte
  cell   : Byte
  deriving DecidableEq, Repr

/-- R133, R134: one lane operation: the lane, the error the datapath made in the result (0 without a fault) and what
the fetch of the program word found. -/
structure LaneOp where
  lane  : Fin 9
  err   : Int
  fetch : Ecc
  /-- R176: what the check bits of one of the words that a search reads show: its place in the search, and the outcome -/
  hit   : Option (Nat × Ecc) := none
  deriving DecidableEq, Repr

/-- R100, R139: the two meanings of the mnemonic NOP. -/
inductive NopForm where
  | descriptor (src : Source) (d : Desc)
  | laneOp (l : LaneOp)
  deriving DecidableEq, Repr

/-- R254: the two counting lines of a quadrature port. -/
inductive EncLine where
  | a | b
  deriving DecidableEq, Repr

/-- R355: the two edge types of a channel. -/
inductive EdgeType where
  | lh | hl
  deriving DecidableEq, Repr

/-- R366: a Norrak frame's header; a good CRC is understood, as a bad frame has its own row. -/
structure NkHdr where
  src   : Fin 16
  dst   : Fin 16
  bcast : Bool
  folded : Bool
  retx  : Bool
  ttl   : Byte
  seq   : BitVec 16
  deriving DecidableEq, Repr

/-- R367: the payload of HELLO. -/
structure Hello where
  serial  : BitVec 64
  check   : Word
  priority : Byte
  hostPresent : Bool
  keeper  : Bool
  ringState : BitVec 3
  keeperPos : Byte
  breaks  : List T32
  deriving DecidableEq, Repr

/-- R380: one record of a published trajectory. -/
structure TrajRec where
  t : T32
  p : P48
  v : Word
  a : Word
  j : Word
  deriving DecidableEq, Repr

/-- R380: the payload of a TRAJ frame. -/
structure TrajPayload where
  slot   : Fin 32
  final  : Bool
  cForce : T32
  cPend  : T32
  cAct   : T32
  stopDec : Word
  stopJerk : Word
  recs   : List TrajRec
  deriving DecidableEq, Repr

/-- R367: what LINKCTL says of one virtual channel. -/
structure LinkCtl where
  ack   : BitVec 16
  nak   : Bool
  nakSeq : BitVec 16
  freed : Nat
  deriving DecidableEq, Repr

/-- R388, R392: a CAN frame; `ident` as in CAN_SEND: [28:0] identifier, [29] IDE, [30] rtr, [31] FDF. -/
structure CanFrame where
  ident : Word
  brs   : Bool
  esi   : Bool
  dlc   : BitVec 4
  data  : List Byte
  deriving DecidableEq, Repr

/-- R407: the kinds of error of a CAN error frame: stuff, form, ack, bit 1, bit 0, CRC, protocol exception. -/
inductive CanErr where
  | stuff | form | ack | bit1 | bit0 | crc | pex
  deriving DecidableEq, Repr

/-- R331, R452: what the arrival sequence of a select reads back. -/
structure Arrival where
  endpaper : List Byte
  safetyBack : Bool
  deriving DecidableEq, Repr

/-- R343, R344: how the read of an identity record ends. -/
inductive IdRead where
  | ok (data : List Byte)
  | noAck
  | busHeld (recovered : Bool)
  deriving DecidableEq, Repr

/-- The commands of the L2432, in the order of the table. -/
inductive Instr where
  -- bring-up, power and chip
  | chipReset (dt : Nat) (kind : ResetKind) (resetNHigh : Bool) (strap : Bool) (badRecords : List (Fin 64))
  | clearingDone (dt : Nat)
  | referenceLock (dt : Nat)
  | fbStartupSelftest (dt : Nat) (pass : Bool)
  | understoryStart (dt : Nat) (failedLanes : BitVec 9) (failedCells : List BistCell)
  | bistEnd (dt : Nat) (failedLanes : BitVec 9) (failedCells : List BistCell) (lost : Option (Byte × Byte))
  | powerFail (dt : Nat) (vin : BitVec 16)
  | powerRecoveryReset (dt : Nat) (strap : Bool) (badRecords : List (Fin 64))
  | vinLow (dt : Nat) (vin : BitVec 16)
  | thermal (dt : Nat) (tj : Byte)
  | thermalLimit (dt : Nat) (tj : Byte)
  | coreRail (dt : Nat) (rail : Byte) (mv : BitVec 16)
  | auditSnap (dt : Nat) (path : Path)
  | auditSnapDone (dt : Nat)
  -- time base and domains
  | dlineCalibration (dt : Nat) (taps : Byte) (inRange : Bool)
  | xtalFault (dt : Nat) (ratio : Word)
  | refUnlock (dt : Nat)
  | domainMasterUpdate (dt : Nat) (dom : Dom) (master : T64)
  | holdoverEntry (dt : Nat) (dom : Dom)
  | holdoverLimit (dt : Nat) (dom : Dom)
  | slewDone (dt : Nat) (dom : Dom)
  | timeDisciplineWrite (dt : Nat) (path : Path) (dom : Dom) (value : Word)
  | timeXsnap (dt : Nat) (path : Path)
  | xsnapTaken (dt : Nat)
  | placerEdge (dt : Nat) (placer : Fin 12)
  | ppsPulse (dt : Nat)
  -- host link, rings and doorbells
  | sqTail (dt : Nat) (n : Fin 8) (value : Word)
  | cqHead (dt : Nat) (n : Fin 8) (value : Word)
  | evqHead (dt : Nat) (value : Word)
  | strHead (dt : Nat) (n : Fin 4) (value : Word)
  | heartbeat (dt : Nat)
  | hbLost (dt : Nat)
  | descriptorFetch (dt : Nat) (n : Fin 8) (r : FetchResult)
  | completionWrite (dt : Nat) (r : WriteResult)
  | heldCompletionDelivery (dt : Nat) (r : WriteResult)
  | coalesceTimer (dt : Nat) (ring : OutRing)
  | ptmDialogue (dt : Nat) (masterNs : Option T64)
  | hostRegionReset (dt : Nat) (kind : HostResetKind)
  | linkLoss (dt : Nat)
  | pcieLinkUp (dt : Nat) (speed : BitVec 2)
  | orphanAck (dt : Nat) (path : Path)
  | ringEnable (dt : Nat) (path : Path) (ring : Ring) (value : Word)
  -- registers and the service port
  | registerWrite (dt : Nat) (path : Path) (addr : BitVec 16) (value : Word) (be : BitVec 4)
  | rsLowRead (dt : Nat) (path : Path) (addr : BitVec 16)
  | pswDataRead (dt : Nat) (path : Path)
  | svcWrite (dt : Nat) (addr : BitVec 24) (data : List Word)
  | svcRead (dt : Nat) (addr : BitVec 24) (words : Nat)
  | svcStatus (dt : Nat)
  | svcIdent (dt : Nat)
  | svcFrameAbort (dt : Nat) (write : Bool) (addr : BitVec 24) (data : List Word) (bits : Fin 32) (part : Word)
  | svcDescriptorSubmit (dt : Nat) (d : RawDesc)
  | svcCompletionRead (dt : Nat)
  -- descriptors
  | fenceWait (dt : Nat) (src : Source) (d : Desc)
  | fencePurge (dt : Nat) (src : Source) (d : Desc)
  | nop (dt : Nat) (f : NopForm)
  | slotConfig (dt : Nat) (src : Source) (d : Desc)
  | bankLoad (dt : Nat) (src : Source) (d : Desc)
  | bankSwap (dt : Nat) (src : Source) (d : Desc)
  | modeSet (dt : Nat) (src : Source) (d : Desc)
  | moveAbs (dt : Nat) (src : Source) (d : Desc)
  | moveRel (dt : Nat) (src : Source) (d : Desc)
  | jog (dt : Nat) (src : Source) (d : Desc)
  | softStart (dt : Nat) (src : Source) (d : Desc)
  | stop (dt : Nat) (src : Source) (d : Desc)
  | limitsSet (dt : Nat) (src : Source) (d : Desc)
  | pathSegment (dt : Nat) (src : Source) (d : Desc)
  | pathGroupDefine (dt : Nat) (src : Source) (d : Desc)
  | pathGroupStart (dt : Nat) (src : Source) (d : Desc)
  | pathGroupHold (dt : Nat) (src : Source) (d : Desc)
  | pathGroupResume (dt : Nat) (src : Source) (d : Desc)
  | pathGroupAbort (dt : Nat) (src : Source) (d : Desc)
  | pathGroupRelease (dt : Nat) (src : Source) (d : Desc)
  | gearSet (dt : Nat) (src : Source) (d : Desc)
  | camSet (dt : Nat) (src : Source) (d : Desc)
  | stepConfig (dt : Nat) (src : Source) (d : Desc)
  | homeStall (dt : Nat) (src : Source) (d : Desc)
  | compareArm (dt : Nat) (src : Source) (d : Desc)
  | latchArm (dt : Nat) (src : Source) (d : Desc)
  | latticeLoad (dt : Nat) (src : Source) (d : Desc)
  | latticeRunPass (dt : Nat) (src : Source) (d : Desc)
  | latticeStop (dt : Nat) (src : Source) (d : Desc)
  | latticeUnload (dt : Nat) (src : Source) (d : Desc)
  | gladeLease (dt : Nat) (src : Source) (d : Desc)
  | gladeRelease (dt : Nat) (src : Source) (d : Desc)
  | gladeThin (dt : Nat) (src : Source) (d : Desc)
  | folioWrite (dt : Nat) (src : Source) (d : Desc)
  | folioRead (dt : Nat) (src : Source) (d : Desc)
  | programLoad (dt : Nat) (src : Source) (d : Desc)
  | powerSet (dt : Nat) (src : Source) (d : Desc)
  | powerForce (dt : Nat) (src : Source) (d : Desc)
  | siglinkXfer (dt : Nat) (src : Source) (d : Desc)
  | endpointBind (dt : Nat) (src : Source) (d : Desc)
  | endpointUnbind (dt : Nat) (src : Source) (d : Desc)
  | canSend (dt : Nat) (src : Source) (d : Desc)
  | canCancel (dt : Nat) (src : Source) (d : Desc)
  | canRecover (dt : Nat) (src : Source) (d : Desc)
  | ringMembers (dt : Nat) (src : Source) (d : Desc)
  | publishStart (dt : Nat) (src : Source) (d : Desc)
  | publishEnd (dt : Nat) (src : Source) (d : Desc)
  | tunnel (dt : Nat) (src : Source) (d : Desc)
  | quireArm (dt : Nat) (src : Source) (d : Desc)
  | quireForceTrigger (dt : Nat) (src : Source) (d : Desc)
  | quireStop (dt : Nat) (src : Source) (d : Desc)
  | quireDisarm (dt : Nat) (src : Source) (d : Desc)
  | quireRead (dt : Nat) (src : Source) (d : Desc)
  | checkContextRead (dt : Nat) (src : Source) (d : Desc)
  | checkContextWrite (dt : Nat) (src : Source) (d : Desc)
  | checkContextExchange (dt : Nat) (src : Source) (d : Desc)
  | timeSet (dt : Nat) (src : Source) (d : Desc)
  | timeSetApply (dt : Nat) (dom : Dom)
  | timeSlew (dt : Nat) (src : Source) (d : Desc)
  | tallyRead (dt : Nat) (src : Source) (d : Desc)
  | calendarSet (dt : Nat) (src : Source) (d : Desc)
  | safetyRecordWrite (dt : Nat) (src : Source) (d : Desc)
  | safetyConfirm (dt : Nat) (src : Source) (d : Desc)
  | lifecycleChange (dt : Nat) (src : Source) (d : Desc)
  | parkRecordWrite (dt : Nat) (src : Source) (d : Desc)
  | lifeReq (dt : Nat) (value : Word)
  | lifecycleCommit (dt : Nat)
  -- lanes and jobs
  | laneSelftest (dt : Nat) (lane : Fin 9) (failedOp : Option Byte)
  | jobReady (dt : Nat) (owner : Owner) (sched : Sched)
  | jobGrant (dt : Nat)
  | endLeaf (dt : Nat) (l : LaneOp)
  | rpt (dt : Nat) (l : LaneOp) (count : BitVec 8) (body : BitVec 4)
  | skip (dt : Nat) (l : LaneOp) (cond : BitVec 4) (k : BitVec 6)
  | ldg (dt : Nat) (l : LaneOp) (a : Fin 16) (p : Fin 4) (mod : BitVec 2) (offset : BitVec 12) (ecc : Ecc)
  | stg (dt : Nat) (l : LaneOp) (a : Fin 16) (p : Fin 4) (mod : BitVec 2) (offset : BitVec 12)
  | ldf (dt : Nat) (l : LaneOp) (a : Fin 16) (b : Fin 16) (table : Fin 32) (ecc : Ecc)
  | ldi (dt : Nat) (l : LaneOp) (a : Fin 16) (imm : BitVec 22)
  | ldin (dt : Nat) (l : LaneOp) (a : Fin 16) (input : BitVec 4)
  | out (dt : Nat) (l : LaneOp) (b : Fin 16) (output : BitVec 3)
  | mov (dt : Nat) (l : LaneOp) (a : Fin 16) (b : Fin 16)
  | add (dt : Nat) (l : LaneOp) (a : Fin 16) (b : Fin 16) (c : Fin 16)
  | sub (dt : Nat) (l : LaneOp) (a : Fin 16) (b : Fin 16) (c : Fin 16)
  | abs (dt : Nat) (l : LaneOp) (a : Fin 16) (b : Fin 16)
  | mul (dt : Nat) (l : LaneOp) (a : Fin 16) (b : Fin 16) (c : Fin 16) (round : Bool)
  | min (dt : Nat) (l : LaneOp) (a : Fin 16) (b : Fin 16) (c : Fin 16)
  | max (dt : Nat) (l : LaneOp) (a : Fin 16) (b : Fin 16) (c : Fin 16)
  | clmp (dt : Nat) (l : LaneOp) (a : Fin 16) (b : Fin 16) (c : Fin 16)
  | shl (dt : Nat) (l : LaneOp) (a : Fin 16) (b : Fin 16) (n : BitVec 5)
  | asr (dt : Nat) (l : LaneOp) (a : Fin 16) (b : Fin 16) (n : BitVec 5)
  | cmp (dt : Nat) (l : LaneOp) (b : Fin 16) (c : Fin 16)
  | sel (dt : Nat) (l : LaneOp) (a : Fin 16) (b : Fin 16) (c : Fin 16) (cond : BitVec 4)
  | macz (dt : Nat) (l : LaneOp) (acc : Fin 2) (b : Fin 16) (c : Fin 16) (e : BitVec 5) (bank : Bool)
  | mac (dt : Nat) (l : LaneOp) (acc : Fin 2) (b : Fin 16) (c : Fin 16) (e : BitVec 5) (bank : Bool)
  | msu (dt : Nat) (l : LaneOp) (acc : Fin 2) (b : Fin 16) (c : Fin 16) (e : BitVec 5) (bank : Bool)
  | accadd (dt : Nat) (l : LaneOp) (acc : Fin 2) (b : Fin 16) (n : BitVec 6)
  | ext (dt : Nat) (l : LaneOp) (a : Fin 16) (acc : Fin 2) (n : BitVec 6) (round : Bool)
  | accclr (dt : Nat) (l : LaneOp) (acc : Fin 2)
  | mxs (dt : Nat) (l : LaneOp) (a : Fin 16) (p : Fin 4) (n : BitVec 12)
  | mns (dt : Nat) (l : LaneOp) (a : Fin 16) (p : Fin 4) (n : BitVec 12)
  | mxa (dt : Nat) (l : LaneOp) (a : Fin 16) (p : Fin 4) (n : BitVec 12)
  | midx (dt : Nat) (l : LaneOp) (a : Fin 16)
  | pset (dt : Nat) (l : LaneOp) (p : Fin 4) (x : BitVec 12)
  | plen (dt : Nat) (l : LaneOp) (p : Fin 4) (x : BitVec 12)
  | pstep (dt : Nat) (l : LaneOp) (p : Fin 4) (x : BitVec 12)
  | leaf (dt : Nat) (l : LaneOp) (ident : Byte) (words : BitVec 12)
  | jobDeadline (dt : Nat) (owner : Owner) (sched : Sched)
  | govWindow (dt : Nat)
  | boostExpiry (dt : Nat)
  -- Glade
  | thinMove (dt : Nat) (hit : Option (Nat × Ecc) := none)
  | thinSkip (dt : Nat)
  | gladeLoadWindow (dt : Nat)
  | scrubRead (dt : Nat) (mem : EccMem) (addr : Nat) (ecc : Ecc)
  -- slots and motion
  | controlCycle (dt : Nat) (slot : Fin 32) (sched : Sched)
  | applyInstant (dt : Nat) (slot : Fin 32) (sched : Sched)
  | microstep (dt : Nat) (slot : Fin 32)
  | coarseStep (dt : Nat) (slot : Fin 32)
  | coarseIdle (dt : Nat) (slot : Fin 32)
  -- feedback and pins
  | encEdge (dt : Nat) (port : Fin 2) (line : EncLine) (held : Nat)
  | encZEdge (dt : Nat) (port : Fin 2) (held : Nat)
  | hallEdge (dt : Nat) (lines : BitVec 3) (held : Nat)
  | encStandstill (dt : Nat) (port : Fin 3)
  | tpInputEdge (dt : Nat) (pin : Fin 4) (level : Bool)
  | tpMergeEnd (dt : Nat) (pin : Fin 4)
  | pinStuck (dt : Nat) (pin : Fin 4)
  | compareWindow (dt : Nat) (u : Fin 16)
  | latticeWindow (dt : Nat) (n : Fin 4)
  -- signature links and the identity bus
  | cmdSignature (dt : Nat) (ep : Fin 12)
  | replySignature (dt : Nat) (ep : Fin 12) (data : List Byte)
  | replyMissing (dt : Nat) (ep : Fin 12)
  | identPoll (dt : Nat) (ep : Fin 12)
  | identReply (dt : Nat) (ep : Fin 12) (ident : List Byte) (arrival : Arrival)
  | xferStart (dt : Nat) (link : Fin 4) (inbound : List Byte)
  | arspRead (dt : Nat) (ep : Fin 12) (data : List Byte)
  | siglinkEnable (dt : Nat) (path : Path) (link : Fin 4) (value : Word)
  | idEnable (dt : Nat) (path : Path) (value : Word)
  | idRescan (dt : Nat) (path : Path) (value : Word)
  | idRecordRead (dt : Nat) (record : Fin 8) (r : IdRead)
  -- local power outputs
  | powerReload (dt : Nat) (ch : Fin 3) (trips : BitVec 2)
  | swnCrossing (dt : Nat) (ch : Fin 3) (edge : EdgeType)
  | trip (dt : Nat) (t : Fin 2)
  | blankWindowEnd (dt : Nat) (t : Fin 2) (active : Bool)
  | tripClear (dt : Nat) (path : Path) (value : Word) (active : BitVec 2)
  | powerForceWrite (dt : Nat) (path : Path) (value : Word)
  | hallHoldExpiry (dt : Nat)
  -- the Norrak ring
  | nkLinkUp (dt : Nat) (link : Fin 2)
  | nkLinkDown (dt : Nat) (link : Fin 2)
  | helloSend (dt : Nat)
  | helloRx (dt : Nat) (link : Fin 2) (hdr : NkHdr) (h : Hello)
  | heardTimeout (dt : Nat)
  | breakRx (dt : Nat) (link : Fin 2) (hdr : NkHdr) (pos : Fin 16) (brokenLink : Fin 2) (stamp : T32)
  | syncSend (dt : Nat)
  | syncRx (dt : Nat) (link : Fin 2)
  | syncRespRx (dt : Nat) (link : Fin 2) (t2 : T32) (t3 : T32)
  | syncTimeout (dt : Nat) (link : Fin 2)
  | trajSend (dt : Nat) (slot : Fin 32)
  | trajRx (dt : Nat) (link : Fin 2) (hdr : NkHdr) (p : TrajPayload)
  | eventFrameRx (dt : Nat) (link : Fin 2) (hdr : NkHdr) (rec : BitVec 256)
  | tunnelReqRx (dt : Nat) (link : Fin 2) (hdr : NkHdr) (ident : BitVec 16) (ds : List RawDesc)
  | tunnelRspRx (dt : Nat) (link : Fin 2) (hdr : NkHdr) (ident : BitVec 16) (cpls : List (BitVec 256)) (data : List Byte := [])
  | linkctlRx (dt : Nat) (link : Fin 2) (ctl : Vector LinkCtl 4)
  | linkctlTimer (dt : Nat) (link : Fin 2)
  | retxTimeout (dt : Nat) (link : Fin 2) (vc : Fin 4)
  | commitActivate (dt : Nat) (k : Fin 16)
  | commitStop (dt : Nat) (k : Fin 16)
  -- CAN FD
  | canEligible (dt : Nat) (c : Fin 2)
  | canSof (dt : Nat) (c : Fin 2)
  | canTxDone (dt : Nat) (c : Fin 2) (tdc : Option (BitVec 8))
  | canRxFrame (dt : Nat) (c : Fin 2) (f : CanFrame) (sofAge : Nat)
  | canErrorFrame (dt : Nat) (c : Fin 2) (e : CanErr) (dataPhase : Bool) (tecInc : Nat) (recInc : Nat)
  | canRecoveryDone (dt : Nat) (c : Fin 2)
  | refMessageSend (dt : Nat) (c : Fin 2)
  | refMessageRx (dt : Nat) (c : Fin 2) (count : BitVec 6) (rank : BitVec 3) (prevSof : BitVec 48)
  | canWindowOpen (dt : Nat) (c : Fin 2) (w : Fin 16)
  | canWindowClose (dt : Nat) (c : Fin 2) (w : Fin 16)
  -- Quire and check units
  | quireSample (dt : Nat) (lo : Ecc := .clean) (hi : Ecc := .clean)
  | streamChunkTimer (dt : Nat) (ring : Fin 4)
  | chkEnable (dt : Nat) (path : Path) (u : Fin 8) (value : Word)
  -- Firebreak
  | sinInputChange (dt : Nat) (ch : Fin 4) (released : Bool)
  | demandAccept (dt : Nat) (ch : Fin 4)
  | releaseAccept (dt : Nat) (ch : Fin 4)
  | discrepancy (dt : Nat) (input : Fin 2)
  | ss1Timeout (dt : Nat) (group : Fin 8)
  | ss1Limit (dt : Nat) (group : Fin 8)
  | fbSpeedWindow (dt : Nat)
  | stoTestPulse (dt : Nat) (lowDuring : Bool) (highAfter : Bool)
  | epStoTimeout (dt : Nat) (ep : Fin 12)
  | edmInput (dt : Nat) (e : Fin 2) (isOpen : Bool)
  | edmTimeout (dt : Nat) (e : Fin 2)
  | edmAck (dt : Nat) (path : Path)
  | fbConfirmWrite (dt : Nat) (value : Word)
  | fbTimebaseCheck (dt : Nat) (advance : Nat)
  | fbSupplyFault (dt : Nat)
  | fbScrub (dt : Nat) (ecc : Ecc)
  | fbRecordCheck (dt : Nat) (crcGood : Bool)
  | fbLogicSelftest (dt : Nat) (pass : Bool)
  | fbInputTest (dt : Nat) (pass : Bool)
  | fbWatchdogMiss (dt : Nat)
  | selfFaultStoForce (dt : Nat)
  -- faults and events
  | faultAck (dt : Nat) (path : Path)
  | ledgerClear (dt : Nat) (path : Path) (mask : BitVec 7)
  | faultEvtTestWrite (dt : Nat) (path : Path) (value : Word)
  | eventWrite (dt : Nat) (r : WriteResult)
  | handlingStart (dt : Nat) (ledger : Fin 7) (entry : Fin 32)
  -- tallies, calendar and park
  | tallyPeriodic (dt : Nat)
  | tallySnap (dt : Nat) (path : Path)
  | tallyRefresh (dt : Nat)
  | vbackupLoss (dt : Nat)
  | parkEndpointTimeout (dt : Nat) (entry : Fin 4)
  -- rows added at the end of the table
  | timeSlewApply (dt : Nat) (dom : Dom)
  | latchUpdatePoint (dt : Nat) (u : Fin 16)
  | canCycleStart (dt : Nat) (c : Fin 2)
  | resetNRelease (dt : Nat) (strap : Bool) (badRecords : List (Fin 64))
  | powerGoodFall (dt : Nat) (railLost : Bool)
  | pcieLinkDown (dt : Nat)
  | svcUnknownCommand (dt : Nat)
  | nkBadFrame (dt : Nat) (link : Fin 2) (vc : Fin 4)
  | junctionBelowRange (dt : Nat) (tj : Byte)
  deriving DecidableEq, Repr

end Sys2Proof
end

