-- ==== Sys2Proof/Decode.lean ====
section
/-!
DEFINITION. The operations-and-events table gives its rows no bits: a command reaches the block as an access, a frame, an
edge or an event of its own, and no word spells one. So no word decodes.
-/

namespace Sys2Proof

/-- The command that a word of `nbits` bits spells: none, whatever the word. -/
def decodeTableWord (_nbits _w : Nat) : Option Instr := none

end Sys2Proof
end

