-- ==== Sys2Proof/Config.lean ====
section
/-!
DEFINITION. What an L2432 fixes and the manual does not: opaque constants, of which nothing can be proved.
A statement that mentions one of them holds whatever it is.
-/

namespace Sys2Proof.Config

/-- R115: Haltik's assigned Vendor ID, in CHIP_IDENT. -/
opaque vendorId : BitVec 16

/-- R115: CHIP_VERSION. -/
opaque version : Word

/-- R115: the module serial. -/
opaque serial : BitVec 64

/-- R134: the words of the program ROM, 0 to 3071. -/
opaque rom : Nat → Word

/-- The free values: the value the manual leaves open when it is taken for the `n`-th time (log 1). -/
opaque freeValue : Nat → Nat

/-- R441: how far the tick of Firebreak's own oscillator lies from 10 µs, in LSB; the manual bounds it. -/
opaque fbTickError : Int

/-- R101: the MSI-X Enable bit of configuration space as the host has set it at a D0 instant; configuration space is
outside the table of operations (log 6). -/
opaque msixEnable : Nat → Bool

/-- R101: the Function Mask bit of the MSI-X capability, likewise. -/
opaque msixFunctionMask : Nat → Bool

/-- R71: the programmed value of Max Read Request Size at a D0 instant as PCIe codes it: 128 B times 2 to its power (log 6). -/
opaque maxReadCode : Nat → Nat

/-- R71: whether the function is in D3hot at a D0 instant, and its AER status registers (log 6). The manual gives neither an effect on
the block, and no operation of the table reads them. -/
opaque inD3hot : Nat → Bool
opaque aerStatus : Nat → List Word

/-- R142: where an LDIN input of a job comes from, by the slot's kind, the schedule and the number of the input: 0 the feedback, 1 the
phase currents, else an input that is never missing. The manual maps no number (log 24). -/
opaque inputSource : List Nat → Nat

/-- R139, R140: what the manual leaves open of a job, the same at every run of it: by owner, schedule, sample instant and what is asked
(log 24). -/
opaque jobChoice : List Nat → Nat

/-- R224: the jerk, in units of 2^-40 counts/ms³, of the first period of the time-shortest plan from a position, velocity
and acceleration (2^-48 counts, 2^-40 counts/ms, 2^-40 counts/ms²) to a goal, within limits of speed, acceleration,
deceleration and jerk (units of 2^-40), for a period of so many cadences. The goal is a kind (0 position, 1 velocity,
2 rest) and a value. The manual does not fix the plan beyond that (log 21). -/
opaque planJerk : List Int → Int

/-- R233: the like for the path speed of a group: distance left to the next point that limits the speed, speed and
acceleration, the limits at and before it, and the period (log 21). -/
opaque pathJerk : List Int → Int

end Sys2Proof.Config
end

