-- ==== Sys2Proof/Machine/Bits.lean ====
section
/-!
DEFINITION. Bit fields, byte order, signs, rounding and sparse stores: the helpers every chapter's definitions use.
-/

namespace Sys2Proof.Machine

/-- R8: the field [hi:lo] of a word. -/
def bits (x hi lo : Nat) : Nat := x / 2 ^ lo % 2 ^ (hi + 1 - lo)

/-- Bit `i` of a word. -/
def bit (x i : Nat) : Bool := x / 2 ^ i % 2 == 1

/-- 0 or 1. -/
def ofBool (b : Bool) : Nat := if b then 1 else 0

/-- The field [hi:lo] of a word replaced. -/
def putBits (x hi lo v : Nat) : Nat :=
  x - bits x hi lo * 2 ^ lo + v % 2 ^ (hi + 1 - lo) * 2 ^ lo

/-- A word made of fields, each a value, its lowest bit and its width. -/
def word (fields : List (Nat × Nat × Nat)) : Nat :=
  fields.foldl (fun acc f => acc + f.1 % 2 ^ f.2.2 * 2 ^ f.2.1) 0

/-- R2: `n` bytes of a value, least significant first. -/
def leBytes : Nat → Nat → List Byte
  | 0, _ => []
  | n + 1, x => BitVec.ofNat 8 x :: leBytes n (x / 256)

/-- R2: the value of bytes, least significant first. -/
def ofLe : List Byte → Nat
  | [] => 0
  | b :: bs => b.toNat + 256 * ofLe bs

/-- The value of bytes, most significant first. -/
def ofBe (bs : List Byte) : Nat := ofLe bs.reverse

/-- Byte `i` of a list; 0 beyond its end. -/
def byteAt (bs : List Byte) (i : Nat) : Nat := (bs[i]?.getD 0).toNat

/-- The `n`-byte little-endian value at offset `i`. -/
def leAt (bs : List Byte) (i n : Nat) : Nat := ofLe ((bs.drop i).take n)

/-- The signed value of a `w`-bit field. -/
def sext (w x : Nat) : Int :=
  let y := x % 2 ^ w
  if y < 2 ^ (w - 1) then y else (y : Int) - 2 ^ w

/-- Two's complement of `w` bits. -/
def toW (w : Nat) (x : Int) : Nat := (x % 2 ^ w).toNat

/-- The signed value kept modulo 2^w. -/
def wrapS (w : Nat) (x : Int) : Int := sext w (toW w x)

/-- Clamped between two bounds. -/
def clampI (lo hi x : Int) : Int := max lo (min hi x)

/-- Saturated to a signed `w`-bit word. -/
def satS (w : Nat) (x : Int) : Int := clampI (-(2 ^ (w - 1))) (2 ^ (w - 1) - 1) x

/-- Saturated to an unsigned `w`-bit word. -/
def satU (w x : Nat) : Nat := min x (2 ^ w - 1)

/-- Every integer is the image of a natural number: how a free value stands for a signed one. -/
def zigzag (n : Nat) : Int := if n % 2 = 0 then ((n / 2 : Nat) : Int) else -((n / 2 + 1 : Nat) : Int)

/-- R537: a quotient rounded to the nearest integer, ties to even. -/
def roundDiv (n : Int) (d : Nat) : Int :=
  let q := Int.fdiv n d
  let r := 2 * (Int.fmod n d)
  if r < d then q else if r > d then q + 1 else if q % 2 = 0 then q else q + 1

/-- `x × 2^e` for a signed exponent, rounded to nearest, ties to even. -/
def scale2 (x : Int) (e : Int) : Int :=
  if 0 ≤ e then x * 2 ^ e.toNat else roundDiv x (2 ^ (-e).toNat)

/-- The sign of a value: -1, 0 or 1. -/
def sgn (x : Int) : Int := if x < 0 then -1 else if x = 0 then 0 else 1

/-- The integer square root, rounded down. -/
def isqrt (n : Nat) : Nat := Nat.sqrt n

/-- Replaces the element at an index. -/
def upd {α : Type} {n : Nat} (v : Vector α n) (i : Fin n) (f : α → α) : Vector α n :=
  v.set i.val (f v[i.val]) i.isLt

/-! ### Sparse stores

A store is a list of (address, value) pairs with strictly rising addresses, in which no pair holds the value that an
unlisted address reads as. Equal contents are therefore equal lists. -/

/-- The value at an address; `d` is what an address that is not listed reads as. -/
def cellGet (d : Nat → Nat) : List (Nat × Nat) → Nat → Nat
  | [], a => d a
  | (k, v) :: cs, a => if a = k then v else if a < k then d a else cellGet d cs a

/-- A write that keeps the canonical form. -/
def cellPut (d : Nat → Nat) : List (Nat × Nat) → Nat → Nat → List (Nat × Nat)
  | [], a, x => if x = d a then [] else [(a, x)]
  | (k, v) :: cs, a, x =>
    if a = k then (if x = d a then cs else (a, x) :: cs)
    else if a < k then (if x = d a then (k, v) :: cs else (a, x) :: (k, v) :: cs)
    else (k, v) :: cellPut d cs a x

/-- The canonical form, from a lower bound on. -/
def cellWfFrom (d : Nat → Nat) : Nat → List (Nat × Nat) → Bool
  | _, [] => true
  | n, (k, v) :: cs => decide (n ≤ k) && decide (v ≠ d k) && cellWfFrom d (k + 1) cs

/-- The canonical form. -/
def cellWf (d : Nat → Nat) (cs : List (Nat × Nat)) : Bool := cellWfFrom d 0 cs

/-- A store whose unlisted addresses read as 0. -/
def zero0 : Nat → Nat := fun _ => 0

/-- Writes consecutive values from an address on. -/
def cellPuts (d : Nat → Nat) (cs : List (Nat × Nat)) (a : Nat) : List Nat → List (Nat × Nat)
  | [] => cs
  | x :: xs => cellPuts d (cellPut d cs a x) (a + 1) xs

/-- Reads consecutive values from an address on. -/
def cellGets (d : Nat → Nat) (cs : List (Nat × Nat)) (a : Nat) : Nat → List Nat
  | 0 => []
  | n + 1 => cellGet d cs a :: cellGets d cs (a + 1) n

/-! ### Tables keyed by number -/

/-- The entry of a key. -/
def tabGet {α : Type} : List (Nat × α) → Nat → Option α
  | [], _ => none
  | (k, v) :: t, a => if a = k then some v else tabGet t a

/-- A table without a key. -/
def tabDel {α : Type} (t : List (Nat × α)) (a : Nat) : List (Nat × α) := t.filter (fun e => e.1 != a)

/-- A table with an entry set, in order of keys. -/
def tabPut {α : Type} : List (Nat × α) → Nat → α → List (Nat × α)
  | [], a, x => [(a, x)]
  | (k, v) :: t, a, x =>
    if a = k then (a, x) :: t else if a < k then (a, x) :: (k, v) :: t else (k, v) :: tabPut t a x

/-- The lowest number below `n` that is not a key. -/
def tabFree {α : Type} (t : List (Nat × α)) (n : Nat) : Option Nat :=
  (List.range n).find? (fun i => (tabGet t i).isNone)

/-- A list with one more element in an order. -/
def insertBy {α : Type} (le : α → α → Bool) (x : α) : List α → List α
  | [] => [x]
  | y :: ys => if le y x then y :: insertBy le x ys else x :: y :: ys

/-- A list in an order; equal elements keep their places. -/
def sortBy {α : Type} (le : α → α → Bool) (xs : List α) : List α :=
  xs.foldl (fun acc x => insertBy le x acc) []

/-- All the bits of a mask below `n`. -/
def maskBits (n m : Nat) : List Nat := (List.range n).filter (fun i => bit m i)

/-- A mask from a list of bits. -/
def ofMask (bs : List Bool) : Nat := bs.foldr (fun b acc => ofBool b + 2 * acc) 0

end Sys2Proof.Machine
end

