-- ==== Sys2Proof/Machine/State.lean ====
section
/-!
DEFINITION. The state of the L2432 as plain data: every register, queue, counter, mode and pin the manual gives the
part, block by block. A field's default is its value right after a chip reset. A docstring gives the width, the chapter
and rule that names the field, and what it holds. Read-write fields of the set-up registers lie in `State.regs`, by
offset; the live status fields have fields of their own and are composed into words when a register is read.
-/

namespace Sys2Proof.Machine

/-- Why the machine stops. -/
inductive Fault where
  /-- R139: a condition code of 8 to 15. Raised by SKIP and SEL. Safe: the model stops where the manual gives no effect. -/
  | conditionCode
  /-- R139: a shift or word count outside the range the manual gives the operation. Raised by ACCADD, EXT, SHL, MXS,
  MNS and MXA. Safe: the manual gives no effect. -/
  | operandRange
  deriving DecidableEq, Repr

/-- What the model has no meaning for. -/
inductive Refusal where
  /-- A row that has no meaning yet, by its mnemonic. Safe: the model stops. -/
  | notModelled (mnemonic : String)
  deriving DecidableEq, Repr

/-! ### What the device drives out -/

/-- What the last command drove out of the part: a write to host memory, a message, an edge at a ball, a frame, the
words a read returns. Each command starts with the list empty (log 3). -/
inductive Output where
  /-- R74, R92: a completion record written to entry `index` of a completion ring, at its address. -/
  | completion (cq : Fin 8) (index : Nat) (addr : BitVec 64) (bits : BitVec 256)
  /-- R475: an event record written to entry `index` of the event ring. -/
  | event (index : Nat) (addr : BitVec 64) (bits : BitVec 256)
  /-- R77: a chunk written to a stream ring: header and data. -/
  | chunk (ring : Fin 4) (index : Nat) (addr : BitVec 64) (header : BitVec 256) (data : List Byte)
  /-- R101: an MSI-X message. -/
  | msix (vector : Nat)
  /-- R84: a 32-bit write of the head to the shadow address. -/
  | shadow (sq : Fin 8) (addr : BitVec 64) (head : Word)
  /-- R85: a read request for `count` entries from entry `index` of a submission ring. -/
  | fetch (sq : Fin 8) (index : Nat) (addr : BitVec 64) (count : Nat)
  /-- R91: bytes written by DMA to a host buffer. -/
  | buffer (addr : BitVec 64) (data : List Byte)
  /-- R112, R119: the words a register read or a service frame returns. -/
  | words (ws : List Word)
  /-- R120: the status byte of a service reply. -/
  | status (b : Byte)
  /-- R61: an edge at the ball of a placer, with its target and the D0 instant it is placed at. -/
  | edge (placer : Fin 12) (level : Bool) (target : T64) (placed : T64) (late : Bool)
  /-- R314: a command signature sent: header bytes and body. -/
  | signature (ep : Fin 12) (bytes : List Byte)
  /-- R326, R335: an acyclic transfer sent on a link. -/
  | xfer (link : Fin 4) (ep : Fin 12) (bytes : List Byte)
  /-- R343: a read of an identity record started. -/
  | idRead (record : Fin 8)
  /-- R366: a Norrak frame sent: header, payload and CRC. -/
  | norrak (link : Fin 2) (bytes : List Byte)
  /-- R392: a CAN frame sent. -/
  | can (c : Fin 2) (ident : Word) (data : List Byte)
  /-- R468: FAULT_N. -/
  | faultN (level : Bool)
  /-- R451: STO_OUT, R456: CDRV. -/
  | sto (level : Bool)
  | cdrv (on : Bool)
  deriving DecidableEq, Repr

/-! ### Time base and domains (02) -/

/-- R50: the states of a domain, codes 0 to 4. -/
inductive DomState where
  | unset | free | acquiring | locked | holdover
  deriving DecidableEq, Repr

/-- R46: a stretch of D0 over which a domain ran at one rate: its first D0 instant, the domain's time there, and the rate. -/
structure Seg where
  start : Nat
  val   : T64
  rate  : Int
  deriving DecidableEq, Repr

/-- R48–R55, R67, R540: one of the domains D1 to D3. -/
structure Domain where
  /-- 104 | 02 R48 | offset_n in units of 2^-40 LSB: bits [103:40] offset_n, bits [39:0] the fraction accumulator -/
  offset : BitVec 104 := 0
  /-- 32 signed | 02 R48, R540 | frequency estimate, units 2^-40 -/
  freq : Int := 0
  /-- 104 signed | 02 R540, R67 | TIME_Dn_SLEW_LEFT in units of 2^-40 LSB -/
  slewLeft : Int := 0
  /-- 8 | 02 R69, R540 | slew limit in ppm of the slew under way -/
  slewPpm : Nat := 0
  /-- 1 | 02 R67 | a slew is under way and its end has not been taken -/
  slewing : Bool := false
  /-- 3 | 02 R50 | state code -/
  state : DomState := .unset
  /-- 4 | 02 R50 | consecutive updates within ±100 ns, up to 8 -/
  good : Nat := 0
  /-- 1 | 02 R50 | a master update has arrived since discipline was last set to 1 -/
  master : Bool := false
  /-- 65 | 02 R540 | D0 instant of the last master update, when T_u is measured from it -/
  lastUpdate : Option Nat := none
  /-- 64 | 02 R51 | D0 instant of the last master update of any kind, from which missed updates are counted -/
  seen : Nat := 0
  /-- 16 | 02 R67 | phase_err, signed, saturating -/
  phaseErr : Int := 0
  /-- 1 | 02 R55 | rate_clamped -/
  rateClamped : Bool := false
  /-- 64 | 02 R67 | D0 instant at which the present HOLDOVER began -/
  holdSince : Nat := 0
  /-- 1 | 02 R51 | HOLDOVER_LIMIT already raised in this holdover -/
  holdReported : Bool := false
  /-- 64 | 02 R69 | correction the running slew started with, LSB -/
  slewTotal : Int := 0
  /-- 32 × 160 | 02 R46 | the stretches the domain ran through last, newest first, for stamps taken in the past -/
  hist : List Seg := []
  deriving DecidableEq, Repr

/-- A stamp with the domain it is read in (R4). -/
structure Stamp where
  dom : Dom
  t   : T64
  deriving DecidableEq, Repr

/-- R46: an instant as it was read in D0 and in D1 to D3, kept for a record that is written later. -/
structure Mark where
  d0 : T64 := 0
  in1 : Stamp := ⟨.d0, 0⟩
  in2 : Stamp := ⟨.d0, 0⟩
  in3 : Stamp := ⟨.d0, 0⟩
  deriving DecidableEq, Repr

/-- R61: who queued an edge. -/
inductive EdgeOwner where
  | power (ch : Fin 3) | compare (u : Fin 16) | lattice (n : Fin 4) | step (slot : Fin 32) | pin | stoTest | pps
  deriving DecidableEq, Repr

/-- R61, R63: one queued edge. -/
structure Edge where
  target : T64
  dom    : Dom
  level  : Bool
  /-- R63: the edge was late when it entered -/
  late   : Bool := false
  /-- R63: D0 instant at which a late edge is driven, at most 60 ns after its entry -/
  placed : Nat := 0
  /-- R63: D0 instant at which its requester offered it -/
  asked  : Nat := 0
  /-- R61: what the edge is placed for -/
  owner  : EdgeOwner
  deriving DecidableEq, Repr

/-- R61–R64: an edge placer. -/
structure Placer where
  /-- 8 × 68 | 02 R61 | the queue, by target -/
  queue : List Edge := []
  /-- 02 R63 | the edges whose requesters found the queue full and wait, in order of request -/
  waiting : List Edge := []
  /-- 1 | 02 R64 | level driven at the ball -/
  level : Bool := false
  /-- 65 | 02 R64 | D0 instant of the last driven edge -/
  lastEdge : Option Nat := none
  /-- 66 | 02 R64 | its rounded target; the instant of a late edge -/
  lastAt : Option Stamp := none
  /-- 65 | 12 R357 | D0 instant of the last driven rising edge, which opens a gate's blanking windows -/
  lastOn : Option Nat := none
  deriving DecidableEq, Repr

/-- 02: the TIME region. -/
structure TimeSt where
  /-- 64 | 02 R42 | the D0 counter, in LSB since chip reset; D0 is its value modulo 2^64 -/
  now : Nat := 0
  /-- 3 × | 02 R48 | D1, D2, D3 -/
  d1 : Domain := {}
  d2 : Domain := {}
  d3 : Domain := {}
  /-- 1 | 02 R67 | TIME_STATUS.ref_locked -/
  refLocked : Bool := false
  /-- 1 | 02 R67 | TIME_STATUS.xtal_ok -/
  xtalOk : Bool := false
  /-- 1 | 02 R67 | TIME_STATUS.dline_cal_ok -/
  dlineOk : Bool := false
  /-- 32 | 02 R67 | TIME_PLACER_LATE -/
  placerLate : Word := 0
  /-- 32 | 02 R67 | TIME_PLACER_SUPPRESSED -/
  placerSupp : Word := 0
  /-- 1 | 02 R67 | TIME_CTRL.xsnap_busy -/
  xsnapBusy : Bool := false
  /-- 8 | 02 R67 | TIME_CTRL.xsnap_seq -/
  xsnapSeq : Byte := 0
  /-- 12 × 32 | 02 R67 | TIME_XSNAP registers, by offset -/
  xsnap : List (Nat × Word) := []
  /-- 12 | 02 R61, 01 R13 | placers: 0–5 gate outputs HA LA HB LB HC LC, 6–9 TP0–TP3, 10 STO test pulses, 11 PPS_OUT -/
  placers : Vector Placer 12 := Vector.replicate 12 {}
  deriving DecidableEq, Repr

/-! ### Host link and rings (03) -/

/-- R80–R85: a submission ring. -/
structure SubRing where
  /-- 16 | 03 R108 | STATUS.head -/
  head : Nat := 0
  /-- 16 | 03 R108 | TAIL, the last tail received -/
  tail : Nat := 0
  /-- 1 | 03 R108 | STATUS.error -/
  error : Bool := false
  /-- 2 | 03 R108 | STATUS.err_kind -/
  errKind : Nat := 0
  /-- 13 | 03 R75, R84 | entries published and not yet accepted -/
  published : Nat := 0
  /-- 4 | 03 R85 | entries of the read under way -/
  asked : Nat := 0
  /-- ≤ 4096 × 512 | 03 R75, R85 | entries read and not yet accepted, from the head on -/
  fetched : List RawDesc := []
  deriving DecidableEq, Repr

/-- R76, R101, R108: a ring the device writes. -/
structure WrRing where
  /-- 16 | 03 R108 | STATUS.tail -/
  tail : Nat := 0
  /-- 1 | 03 R108 | STATUS.phase -/
  phase : Bool := true
  /-- 1 | 03 R108 | STATUS.error -/
  error : Bool := false
  /-- 16 | 03 R108 | HEAD, the last index received -/
  head : Nat := 0
  /-- 16 | 03 R81, R83 | entries written and not yet returned -/
  used : Nat := 0
  /-- 16 | 03 R108 | RESERVED (completion rings) -/
  reserved : Nat := 0
  /-- 32 | 03 R108 | SUPPRESSED (completion rings) -/
  suppressed : Word := 0
  /-- 32 | 03 R108 | WITHHELD (stream rings) -/
  withheld : Word := 0
  /-- 32 | 03 R77 | chunks withheld since the previous chunk (stream rings) -/
  withheldPrev : Word := 0
  /-- 16 | 03 R77 | chunk sequence (stream rings) -/
  chunkSeq : BitVec 16 := 0
  /-- 16 | 03 R101 | written, unsignalled entries -/
  unsig : Nat := 0
  /-- 65 | 03 R101 | D0 instant at which the oldest unsignalled entry was written -/
  oldest : Option Nat := none
  deriving DecidableEq, Repr

/-- R86, R87: the target of a descriptor. -/
structure Target where
  cls : Nat
  idx : Nat
  deriving DecidableEq, Repr

/-- R60, R68, R89: when an accepted descriptor takes effect. -/
inductive When where
  /-- at the sample of `slot` whose instant is `ts` in the slot's domain -/
  | sample (slot : Fin 32) (ts : T64)
  /-- at the unit's first update point at or after the apply time and `notBefore` (D0) -/
  | update (apply : Option Stamp) (notBefore : Nat)
  /-- it has taken effect and its chapter sets a later completion point -/
  | running
  deriving DecidableEq, Repr

/-- R82, R83: an accepted descriptor whose completion is neither written nor suppressed. -/
structure InFlight where
  /-- serial number of acceptance, which orders equal stamps -/
  id      : Nat
  /-- R92: where it came from -/
  src     : Source
  /-- 8 | 03 R86 | opcode -/
  opcode  : Byte
  /-- 8 | 03 R86 | flags -/
  flags   : Byte
  /-- 8 | 03 R86 | tag -/
  tag     : Byte
  /-- 24 | 03 R86 | target -/
  target  : Target
  /-- 384 | 03 R86 | payload -/
  payload : BitVec 384
  /-- what its host buffer holds, read at acceptance (R91) -/
  buf     : HostBuf
  /-- D0 instant of acceptance -/
  accepted : Nat
  /-- R93: the acceptance stamp in the domain of R59, and that domain -/
  accStamp : Stamp
  /-- R93: desc_domain at acceptance -/
  descDom : Dom
  /-- R60: the instant or sample its effect waits for -/
  due     : When
  /-- R98: number of its pair group, and its place in it -/
  group   : Option (Nat × Nat) := none
  /-- set once it has taken effect: the instant the effect first reaches its target -/
  applied : Option Stamp := none
  /-- R83: the completion ring in which acceptance reserved a slot -/
  cq      : Option (Fin 8) := none
  /-- R92: the result formed so far (descriptors purged, counts) -/
  res     : Int := 0
  /-- R106: a HOST-region reset took the reserved slot -/
  slotGone : Bool := false
  deriving DecidableEq, Repr

/-- R92: a completion that is due to be written. -/
structure Cpl where
  /-- serial number of acceptance -/
  id     : Nat
  /-- R92: the ring or port its descriptor came from -/
  src    : Source
  /-- 8 | 03 R92 | tag -/
  tag    : Byte
  /-- 8 | 03 R92 | flags of the descriptor -/
  flags  : Byte
  /-- 16 | 03 R92 | status -/
  status : BitVec 16
  /-- 32 | 03 R92 | result -/
  result : Word := 0
  /-- 32 | 03 R92 | detail -/
  detail : Word := 0
  /-- 64 | 03 R92 | the instant of acceptance -/
  accStamp : Stamp
  /-- R93: desc_domain at acceptance -/
  descDom : Dom
  /-- the instant the effect first reaches its target; `none`: no effect -/
  applied : Option Stamp := none
  /-- 8 | 03 R92 | opcode -/
  opcode : Byte
  /-- R101, R107: order in which the descriptors completed -/
  order  : Nat := 0
  /-- R106: the completion is held -/
  held   : Bool := false
  /-- R106: a HOST-region reset took its slot, so that it goes to CQ0 once it is held -/
  toCq0  : Bool := false
  /-- R92, R108: the completion ring its slot is reserved in -/
  cq     : Option (Fin 8) := none
  /-- R93: D0 instant before which it is not due -/
  notBefore : Nat := 0
  /-- R46, R93: the applied stamp as the record carries it, converted at its instant -/
  shown : Option Stamp := none
  /-- R98: number of its pair group, and its place in it -/
  group : Option (Nat × Nat) := none
  deriving DecidableEq, Repr

/-- R101: an MSI-X vector. -/
structure MsixVec where
  addr : BitVec 64 := 0
  data : Word := 0
  /-- PCIe: the mask bit is 1 after reset -/
  mask : Bool := true
  /-- R101: the pending bit -/
  pending : Bool := false
  deriving DecidableEq, Repr

/-- 03: the HOST region. -/
structure HostSt where
  /-- 8 | 03 R108 | submission rings -/
  sq : Vector SubRing 8 := Vector.replicate 8 {}
  /-- 8 | 03 R108 | completion rings -/
  cq : Vector WrRing 8 := Vector.replicate 8 {}
  /-- 1 | 03 R108 | event ring -/
  evq : WrRing := {}
  /-- 4 | 03 R108 | stream rings -/
  str : Vector WrRing 4 := Vector.replicate 4 {}
  /-- ≤ 512 | 03 R83 | descriptors in flight, in order of acceptance -/
  flight : List InFlight := []
  /-- ≤ 512 | 03 R93, R106 | completions due or held, in order of completion -/
  done : List Cpl := []
  /-- 3 | 01 R16 | the submission ring last granted -/
  lastRing : Fin 8 := 7
  /-- 65 | 03 R102 | D0 instant of the last PTM dialogue -/
  lastPtm : Option Nat := none
  /-- 64 | 03 R82 | serial number of the next acceptance -/
  nextId : Nat := 0
  /-- 64 | 03 R106 | serial number of the next completion -/
  nextOrder : Nat := 0
  /-- 32 × 128 | 03 R72, R101 | MSI-X vectors -/
  msix : Vector MsixVec 32 := Vector.replicate 32 {}
  /-- 1 | 03 R108 | HOST_STATUS.link_up -/
  linkUp : Bool := false
  /-- 2 | 03 R108 | HOST_STATUS.link_speed -/
  linkSpeed : BitVec 2 := 0
  /-- 65 | 03 R104 | D0 instant since which the link is lost -/
  downAt : Option Nat := none
  /-- 1 | 03 R108 | HOST_STATUS.ptm_valid -/
  ptmValid : Bool := false
  /-- 1 | 03 R108 | HOST_STATUS.orphan_active -/
  orphanActive : Bool := false
  /-- 1 | 03 R105 | an orphan policy runs and ORPHAN_DONE has not been raised -/
  orphanRunning : Bool := false
  /-- 1 | 03 R104 | the latched orphan policy: false PARK, true STOP -/
  orphanStop : Bool := false
  /-- 1 | 03 R108 | HOST_HB_STATUS.lost -/
  hbLost : Bool := false
  /-- 16 | 03 R108 | HOST_HB_STATUS.lost_count -/
  hbLostCount : Nat := 0
  /-- 64 | 03 R108 | HOST_HB_LAST, and as read in every domain (R46) -/
  hbLast : Mark := {}
  /-- 64 | 03 R103 | D0 instant the heartbeat time is counted from -/
  hbFrom : Nat := 0
  /-- 32 | 03 R108 | HOST_PARTIAL_WRITES -/
  partialWrites : Word := 0
  /-- 16 | 03 R106 | held completions written since the last HELD_DELIVERED -/
  heldWritten : Nat := 0
  /-- 64 | 01 R34 | DESC_ACC -/
  descAcc : BitVec 64 := 0
  /-- 64 | 01 R34 | DESC_CPL -/
  descCpl : BitVec 64 := 0
  deriving DecidableEq, Repr

/-! ### Set-up registers and the service port (04) -/

/-- R123: a completion in a service completion slot, as its 32 bytes. -/
abbrev SvcCpl := BitVec 256

/-- 04: the service port. -/
structure SvcSt where
  /-- 1 | 04 R116 | CHIP_STRAP.svc_strap as sampled (RESET: Sampled; PRESUMED 0, no service mode, log 7) -/
  strap : Bool := false
  /-- 5 | 04 R120 | status flags RANGE, ABORT, DENIED, BUSY, UNKNOWN -/
  range : Bool := false
  abort : Bool := false
  denied : Bool := false
  busy : Bool := false
  unknown : Bool := false
  /-- 1 | 04 R115 | CHIP_SVC_STATUS.frame_active, within a frame -/
  frameActive : Bool := false
  /-- 16 | 04 R115 | CHIP_SVC_STATUS.frames -/
  frames : BitVec 16 := 0
  /-- 32 | 04 R115 | CHIP_SVC_RANGE_WRITES -/
  rangeWrites : Word := 0
  /-- 32 | 04 R115 | CHIP_SVC_ABORTS -/
  aborts : Word := 0
  /-- 8 × 256 | 04 R123 | service completions waiting to be read, oldest first -/
  cpls : List SvcCpl := []
  /-- 4 | 04 R123 | service completion slots reserved by descriptors in flight -/
  reserved : Nat := 0
  /-- 1024 × 32 | 04 R124 | the service data area, by word offset; a word not listed is 0 -/
  data : List (Nat × Nat) := []
  deriving DecidableEq, Repr

/-- R113: one snapshot latch: path, offset of a higher word, latched value. -/
structure RsLatch where
  path : Path
  off  : Nat
  val  : Word
  deriving DecidableEq, Repr

/-! ### The chip: audits and status (01, 04, 19) -/

/-- 01 R36, R38: what a snapshot copies beside its registers: the totals and settings its equalities are judged by. -/
structure AuditCopy where
  sqTotal : List Nat := []
  slTotal : List Nat := []
  /-- num and den of the slot's gear, where it is one -/
  ratio : Option (Int × Nat) := none
  /-- the slot's raw counter C -/
  counter : Int := 0
  /-- the offsets of its referenced position, 2^-16 counts -/
  offsets : Int := 0
  /-- its extended position, 2^-16 counts -/
  extended : Int := 0
  /-- void at the copy -/
  void : Bool := false
  deriving DecidableEq, Repr

/-- 01 R37, 04 R115: the chip supervisor's status and the audit image. -/
structure ChipSt where
  /-- 1 | 04 R115 | CHIP_STATUS.power_good -/
  powerGood : Bool := true
  /-- 1 | 04 R115 | understory -/
  understory : Bool := false
  /-- 1 | 04 R115 | full_service -/
  fullService : Bool := false
  /-- 1 | 04 R115 | bist_fail -/
  bistFail : Bool := false
  /-- 01 R22, 19 R489 | the cells, other than lanes, that BIST isolated -/
  isolated : List BistUnit := []
  /-- 1 | 01 R37 | CHIP_AUDIT_CTRL.busy -/
  auditBusy : Bool := false
  /-- 8 | 01 R37 | snap_seq -/
  snapSeq : Byte := 0
  /-- 3 | 01 R37 | void_cause: ecc, ring, limits; void is their disjunction -/
  voidEcc : Bool := false
  voidRing : Bool := false
  voidLimits : Bool := false
  /-- 57 × 32 | 01 R37 | the audit registers 0x0208–0x0330 by offset; the GLADE word is 0x1800_0000 at reset -/
  image : List (Nat × Nat) := []
  /-- 57 × 32 | 01 R36 | the copy taken by a snapshot that is not yet complete -/
  imageNext : List (Nat × Nat) := []
  /-- 01 R36, R38 | what the copy's equalities are judged by -/
  copied : AuditCopy := {}
  deriving DecidableEq, Repr

/-! ### Faults, ledgers and events (18) -/

/-- R466 -/
inductive Sev where
  | note | warning | fault | stop
  deriving DecidableEq, Repr

/-- R471: a ledger entry's place: ledger 0–6 and index. -/
structure EntryRef where
  ledger : Nat
  index  : Nat
  deriving DecidableEq, Repr

/-- R472: the action an entry's handler started. -/
inductive Handling where
  | recompute (owner : Owner) (sched : Sched)
  | isolate
  | ss1 (groups : BitVec 8)
  deriving DecidableEq, Repr

/-- R472: how far a handling is. -/
inductive HState where
  | idle | waiting | running | preempted
  deriving DecidableEq, Repr

/-- R485: a ledger entry. -/
structure Entry where
  source : Nat
  level  : Sev
  handler : Nat := 0
  caused : Bool := false
  superseded : Bool := false
  parent : Option EntryRef := none
  /-- R473: the parent was merged: index 0xFE -/
  parentMerged : Bool := false
  /-- 8 | 18 R469 | event code -/
  code   : Nat := 0
  /-- R469: index within the source -/
  index  : Nat := 0
  /-- R470: happenings merged into it -/
  count  : Nat := 1
  /-- 64 | 18 R469 | its first happening -/
  stamp  : T64
  /-- R472 -/
  action : Option Handling := none
  /-- R472: the state of its handling -/
  hstate : HState := .idle
  /-- R472: order of the waiting handlings -/
  order  : Nat := 0
  deriving DecidableEq, Repr

/-- R485: a ledger: entry slots and overflow counts. -/
structure Ledger where
  /-- 16 or 32 entries | 18 R469 | entries; a free place is `none` -/
  entries : List (Option Entry) := []
  /-- 4 × 16 | 18 R485 | merged notes, warnings, faults; stop_unlogged -/
  ovNote : Nat := 0
  ovWarn : Nat := 0
  ovFault : Nat := 0
  stopUnlogged : Nat := 0
  deriving DecidableEq, Repr

/-- R477: an event token. -/
structure Token where
  source : Nat
  sev    : Sev
  seq    : Word
  /-- R46: stamp in the event domain, and that domain -/
  stamp  : Stamp
  /-- 14 × 8 | 18 R476 | payload -/
  payload : List Byte
  /-- R481: origin and remote -/
  origin : Nat := 0
  remote : Bool := false
  deriving DecidableEq, Repr

/-- R478: a rate limit: source, index, last report, happenings held back. -/
structure RateLim where
  source : Nat
  index  : Nat
  last   : Nat
  held   : Nat
  deriving DecidableEq, Repr

/-- 18: faults, ledgers and events. -/
structure FaultSt where
  /-- 7 ledgers | 18 R469 | 0 HOST 1 MOTION 2 FIELD 3 NET 4 TIME 5 FIREBREAK (16 entries), 6 chip (32) -/
  ledgers : Vector Ledger 7 := #v[{ entries := List.replicate 16 none }, { entries := List.replicate 16 none },
    { entries := List.replicate 16 none }, { entries := List.replicate 16 none }, { entries := List.replicate 16 none },
    { entries := List.replicate 16 none }, { entries := List.replicate 32 none }]
  /-- 8 × 1 | 18 R467 | chip-level causes latched, oldest first, as codes 1–8 with the ledger entry of each -/
  causes : List (Nat × Option EntryRef) := []
  /-- 8 × 1 | 18 R468 | groups for which R24 requested SS1 and that have not been stopped or released since -/
  chipGroups : List (Fin 8) := []
  /-- 1 | 18 R468 | FAULT_N is low (RESET: the power-up self-test of Firebreak has not passed) -/
  faultLow : Bool := true
  /-- 32 | 18 R477 | seq of the last token -/
  seq : Word := 0
  /-- ≤ 64 | 18 R479 | event buffer -/
  buffer : List Token := []
  /-- 256 × 16 | 18 R485 | FAULT_EVT_LOSS by source; not listed is 0 -/
  loss : List (Nat × Nat) := []
  /-- 32 + 8 + 8 + 32 | 18 R479, R484 | losses not yet reported: count, lowest, highest source, first stamp -/
  lostCount : Nat := 0
  lostLow : Nat := 0
  lostHigh : Nat := 0
  lostFirst : Mark := {}
  /-- 32 | 18 R485 | FAULT_EVT_REMOTE -/
  remote : Word := 0
  /-- 64 | 01 R34 | EVT_GEN, EVT_WRITTEN; 32 | EVT_LOST -/
  evtGen : BitVec 64 := 0
  evtWritten : BitVec 64 := 0
  evtLost : Word := 0
  /-- - | 18 R478 | rate limits in force -/
  limits : List RateLim := []
  /-- - | 18 R472 | order of the next waiting handling -/
  nextHandling : Nat := 0
  /-- ≤ 8 | 18 R480, R101 | unsignalled event records by vector: vector, count, oldest -/
  unsig : List (Nat × Nat × Nat) := []
  deriving DecidableEq, Repr


/-! ### Canopy lanes (05) -/

/-- R131: an address generator of a lane. -/
structure AddrGen where
  base : BitVec 12 := 0
  len  : BitVec 12 := 0
  idx  : BitVec 12 := 0
  step : BitVec 12 := 0
  deriving DecidableEq, Repr

/-- R139: the RPT in force: words of the body, first word, repetitions left. -/
structure Repeat where
  first : Nat
  last  : Nat
  left  : Nat
  deriving DecidableEq, Repr

/-- R142: the inputs a job sees, latched at its ready instant. Positions in 2^-16 counts, speeds in V32 units. -/
structure JobIn where
  /-- 24 + 1 each | 05 R139, R142 | the sixteen LDIN inputs and their stale flags -/
  vals : List (Int × Bool) := []
  /-- 07 R209 | measured position (P48) and velocity (V32), and whether the feedback input is stale -/
  pos : P48 := 0
  vel : Int := 0
  fbStale : Bool := false
  /-- 07 R541 | commutation position C + f less arrival rebases, 2^-16 counts, modulo 2^32 counts -/
  comm : P48 := 0
  /-- 07 R541 | phase currents U, V, W or A, B, in I16 units, and whether they are stale -/
  iU : Int := 0
  iV : Int := 0
  iW : Int := 0
  iStale : Bool := false
  /-- 24 | 07 R187 | the current set-point in force at t_s, Q15.8 -/
  sp : Int := 0
  /-- 07 R189 | the band input, Q15.8 -/
  band : Int := 0
  deriving DecidableEq, Repr

/-- R141: a job. -/
structure Job where
  owner : Owner
  sched : Sched
  /-- 64 | 01 R25 | its sample instant and t_apply, in the schedule's domain -/
  ts     : Stamp
  tApply : Stamp
  /-- 64 | 01 R27 | its deadline, in the schedule's domain -/
  deadline : Stamp
  /-- sample index within its schedule -/
  sample : Nat
  /-- 8 × 8 | 05 R141 | the leaves it runs, in order -/
  leaves : List Byte
  ins    : JobIn := {}
  /-- 01 R17, 05 R155 | class 2: it is a recompute -/
  recompute : Bool := false
  /-- D0 instant at which it was queued -/
  queued : Nat := 0
  /-- the ledger entry of its residue fault -/
  entry : Option EntryRef := none
  /-- 05 R157: the lane a recompute is kept for: the spare that takes a quarantined lane's place -/
  onLane : Option (Fin 9) := none
  deriving DecidableEq, Repr

/-- R129: what a lane holds while it runs a job; all of it cleared at the start of each job. -/
structure LaneRun where
  job : Job
  /-- 16 × 24 | 05 R129 | v0–v15 -/
  v : Vector (BitVec 24) 16 := Vector.replicate 16 0
  /-- 2 × 56 | 05 R129 | acc0, acc1 -/
  acc : Vector (BitVec 56) 2 := Vector.replicate 2 0
  /-- 4 × 48 | 05 R129 | p0–p3 -/
  p : Vector AddrGen 4 := Vector.replicate 4 {}
  /-- 12 | 05 R129 | idx -/
  idx : BitVec 12 := 0
  /-- 4 | 05 R129 | flags -/
  eq : Bool := false
  /-- 4 | 05 R129 | flags -/
  lt : Bool := false
  sat : Bool := false
  stale : Bool := false
  /-- 12 | 05 R141 | the leaf running, and the program word next fetched -/
  leaf : Nat := 0
  pc : Nat := 0
  rpt : Option Repeat := none
  /-- 05 R143 | staged stores: relative address and value, newest first -/
  staged : List (Nat × BitVec 24) := []
  /-- 8 × 24 | 05 R139 | outputs -/
  outs : Vector (Option (BitVec 24)) 8 := Vector.replicate 8 none
  /-- operations done, R133 operation index -/
  ops : Nat := 0
  /-- R174: operations done before the leaf that runs -/
  leafOps : Nat := 0
  deriving DecidableEq, Repr

/-- R126, R159: the states of a lane. -/
inductive LaneState where
  | inService | spare | quarantined | failedBist
  deriving DecidableEq, Repr

/-- R126–R129, R157: a lane. -/
structure Lane where
  /-- 2 | 05 R159 | state -/
  state : LaneState := .inService
  /-- ≤ 3 × 64 | 05 R157 | D0 stamps of residue faults within 1 s -/
  faults : List Nat := []
  /-- 16 | 05 R159 | faults_total -/
  total : Nat := 0
  /-- 05 R141 | the job it runs -/
  run : Option LaneRun := none
  /-- 05 R158 | the run that a deadline ended, and the D0 instant of that -/
  cut : Option (LaneRun × Nat) := none
  deriving DecidableEq, Repr

/-- R136, R159: an entry of the user leaf table. -/
structure UserLeaf where
  entry : Nat
  words : Nat
  worst : Nat
  stores : Nat
  last : Nat
  deriving DecidableEq, Repr

/-- 05: the lane block, governor and program store. -/
structure CanopySt where
  /-- 9 | 05 R126 | lanes; after reset 0–7 in service, 8 spare -/
  lanes : Vector Lane 9 := #v[{}, {}, {}, {}, {}, {}, {}, {}, { state := .spare }]
  /-- 1 | 05 R159 | degraded -/
  degraded : Bool := false
  /-- ≤ 72 | 05 R145 | jobs waiting -/
  queue : List Job := []
  /-- 7 | 05 R159 | CANOPY_QUEUE_PEAK -/
  peak : Nat := 0
  /-- 32 | 05 R159 | CANOPY_OVERRUNS, CANOPY_RECOMPUTES -/
  overruns : Word := 0
  recomputes : Word := 0
  /-- 6 | 05 R159 | vcode -/
  vcode : Nat := 36
  /-- 65 | 05 R152 | D0 instant at which the boost hold ends -/
  boostEnd : Option Nat := none
  /-- 1 | 05 R150 | short -/
  short : Bool := false
  /-- 8 | 05 R159 | slack_p99 -/
  slackP99 : Nat := 0
  /-- 5 | 05 R149 | quiet -/
  quiet : Nat := 0
  /-- 5 | 05 R150 | windows held at vmax -/
  atVmax : Nat := 0
  /-- 05 R149 | slack of each job of the window as (slack, offset) in LSB -/
  slacks : List (Int × Nat) := []
  /-- 65 | 05 R150 | D0 instant since which the set value has been vmax -/
  topFrom : Option Nat := some 0
  /-- 64 | 05 R149 | D0 instant the window opened -/
  windowFrom : Nat := 0
  /-- 1024 × 32 | 05 R134, R137 | program RAM, by word offset 0–1023; not listed is 0 -/
  ram : List (Nat × Nat) := []
  /-- 05 R134 | words of the store found uncorrectable, by address -/
  badProgram : List Nat := []
  /-- 12 | 05 R159 | CANOPY_PSW_ADDR lives with the set-up registers; PSW_ECC counts -/
  eccFixed : Nat := 0
  /-- 12 | 05 R159 | PSW_ECC: uncorrectable program words -/
  eccBad : Nat := 0
  /-- 32 × 29 | 05 R159 | user leaf table -/
  leaves : List (Nat × UserLeaf) := []
  deriving DecidableEq, Repr

/-! ### Glade and Folio (06) -/

/-- R164, R183: a lease. -/
structure Lease where
  base : Nat
  words : Nat
  slot : Fin 32
  owner : Owner
  leaves : List Byte
  standby : Bool
  moving : Bool := false
  poisoned : Bool := false
  deriving DecidableEq, Repr

/-- R178, R183: a Folio table. -/
structure Table where
  base : Nat
  len  : Nat
  deriving DecidableEq, Repr

/-- R171–R173: a GLADE_THIN in progress. -/
structure Thin where
  /-- the in-flight descriptor -/
  desc : Nat
  /-- mode 1: destination of the one lease -/
  dest : Option Nat
  /-- leases still to move, in order -/
  todo : List Nat
  /-- R171: leases moved -/
  moved : Nat := 0
  /-- R171: leases skipped -/
  skipped : Nat := 0
  /-- R172: samples of the owner's fastest schedule without a gap -/
  waited : Nat := 0
  deriving DecidableEq, Repr

/-- 06: Glade and Folio. -/
structure GladeSt where
  /-- 6144 × 24 | 06 R161 | the words, by physical address; not listed is 0 -/
  words : List (Nat × Nat) := []
  /-- 06 R177 | addresses of words in uncorrectable error -/
  bad : List Nat := []
  /-- 128 × 64 | 06 R164 | the lease table by entry number -/
  leases : List (Nat × Lease) := []
  /-- 06 R171 | the thin in progress -/
  thin : Option Thin := none
  /-- 06 R173 | GLADE_LEASE and GLADE_RELEASE descriptors waiting for the thin, in order of acceptance -/
  deferred : List Nat := []
  /-- 2 × 16 | 06 R183 | GLADE_ECC -/
  eccFixed : Nat := 0
  eccBad : Nat := 0
  /-- 32 | 06 R183 | GLADE_THIN_SKIPS -/
  thinSkips : Word := 0
  /-- 8 | 06 R175 | accesses of the window, per bank -/
  accesses : Vector Nat 8 := Vector.replicate 8 0
  /-- 19 | 06 R183 | GLADE_LOAD: total_pct, bank_pct, bank -/
  loadTotal : Nat := 0
  loadBankPct : Nat := 0
  loadBank : Nat := 0
  /-- 64 | 06 R175 | D0 instant the window opened -/
  windowFrom : Nat := 0
  /-- 06 R161, R170 | addresses of words that a vendor leaf's job has left, whose layout the manual does not give; such a word has its
  value when it is first read -/
  fog : List Nat := []
  /-- 06 R176 | words of the Glade and of the Folio that the scrubber has read in the present interval, and where that began -/
  scrubbed : List (Bool × Nat) := []
  scrubFrom : Nat := 0
  /-- 16384 × 24 | 06 R178 | Folio entries; not listed is 0 -/
  folio : List (Nat × Nat) := []
  /-- 06 R182 | Folio entries marked poisoned -/
  folioBad : List Nat := []
  /-- 32 × 29 | 06 R178 | tables by number -/
  tables : List (Nat × Table) := []
  /-- 2 × 16 | 06 R183 | FOLIO_ECC -/
  folioFixed : Nat := 0
  folioEccBad : Nat := 0
  deriving DecidableEq, Repr

/-! ### Axis control (07) -/

/-- R189: slot kinds. -/
inductive Kind where
  | servo | step | band | virtual
  deriving DecidableEq, Repr

/-- R206: slot modes. -/
inductive Mode where
  | off | manual | auto
  deriving DecidableEq, Repr

/-- R189: the binding a SLOT_CONFIG makes, defaults resolved. -/
structure Binding where
  kind : Kind
  structureCode : Nat
  group : Fin 8
  essential : Bool
  evBand : Bool
  evSat : Bool
  epModel : Bool
  dom : Dom
  curCad : Nat
  outCad : Nat
  fbSource : Nat
  phase : Nat
  curOffset : Nat
  outOffset : Nat
  curLeaf : Byte
  leaves : List Byte
  compTable : Option Nat
  repTable : Option Nat
  invPos : Nat
  invVel : Nat
  standstill : Nat
  bandSrc : Nat
  bandDst : Nat
  bandEp : Nat
  bandCh : Nat
  safeOut : Nat
  deriving DecidableEq, Repr

/-- R196: a pair part. Gains are C24 mantissas; the rest are the 24-bit words. -/
structure Pair where
  expHold : Int := 0
  expDrive : Int := 0
  kpHold : Int := 0
  kiHold : Int := 0
  kdHold : Int := 0
  kpDrive : Int := 0
  kiDrive : Int := 0
  kdDrive : Int := 0
  kdf : Int := 0
  bandIn : Int := 0
  bandOut : Int := 0
  umin : Int := 0
  umax : Int := 0
  kvff : Int := 0
  v12 : Int := 0
  v13 : Int := 0
  deriving DecidableEq, Repr

/-- R192, R199: one band-law loop. -/
structure Loop where
  /-- 1 | 07 R192 | bank state: DRIVE -/
  drive : Bool := false
  /-- 40 | 07 R191 | integrator, 16 fraction bits below the signal word -/
  i : Int := 0
  /-- 40 | 07 R192 | derivative state, 16 fraction bits below the signal word -/
  d : Int := 0
  /-- 24 | 07 R192 | previous feedback -/
  fbPrev : Int := 0
  /-- 1 | 07 R192 | sat of the last sample -/
  sat : Bool := false
  /-- 24 | 07 R192 | last output -/
  u : Int := 0
  /-- 1 | 07 R192 | the next sample is the first after OFF or after its lease -/
  fresh : Bool := true
  /-- 1 | 07 R193 | a transfer falls in the next sample -/
  transfer : Bool := false
  /-- 25 | 07 R193 | u_ref of an entry from OFF (0) or MANUAL, when the next sample is one -/
  entryRef : Option Int := none
  /-- 07 R199 | pairs A and B, whether each has been loaded since the lease, and which is in force -/
  pairA : Pair := {}
  pairB : Pair := {}
  loadedA : Bool := false
  loadedB : Bool := false
  inB : Bool := false
  /-- 07 R192 | the coefficients in force at the last sample -/
  old : Pair := {}
  deriving DecidableEq, Repr

/-- R202: a notch biquad. Coefficients are C24 mantissas with one exponent. -/
structure Biquad where
  loaded : Bool := false
  enabled : Bool := false
  e : Int := 0
  b0 : Int := 0
  b1 : Int := 0
  b2 : Int := 0
  a1 : Int := 0
  a2 : Int := 0
  x1 : Int := 0
  x2 : Int := 0
  y1 : Int := 0
  y2 : Int := 0
  /-- R202: start with all states equal to the present input at the next sample -/
  start : Bool := false
  deriving DecidableEq, Repr

/-- R203: the disturbance observer. -/
structure Dob where
  loaded : Bool := false
  e : Int := 0
  gain : Int := 0
  pole : Int := 0
  lo : Int := 0
  hi : Int := 0
  /-- 40 | 07 R203 | the estimate, 16 fraction bits below Q15.8 -/
  est : Int := 0
  /-- 07 R203 | the speed of the sample before -/
  vPrev : Int := 0
  deriving DecidableEq, Repr

/-- R204: feedforward. -/
structure Ffwd where
  loaded : Bool := false
  e : Int := 0
  kaff : Int := 0
  kfric : Int := 0
  koffset : Int := 0
  vfric : Int := 0
  deriving DecidableEq, Repr

/-- R205: the repetitive-error map. -/
structure RepMap where
  loaded : Bool := false
  e : Int := 0
  gain : Int := 0
  period : Nat := 0
  ramp : Nat := 0
  /-- gain in effect and the samples of the ramp done, R205 adaptation state -/
  gainNow : Int := 0
  gainFrom : Int := 0
  /-- 07 R205 | samples of the ramp done -/
  done : Nat := 0
  deriving DecidableEq, Repr

/-- R209–R212: the plausibility model. -/
structure Plaus where
  loaded : Bool := false
  g : Int := 0
  gExp : Int := 0
  beta : Int := 0
  betaExp : Int := 0
  fric : Int := 0
  velTh : Int := 0
  posTh : Int := 0
  nSuspect : Nat := 1
  nResume : Nat := 1
  coastMax : Nat := 64
  countsRev : Nat := 0
  loadRatio : Nat := 0
  /-- R210: g and beta computed from the Endpaper, in units of 2^-63 counts/ms² and 2^-63 per ms -/
  epG : Option Int := none
  epBeta : Option Int := none
  /-- 112 | 07 R209 | p_m, 2^-48 counts -/
  pm : Int := 0
  /-- 64 | 07 R209 | v_m, 2^-40 counts/ms -/
  vm : Int := 0
  /-- 24 | 07 R216 | last rv, Q15.8 -/
  rv : Int := 0
  /-- 24 | 07 R216 | last rp, Q15.8 -/
  rp : Int := 0
  /-- R209: no sample has been judged yet -/
  first : Bool := true
  /-- R209: consecutive implausible samples -/
  suspect : Nat := 0
  /-- R212: consecutive plausible samples in a coast -/
  resume : Nat := 0
  /-- 1 | 07 R216 | coasting -/
  coasting : Bool := false
  /-- R211: samples coasted so far -/
  coastLen : Nat := 0
  /-- R211: the coast has reached its limit -/
  limited : Bool := false
  deriving DecidableEq, Repr

/-- R201: the two-level law. -/
structure TwoLevel where
  loaded : Bool := false
  levelLo : Int := 0
  levelHi : Int := 0
  bandIn : Int := 0
  bandOut : Int := 0
  minDwell : Nat := 0
  hi : Bool := false
  dwell : Nat := 0
  deriving DecidableEq, Repr

/-- The state of the loops of the current schedule, committed as one write (R143). -/
structure CurLoops where
  d : Loop := {}
  /-- the q loop of CUR_FOC -/
  q : Loop := {}
  /-- the loop of CUR_DC -/
  dc : Loop := {}
  deriving DecidableEq, Repr

/-- The state of the leaves of the outer schedule, committed as one write (R143). -/
structure OutLoops where
  vel : Loop := {}
  pos : Loop := {}
  band : Loop := {}
  notch : Vector Biquad 4 := Vector.replicate 4 {}
  dob : Dob := {}
  ffwd : Ffwd := {}
  rep : RepMap := {}
  plaus : Plaus := {}
  two : TwoLevel := {}
  deriving DecidableEq, Repr

/-- R28, R191: a result waiting in the stamped latch. -/
inductive OutVal where
  /-- duty words of the phases U V W (R541), or of A B -/
  | duty3 (u v w : Nat)
  | duty2 (a b : Nat)
  /-- a current set-point, Q15.8 -/
  | current (i : Int)
  /-- the microsteps to have been emitted by the end of the period (R243) -/
  | step (target : Int)
  /-- a manual step rate, V32 (R207) -/
  | rate (v : Int)
  /-- a band output, Q1.23 -/
  | band (f : Int)
  /-- OUT words of a user leaf -/
  | words (ws : List Int)
  deriving DecidableEq, Repr

/-- One latched result with its t_apply. -/
structure Latched where
  val : OutVal
  tApply : Stamp
  held : Bool := false
  deriving DecidableEq, Repr

/-- R57, R152, R153: one schedule of a slot, or a lattice's. -/
structure SchedSt where
  /-- 65 | 02 R57 | next sample instant in the schedule's domain; of a slot in OFF, the next instant of its grid -/
  next : Option T64 := none
  /-- sample index since the slot left OFF -/
  index : Nat := 0
  /-- the job made at the last sample and not yet queued, R142 -/
  forming : Option Job := none
  /-- 64 | 05 R152 | sample indices of overruns within the last 64 samples, newest first -/
  overruns : List Nat := []
  /-- the last sample overran -/
  lastOverrun : Option Nat := none
  /-- 16 × 24 | 05 R142 | the LDIN inputs of the last job, which stand in for missing ones -/
  lastIns : List Int := []
  /-- escalated already for the overruns listed, R153 -/
  latch : List Latched := []
  /-- 05 R152 | the last two applied outputs, newest first -/
  applied : List OutVal := []
  /-- 07 R187 | t_apply of the newest applied output -/
  appliedAt : Option T64 := none
  deriving DecidableEq, Repr

/-! ### Trajectories (08) -/

/-- R218: set-point sources. -/
inductive SrcKind where
  | profile | path | gear | cam | coarse
  deriving DecidableEq, Repr

/-- R222: slot limits, V32, A32 and J32 words. -/
structure Limits where
  vmax : Int := 0
  amax : Int := 0
  dmax : Int := 0
  jmax : Int := 0
  stopDec : Int := 0
  stopJerk : Int := 0
  reject : Bool := false
  deriving DecidableEq, Repr

/-- R223–R225: the goal in force of a generator. Positions are in 2^-16 counts. -/
inductive Goal where
  | none
  | position (target : Int)
  | velocity (v : Int)
  | rest
  deriving DecidableEq, Repr

/-- R221: the generator's state: p in 2^-48 counts, v in 2^-40 counts/ms, a in 2^-40 counts/ms². -/
structure Gen where
  p : Int := 0
  v : Int := 0
  a : Int := 0
  deriving DecidableEq, Repr

/-- R221: the planned cubic of the present period, from its sample instant. j in 2^-40 counts/ms³. -/
structure Cubic where
  t0 : T64 := 0
  p : Int := 0
  v : Int := 0
  a : Int := 0
  j : Int := 0
  deriving DecidableEq, Repr

/-- R236–R240: the gear cell. -/
structure Gear where
  masterKind : Nat := 0
  masterSlot : Nat := 0
  masterMember : Nat := 0
  num : Int := 0
  den : Nat := 1
  /-- 64 signed | 08 R238 | M -/
  m : Int := 0
  /-- 64 signed | 08 R238 | fq; rem -/
  fq : Int := 0
  rem : Int := 0
  /-- Q48.16 | 08 R238 | base -/
  base : Int := 0
  /-- 32 | 08 R238 | the master's integer position at the last sample -/
  last : Int := 0
  /-- 08 R240 | cam: table, interpolation, periodic, exponent, m0, span, x at taking effect, last cycle -/
  table : Nat := 0
  cubic : Bool := false
  periodic : Bool := false
  e : Int := 0
  m0 : Int := 0
  span : Nat := 1
  x0 : Int := 0
  cycle : Int := 0
  outOfRange : Bool := false
  /-- 08 R239 | the superposed offset is being brought to rest, and GEAR_LOCKED is still to be raised -/
  engaging : Bool := false
  /-- 08 R239 | s is still to be formed at the taking-effect sample -/
  fresh : Bool := false
  /-- 09 R263 | sum of the master's re-references since the descriptor took effect, 2^-16 counts -/
  shift : Int := 0
  /-- the master trajectory value at the previous sample in 2^-16 counts, velocity and acceleration -/
  vM : Int := 0
  aM : Int := 0
  deriving DecidableEq, Repr

/-- R245: the step configuration. -/
structure StepCfg where
  endpoint : Bool := false
  stepPin : Nat := 0
  dirPin : Nat := 0
  coarse : Bool := false
  inStep : Nat := 0
  inDir : Nat := 0
  invOut : Bool := false
  activeLow : Bool := false
  invIn : Bool := false
  fallIn : Bool := false
  pulseNs : Nat := 0
  setupNs : Nat := 0
  idleMs : Nat := 0
  firstUs : Nat := 0
  runCurrent : Int := 0
  holdCurrent : Int := 0
  holdDelayMs : Nat := 0
  deriving DecidableEq, Repr

/-- R242–R246: step generation of a slot. -/
structure StepSt where
  cfg : Option StepCfg := none
  /-- 48 | 08 R242 | phase accumulator at tick `at`, in 2^-48 microstep, with carries not yet emitted above bit 47 -/
  acc : Int := 0
  /-- 49 signed | 08 R242 | increment per tick -/
  inc : Int := 0
  /-- 64 | 08 R242 | D0 tick up to which acc is formed -/
  tick : Nat := 0
  /-- 64 signed | 08 R243, R244 | net microsteps emitted -/
  emitted : Int := 0
  /-- 64 signed | 01 R37 | net microsteps commanded -/
  commanded : Int := 0
  /-- 32 signed | 08 R243 | owed microsteps -/
  owed : Int := 0
  /-- 5 | 08 R243 | consecutive samples limited by the clamp -/
  clamped : Nat := 0
  /-- 1 | 08 R243 | rate_limited -/
  rateLimited : Bool := false
  /-- 08 R246, R277 | coarse steps accepted at the input pin and not yet taken: D0 stamp, negative -/
  coarseIn : List (Nat × Bool) := []
  /-- 32 | 08 R244 | delay carried from direction changes, LSB -/
  delay : Nat := 0
  /-- 64 signed | 08 R246 | coarse command, 2^-16 microsteps -/
  coarse : Int := 0
  /-- 65 | 08 R246 | stamp of the last coarse step; none at standstill -/
  lastCoarse : Option Nat := none
  /-- 08 R246 | spreading time of the last coarse step, LSB; the planned command at that step, 2^-16 microsteps -/
  tc : Nat := 0
  ramp : Int := 0
  /-- command position, 2^-16 counts, at which no microstep would have been emitted (moved by re-references) -/
  base : Int := 0
  /-- 08 R246 | no coarse step for idle_ms -/
  idle : Bool := true
  /-- 08 R244 | D0 instant since which the slot is at rest -/
  restSince : Option Nat := none
  deriving DecidableEq, Repr

/-- R247: a homing in progress. -/
structure Homing where
  /-- the in-flight HOME_STALL -/
  desc : Nat
  /-- R247: the direction is negative -/
  neg : Bool
  /-- R247: n_stall -/
  nStall : Nat
  /-- R247: i_limit -/
  iLimit : Nat
  /-- R247: v_search -/
  vSearch : Int
  /-- R247: lag_th -/
  lagTh : Nat
  /-- R247: v_th -/
  vTh : Int
  /-- R247: offset -/
  offset : Int
  /-- R247: max_travel -/
  maxTravel : Nat
  /-- R247: the move to 0 follows -/
  back : Bool
  /-- command position at the start, 2^-16 counts -/
  start : Int := 0
  /-- R247: the test for a stall has begun -/
  armed : Bool := false
  /-- R247: consecutive samples that show a stall -/
  count : Nat := 0
  /-- the stall is found and the slot moves to the new zero -/
  returning : Bool := false
  /-- max_travel has passed and the slot comes to rest -/
  failing : Bool := false
  /-- stall position, integer counts -/
  stallPos : Int := 0
  deriving DecidableEq, Repr

/-- R262: a re-reference waiting for its sample. -/
structure Reref where
  kind : Nat
  /-- trigger stamp in the slot's domain -/
  tr : T64
  /-- the raw position C + f at t_r, 2^-16 counts: x of R262 is this less O -/
  x : Int
  r : Int
  /-- order of arrival, for equal stamps (R20) -/
  order : Nat := 0
  deriving DecidableEq, Repr

/-- R270: the registers of a pitch-error compensation. -/
structure PecSet where
  on : Bool := false
  table : Nat := 0
  x0 : Int := 0
  step : Nat := 1
  e : Int := 0
  deriving DecidableEq, Repr

/-- R253–R274: the feedback of a slot. -/
structure FbSt where
  /-- 64 signed | 09 R253 | O, Q48.16 -/
  o : Int := 0
  /-- 64 signed | 07 R541 | offsets recorded by arrival rebases -/
  oRebase : Int := 0
  /-- 32 | 09 R267, R268 | last endpoint count, or last accepted reading -/
  last : BitVec 32 := 0
  /-- 1 | 09 R269 | the next good reply is the first after an arrival -/
  rebase : Bool := true
  /-- 09 R267 | last two edges of an incremental channel: stamp, direction negative -/
  edges : List (T64 × Bool) := []
  /-- 09 R268 | D0 instant at which the reading last changed -/
  changed : Nat := 0
  /-- 48 | 09 R258 | interpolation fraction of the last sample, 2^-16 counts -/
  f : Int := 0
  /-- 48 | 09 R253 | measured position in use (model value while coasting), P48 -/
  meas : P48 := 0
  /-- 48 + 32 | 07 R209 | position and speed as measured at the last good sample, where a coast replaces those in use -/
  inPos : P48 := 0
  inVel : Int := 0
  /-- 32 | 09 R259 | measured speed in use, V32; and of the sample before -/
  v : Int := 0
  vPrev : Int := 0
  /-- 32 | 09 R259 | v_prev: the speed last measured, which a coast does not replace -/
  vLast : Int := 0
  /-- 09 R259 | the edge k0: count after it and stamp -/
  k0 : Option (BitVec 32 × Nat) := none
  /-- 1 | 09 R274 | stale, standstill, reref_deferred -/
  stale : Bool := false
  standstill : Bool := false
  deferred : Bool := false
  /-- 09 R271 | the index lies outside the table, reported -/
  pecRange : Bool := false
  /-- 09 R270 | the compensation registers as they act since the slot's last sample instant -/
  pecSet : PecSet := {}
  /-- 09 R270, 06 R182 | the referenced position that the last sample's compensation looked up -/
  pecAt : Option Int := none
  /-- 09 R262 | re-references waiting -/
  rerefs : List Reref := []
  /-- 32 signed | 01 R37, 09 R261 | wrap audit; 32 | skip audit; 32 | re-reference audit -/
  wraps : Int := 0
  skips : Word := 0
  reref : Word := 0
  /-- 1 | 09 R259 | the next sample is the first after OFF -/
  first : Bool := true
  /-- 32 signed | 09 R268 | sum of the d of the readings an absolute channel accepted since the last outer sample -/
  d : Int := 0
  /-- 48 + 64 | 10 R291 | referenced and compensated position of the last good sample and of the one before, which a coast
  does not replace, and C + f of R258 at each -/
  raw : Option (T64 × P48 × Int) := none
  rawBefore : Option (T64 × P48 × Int) := none
  deriving DecidableEq, Repr

/-- R206: a mode change waiting for the measurement of its sample. -/
inductive EntryKind where
  | none
  /-- entry to AUTO: the command takes the measured position -/
  | auto
  /-- SOFT_START: the generator takes measured position and velocity -/
  | soft
  deriving DecidableEq, Repr

/-- R228: a SOFT_START that has taken effect at a sample. -/
structure SoftStart where
  /-- the in-flight descriptor, while it may still be refused (R227) -/
  desc : Option Nat := none
  /-- 48 | the target; none: to rest -/
  target : Option Nat := none
  /-- R225: type and serial number the arrival is raised with -/
  tag : Byte × Nat
  /-- R223: its per-move limits -/
  lims : Int × Int × Int × Int
  /-- the slot has entered AUTO at the same sample -/
  auto : Bool := false
  /-- a later descriptor of the sample has set another course -/
  replaced : Bool := false
  deriving DecidableEq, Repr

/-- R410: what a slot's last jobs and samples computed and nothing else of the state holds, for the Quire. -/
structure Mon where
  /-- 24 each | 15 R410 | position error, velocity error, feedforward current, Q15.8 -/
  ep : Int := 0
  ev : Int := 0
  ffc : Int := 0
  /-- 24 each | 15 R410 | q and d current feedback, Q15.8 -/
  iq : Int := 0
  /-- 24 | 15 R410 | d current feedback, Q15.8 -/
  id : Int := 0
  /-- 16 each | 15 R410 | phase currents, I16 -/
  iU : Int := 0
  iV : Int := 0
  iW : Int := 0
  /-- 24 each | 15 R410 | pitch-error and REP_MAP corrections, band process value, Q15.8 -/
  pec : Int := 0
  rep : Int := 0
  band : Int := 0
  /-- 32 each | 15 R410 | slack of the last outer and current job, ns -/
  slackOut : Int := 0
  slackCur : Int := 0
  /-- 8 × 24 each | 15 R410 | OUT words of the last outer and current job -/
  outsOut : List (Option (BitVec 24)) := []
  outsCur : List (Option (BitVec 24)) := []
  deriving DecidableEq, Repr

/-- 07–09: a slot. -/
structure Slot where
  /-- 07 R189 | the binding in force; none: not configured -/
  bind : Option Binding := none
  /-- 2 | 07 R206 | mode -/
  mode : Mode := .off
  /-- 32 | 07 R206 | the manual value -/
  manual : BitVec 32 := 0
  /-- 07 R187 | the loops of the current schedule -/
  cur : CurLoops := {}
  /-- 07 R187 | the loops of the outer schedule -/
  out : OutLoops := {}
  /-- 01 R25 | the current schedule -/
  curSched : SchedSt := {}
  /-- 01 R25 | the outer schedule -/
  outSched : SchedSt := {}
  /-- 16 | 07 R216 | coasts since reset; 9 | longest coast -/
  coasts : Nat := 0
  longest : Nat := 0
  /-- 32 | 07 R216 | bank-state changes -/
  bands : Word := 0
  /-- 3 | 08 R218 | source; path group -/
  source : SrcKind := .profile
  pathGroup : Fin 4 := 0
  /-- 08 R222 | limits, once loaded since SLOT_CONFIG -/
  limits : Option Limits := none
  /-- 08 R223 | per-move limits; 0: slot limit -/
  moveV : Int := 0
  moveA : Int := 0
  moveD : Int := 0
  moveJ : Int := 0
  /-- 08 R225, R214 | rest at the STOP limits stop_dec and stop_jerk -/
  stopLimits : Bool := false
  /-- 08 R225 | what the generator heads for -/
  goal : Goal := .none
  /-- 8 + 3 | 08 R225 | tag and ring of the descriptor that set the goal, while MOVE_DONE is to come -/
  goalTag : Option (Byte × Nat) := none
  /-- the target taken up again after a reversal's rest, R227 -/
  reverseTo : Option Int := none
  /-- 08 R224 | the state of the generator -/
  gen : Gen := {}
  /-- 08 R221 | the command of the period under way -/
  cubic : Cubic := {}
  /-- 1 each | 08 R249 -/
  atGoal : Bool := false
  decelHeld : Bool := false
  reversing : Bool := false
  /-- 08 R226 | deceleration and jerk held -/
  heldDec : Int := 0
  heldJerk : Int := 0
  /-- 07 R207 | the slot has just entered this mode -/
  entry : EntryKind := .none
  /-- 08 R228 | the SOFT_START whose generator state waits for the sample's measurement -/
  soft : Option SoftStart := none
  /-- 08 R236 | gear or cam -/
  gear : Gear := {}
  /-- 08 R237 | the sample whose set-point waits for the measured position of the master -/
  waitMaster : Option T64 := none
  /-- 08 R242 | the step generator -/
  step : StepSt := {}
  /-- 08 R247 | the homing under way -/
  homing : Option Homing := none
  /-- 09 R253 | feedback -/
  fb : FbSt := {}
  /-- 08 R229 | P48, V32, A32 the loops follow at the present sample -/
  cmdP : P48 := 0
  cmdV : Int := 0
  cmdA : Int := 0
  /-- 07 R214 | SS1 is under way for this slot: it decelerates or has taken safe_out -/
  ss1 : Bool := false
  /-- 03 R105, R496 | the orphan policy or a park entry drives the slot -/
  parked : Bool := false
  /-- 15 R410 | signals for the Quire -/
  mon : Mon := {}
  deriving DecidableEq, Repr

/-- R213–R215: a stop group. -/
structure Group where
  /-- 1 | 07 R216 | under SS1 -/
  ss1 : Bool := false
  /-- 1 | 07 R216 | stopped -/
  stopped : Bool := false
  deriving DecidableEq, Repr

/-- R231: a path segment. -/
structure Segment where
  desc : Nat
  kind : Nat
  planeA : Nat
  planeB : Nat
  stop : Bool
  last : Bool
  feed : Int
  ends : List Int
  centreA : Int
  centreB : Int
  ordinal : Nat
  deriving DecidableEq, Repr

/-- R230: states of a path group. -/
inductive PathState where
  | undefined | idle | running | holding
  deriving DecidableEq, Repr

/-- R230–R235: a path group. Path length and its derivatives as R221's p, v, a. -/
structure PathGroup where
  state : PathState := .undefined
  starved : Bool := false
  members : List (Fin 32) := []
  vmax : Int := 0
  amax : Int := 0
  jmax : Int := 0
  cornerTol : Nat := 0
  queue : List Segment := []
  /-- the segment under way has begun -/
  begun : Bool := false
  /-- R231: the number of the segment under way -/
  ordinal : Nat := 0
  /-- distance from the start of the segment under way, its speed and acceleration -/
  gen : Gen := {}
  /-- positions of the members at the start of the segment under way, 2^-16 counts, and of the one before -/
  start : List Int := []
  /-- positions of the members at the start of the segment before -/
  prevStart : List Int := []
  /-- R235: the group decelerates to end its path -/
  aborting : Bool := false
  /-- R235: the group decelerates under SS1 -/
  ss1 : Bool := false
  /-- sample instant the group was last moved on to, and its members' states there, each with its jerk -/
  at_ : Option T64 := none
  pts : List (Gen × Int) := []
  /-- 09 R263 | a re-reference took effect: the segment under way is drawn again from the present position -/
  redraw : Bool := false
  deriving DecidableEq, Repr

/-! ### Local feedback ports (09) -/

/-- R255: an accepted edge: stamp, direction, C after it. -/
structure CountEdge where
  t : Nat
  neg : Bool
  c : BitVec 32
  deriving DecidableEq, Repr

/-- R253–R266: ENC0, ENC1 or the Hall port. -/
structure Port where
  /-- 3 | 09 R273 | lines: Z A B, or U V W, filtered -/
  lines : BitVec 3 := 0
  /-- 32 | 09 R253 | C -/
  c : BitVec 32 := 0
  /-- 32 | 09 R273 | SKIPS, GLITCHES, INVALID -/
  skips : Word := 0
  glitches : Word := 0
  invalid : Word := 0
  /-- 09 R258 | the last accepted counting edges, newest first -/
  edges : List CountEdge := []
  /-- 09 R260 | the first counting edge after the last standstill -/
  start : Option CountEdge := none
  /-- 09 R256 | `start` before the last counted edge, which a skip restores -/
  startWas : Option CountEdge := none
  /-- 09 R256, R261 | the wraps whose edges may still turn out to be half of a skip: direction, C, stamp -/
  wraps : List (Int × BitVec 32 × Nat) := []
  /-- 65 | 09 R256, R273 | D0 stamp of the last accepted edge, of A and of B -/
  last : Option Nat := none
  lastA : Option Nat := none
  lastB : Option Nat := none
  /-- 1 | 09 R273 | dir -/
  neg : Bool := false
  /-- 1 | 09 R273 | standstill -/
  standstill : Bool := false
  /-- 1 | 19 R490 | the port's CFG has been written since reset, so that its own fields are in force -/
  ownCfg : Bool := false
  /-- 1 | 09 R273 | z_seen; 64 | Z_STAMP; 32 | Z_COUNT -/
  zSeen : Bool := false
  zStamp : T64 := 0
  zCount : BitVec 32 := 0
  /-- 1 | 09 R257 | Z has returned to its inactive level for w -/
  zReady : Bool := true
  /-- 1 | 09 R273 | pec_range -/
  pecRange : Bool := false
  /-- 3 | 09 R266 | Hall: last valid state -/
  valid : BitVec 3 := 0
  /-- 3 | 09 R265 | Hall: sector, once a valid state has been seen -/
  sector : Option (Fin 6) := none
  deriving DecidableEq, Repr

/-- 07–09: slots, stop groups, path groups, ports. -/
structure AxisSt where
  /-- 48 × 32 | 09 R253 | C of every endpoint channel, by (2 × endpoint + axis) × 2 + channel; unlisted: 0 -/
  chans : List (Nat × Nat) := []
  /-- 32 × | 07 R185 | the slots -/
  slots : Vector Slot 32 := Vector.replicate 32 {}
  /-- 8 × | 07 R213 | the stop groups -/
  groups : Vector Group 8 := Vector.replicate 8 {}
  /-- 4 × | 08 R230 | the path groups -/
  paths : Vector PathGroup 4 := Vector.replicate 4 {}
  /-- 3 × | 09 R254 | ENC0, ENC1, Hall -/
  ports : Vector Port 3 := Vector.replicate 3 {}
  /-- order of the next re-reference (R20) -/
  rerefOrder : Nat := 0
  deriving DecidableEq, Repr


/-! ### Time pins, compare units, latch units, lattices (10) -/

/-- R276: owners of an output pin. -/
inductive PinOwner where
  | compare (u : Fin 16) | lattice (n : Fin 4) | step (slot : Fin 32)
  deriving DecidableEq, Repr

/-- R276–R278, R302: a time pin. -/
structure Pin where
  /-- 1 | 10 R302 | level at the ball of an input -/
  level : Bool := false
  /-- 1 | 10 R302 | stuck -/
  stuck : Bool := false
  /-- 8 + 4 | 10 R302 | owner -/
  owner : Option PinOwner := none
  /-- 32 | 10 R302 | SUPPRESSED, EDGES -/
  suppressed : Word := 0
  edges : Word := 0
  /-- 65 | 10 R277 | D0 stamp of the last accepted edge, and the level it set -/
  last : Option Nat := none
  lastLevel : Bool := false
  /-- 1 | 10 R277 | the 40 ns after the last accepted edge have not been closed -/
  merging : Bool := false
  /-- 1 | 10 R278 | PIN_STUCK raised for the present edge -/
  stuckDone : Bool := false
  deriving DecidableEq, Repr

/-- R283: an arming of a compare unit. Positions in 2^-16 counts. -/
structure CmpArm where
  slot : Fin 32
  measured : Bool
  mode : Nat
  dir : Nat
  outPin : Option (Fin 4)
  outEp : Option (Fin 12)
  action : Nat
  lateFire : Bool
  record : Bool
  activeLow : Bool
  widthNs : Nat
  channel : Byte
  a : P48
  b : P48
  period : Nat
  count : Nat
  /-- R285: acceptance stamp of the COMPARE_ARM -/
  accepted : T64
  deriving DecidableEq, Repr

/-- R280: the cubic a unit holds for a window, from its start, in the slot's domain. -/
structure Window where
  from_ : T64
  len : Nat
  /-- D0 or domain instant the cubic's time is counted from -/
  cubic : Cubic
  /-- R280: the sample coasts -/
  coast : Bool := false
  deriving DecidableEq, Repr

/-- R317: an EDGE item for the command signature of an endpoint; its action carries the polarity of the arming that fired it. -/
structure EdgeItem where
  ep : Fin 12
  channel : Byte
  action : Byte
  widthNs : Nat
  time : T64
  unit : Fin 16
  deriving DecidableEq, Repr

/-- R279–R288, R302: a compare unit. -/
structure Compare where
  arm : Option CmpArm := none
  /-- 1 | 10 R302 | late_armed, active -/
  lateArmed : Bool := false
  active : Bool := false
  /-- 32 | 10 R284 | k -/
  k : Nat := 0
  /-- 1 | 10 R285 | the next window is the arming window -/
  fresh : Bool := false
  /-- 10 R281 | position at the end of the last window, in the units of `cubicNum` -/
  lastX : Option Int := none
  window : Option Window := none
  /-- 32 | 10 R302 | FIRES; 64 | LAST -/
  fires : Word := 0
  last : T64 := 0
  /-- mode of the last arming, shown in STATUS -/
  mode : Nat := 0
  /-- slot of the last arming, shown in STATUS -/
  slot : Nat := 0
  /-- 10 R288 | edges waiting for the next command signatures -/
  items : List EdgeItem := []
  deriving DecidableEq, Repr

/-- R289: an arming of a latch unit. -/
structure LatArm where
  source : Nat
  index : Nat
  edge : Nat
  slot : Fin 32
  continuous : Bool
  reref : Bool
  dom : Dom
  count : Nat
  value : P48
  taken : Nat := 0
  /-- D0 update point from which it takes triggers -/
  since : Nat
  deriving DecidableEq, Repr

/-- R291: a trigger of an endpoint-fed slot waiting for the later sample. -/
structure LatWait where
  unit : Fin 16
  arm : LatArm
  /-- stamp in the slot's domain, and in D0 -/
  t : T64
  d0 : Nat
  /-- R291: the merged flag of the trigger -/
  merged : Bool
  deriving DecidableEq, Repr

/-- R289–R292, R302: a latch unit. -/
structure Latch where
  arm : Option LatArm := none
  /-- 10 R292 | replaced armings, newest first, each with the D0 update point it ended at: an endpoint's trigger stamped before
  that point and received after it belongs to it -/
  old : List (LatArm × Nat) := []
  /-- 10 R302 | source of the last arming, shown in STATUS -/
  source : Nat := 0
  /-- 10 R302 | it re-references, shown in STATUS -/
  reref : Bool := false
  /-- 10 R302 | its slot, shown in STATUS -/
  slot : Nat := 0
  /-- 10 R302 | its domain, shown in STATUS -/
  dom : Nat := 0
  /-- 32 | 10 R302 | TAKEN; 48 | POS; 64 | STAMP -/
  taken : Word := 0
  pos : P48 := 0
  stamp : T64 := 0
  deriving DecidableEq, Repr

/-- R293: states of a lattice. -/
inductive LtcState where
  | unloaded | idle | armed | firing
  deriving DecidableEq, Repr

/-- R294: what LATTICE_LOAD configures. -/
structure LtcCfg where
  slot : Fin 32
  measured : Bool
  pins : BitVec 4
  activeLow : Bool
  eps : BitVec 12
  widthNs : Nat
  pitch : Nat
  start : P48
  stop : P48
  dots : Nat
  minSpacing : Nat
  ofsFwd : Int
  ofsRev : Int
  tFlight : Nat
  deriving DecidableEq, Repr

/-- R296: what one output of a lattice has reached. -/
structure LtcOut where
  /-- next dot; none: the last dot is done -/
  next : Option Nat := none
  lastFire : Option T64 := none
  /-- R299: items of the window and provisional items, for the fire list -/
  items : List (Nat × T64 × Bool × Bool) := []
  /-- R299: provisional items of the window -/
  prov : List (Nat × T64) := []
  /-- 10 R299 | start of the window whose fire list is still to be sent -/
  base : Option T64 := none
  deriving DecidableEq, Repr

/-- R293–R302: a lattice. -/
structure Lattice where
  state : LtcState := .unloaded
  cfg : Option LtcCfg := none
  /-- 1 | 10 R300 | pass direction: negative; unresolved while dir 3 waits for motion -/
  neg : Bool := false
  undecided : Bool := false
  /-- 10 R300 | first dot of the run -/
  first : Nat := 0
  /-- 10 R300 | last dot of the run -/
  last : Nat := 0
  /-- 10 R300 | tag and ring of the run -/
  tag : Byte := 0
  sq : Nat := 0
  /-- 16 × | 10 R294 | the outputs -/
  outs : Vector LtcOut 16 := Vector.replicate 16 {}
  /-- 10 R297 | the next window is the first of the pass -/
  fresh : Bool := false
  /-- 10 R296 | the pass has ended -/
  passEnd : Bool := false
  /-- 05 R152, 10 R293 | polynomial the leaf committed, and the one used last -/
  poly : Option Window := none
  /-- 05 R152 | the polynomial used last -/
  lastPoly : Option Window := none
  /-- 1 | 10 R302 | coast -/
  coast : Bool := false
  /-- 32 | 10 R302 | FIRED, SHIFTED, SKIPPED, PASSES; of the pass under way -/
  fired : Word := 0
  shifted : Word := 0
  skipped : Word := 0
  passes : Word := 0
  /-- of the pass under way: fired -/
  passFired : Nat := 0
  /-- of the pass under way: shifted -/
  passShifted : Nat := 0
  /-- of the pass under way: skipped -/
  passSkipped : Nat := 0
  /-- R105 PARK: the pass runs to its stop position and the lattice then disarms -/
  orphan : Bool := false
  /-- 01 R25 | the schedule of its leaf -/
  sched : SchedSt := {}
  deriving DecidableEq, Repr

/-- 10: the PINS block. -/
structure PinSt where
  pins : Vector Pin 4 := Vector.replicate 4 {}
  cmp : Vector Compare 16 := Vector.replicate 16 {}
  lat : Vector Latch 16 := Vector.replicate 16 {}
  ltc : Vector Lattice 4 := Vector.replicate 4 {}
  /-- 10 R291 | triggers waiting for a later sample -/
  waits : List LatWait := []
  deriving DecidableEq, Repr

/-! ### Signature links and the identity bus (11) -/

/-- R335: a transfer queued on a link. -/
structure Xfer where
  desc : Nat
  ep : Fin 12
  mode : Nat
  op : Nat
  cmd : Byte
  addrBits : Nat
  addrLanes : Nat
  dummy : Nat
  dataLanes : Nat
  addr : Nat
  len : Nat
  bufAddr : BitVec 64
  data : List Byte
  /-- R327: 0 waiting, 1 request sent, 2 response waiting, 3 response good and to be acknowledged -/
  phase : Nat := 0
  /-- R327: requests sent -/
  requests : Nat := 0
  /-- R327: responses received in part -/
  responses : Nat := 0
  /-- R328: it holds a credit -/
  credit : Bool := false
  /-- R327: status byte of the response -/
  status : Byte := 0
  /-- R327: data of the response so far -/
  got : List Byte := []
  deriving DecidableEq, Repr

/-- R306, R326: a signature link. -/
structure Link where
  /-- 1 | 11 R306 | the link's clock runs -/
  active : Bool := false
  /-- ≤ 16 | 11 R326 | transfers queued -/
  queue : List Xfer := []
  deriving DecidableEq, Repr

/-- R329: a binding of an endpoint. -/
structure EpBind where
  kind : Byte
  serialMust : Bool
  mgroup : Nat
  axis0 : Option (Fin 32)
  axis1 : Option (Fin 32)
  idRec0 : Option (Fin 8)
  idRec1 : Option (Fin 8)
  lead : Nat
  rdelay : Nat
  serial : List Byte
  deriving DecidableEq, Repr

/-- R346: states of an endpoint. -/
inductive EpState where
  | absent | answering | cyclic | mismatch
  deriving DecidableEq, Repr

/-- R314–R334: an endpoint. -/
structure Endpoint where
  state : EpState := .absent
  bind : Option EpBind := none
  badIdentity : Bool := false
  epFault : Bool := false
  outputs : Bool := false
  /-- 2048 | 11 R338 | the Endpaper read at arrival, while valid -/
  paper : List Byte := []
  /-- 8 | 11 R338 | its kind -/
  kind : Byte := 0
  /-- 11 R331 | failed attempts; D0 instant of the last poll -/
  attempts : Nat := 0
  /-- 11 R331 | D0 instant of the last poll -/
  lastPoll : Option Nat := none
  /-- 1 | 11 R346 | the last poll has had an answer -/
  answered : Bool := false
  /-- 1 | 11 R331 | command signatures run but the first good reply has not come -/
  arriving : Bool := false
  /-- 4 × 4 | 11 R319 | alive counters: CMD, AREQ sent; REPLY, ARSP of the last good one -/
  aliveCmd : BitVec 4 := 0
  aliveAreq : BitVec 4 := 0
  aliveReply : Option (BitVec 4) := none
  aliveArsp : Option (BitVec 4) := none
  /-- 1 | 11 R315 | nack, ack to send -/
  nack : Bool := false
  ack : Bool := false
  /-- 4 | 11 R346 | miss_run -/
  missRun : Nat := 0
  /-- 32 | 11 R346 | RX_BAD, RX_MISSING, NACKS, GAPS -/
  rxBad : Word := 0
  rxMissing : Word := 0
  nacks : Word := 0
  gaps : Word := 0
  /-- 16 | 11 R346 | arrivals, departures -/
  arrivals : Nat := 0
  departures : Nat := 0
  /-- 11 R328 | credit total of the endpoint, free, outstanding, last cumulative count -/
  creditTotal : Nat := 0
  creditFree : Nat := 0
  creditSeen : Byte := 0
  /-- 11 R327 | areq_nack and apend of the last good reply -/
  areqNack : Bool := false
  apend : Bool := false
  /-- 11 R347 | stamp of the last good reply -/
  lastGood : T64 := 0
  /-- 64 | 11 R314 | the cycle: the sample instant of the next command signature, in the users' domain -/
  cmdT : Option Stamp := none
  /-- 64 | 11 R314 | the sample instant whose data the next reply carries -/
  cycleT : Option Stamp := none
  /-- 64 | 11 R318 | the sample instant of the last good reply, whose data the blocks below hold -/
  sampleT : Option Stamp := none
  /-- 11 R318 | the last good reply's blocks: currents by axis, values by channel, load angles by axis -/
  cur : List (Nat × Int × Int × Int) := []
  meas : List (Nat × Int) := []
  angle : List (Nat × Int) := []
  /-- 32 | 17 R448 | count or reading of channel 0 in the last good reply -/
  count0 : BitVec 32 := 0
  /-- 16 | 11 R318 | bus voltage by axis, 10 mV -/
  bus : List (Nat × Nat) := []
  /-- 8 | 11 R318 | status byte -/
  status : Byte := 0
  /-- 8 | 11 R318 | temperature -/
  temp : Byte := 0
  /-- 16 | 11 R318 | fault code -/
  faultCode : BitVec 16 := 0
  /-- 32 | 11 R312 | EP_REPLY_CFG as written -/
  replyCfg : Word := 0
  /-- 17 R452 | safety configuration written and read back -/
  safetyOk : Bool := false
  /-- 17 R453, R454 | sto bit sent, fseq, and D0 instant since which STO has been sent without a report -/
  sto : Bool := false
  stoSince : Option Nat := none
  stoReported : Bool := false
  stoFailed : Bool := false
  /-- 2 | 19 R503 | en bit 1 last sent to each axis -/
  brake : BitVec 2 := 0
  deriving DecidableEq, Repr

/-- R343, R344: an identity record. -/
structure IdRecord where
  valid : Bool := false
  fault : Bool := false
  data : List Byte := []
  tries : Nat := 0
  /-- the record is still to be read in the present scan -/
  wanted : Bool := false
  deriving DecidableEq, Repr

/-- 11: the SIGLINK block. -/
structure LinkSt where
  links : Vector Link 4 := Vector.replicate 4 {}
  eps : Vector Endpoint 12 := Vector.replicate 12 {}
  recs : Vector IdRecord 8 := Vector.replicate 8 {}
  /-- 1 | 11 R346 | bus_fault -/
  busFault : Bool := false
  deriving DecidableEq, Repr

/-! ### Local power outputs (12) -/

/-- R358: force codes. -/
inductive Force where
  | none | low | high
  deriving DecidableEq, Repr

/-- R352: a write waiting in a channel's shadow, with its D0 stamp. -/
structure ShadowWrite where
  stamp : Nat
  period : Option Nat := none
  duty : Option Nat := none
  enable : Option Bool := none
  forceH : Option Force := none
  forceL : Option Force := none
  /-- the in-flight descriptor -/
  desc : Option Nat := none
  /-- R354: the pair group, or the descriptor alone, by serial number; none: not a descriptor -/
  pair : Option Nat := none
  deriving DecidableEq, Repr

/-- R355: the dead time of one edge type. -/
structure DeadTime where
  d : Nat := 200
  limit : Bool := false
  /-- samples of the running mean, LSB -/
  samples : List Nat := []
  /-- consecutive edges without a sample -/
  without : Nat := 0
  /-- D0 instant of the last turn-off edge of the type, not yet answered -/
  tOff : Option Nat := none
  deriving DecidableEq, Repr

/-- R348–R362: a channel. -/
structure Channel where
  period : Nat := 0x13880
  duty : Nat := 0
  phase : Nat := 0
  enabled : Bool := false
  forceH : Force := .none
  forceL : Force := .none
  shadow : List ShadowWrite := []
  lh : DeadTime := {}
  hl : DeadTime := {}
  /-- 8 | 12 R356 | consecutive periods with the high side on; inserted and counted refreshes -/
  onPeriods : Nat := 0
  refreshing : Bool := false
  boots : Word := 0
  /-- 12 R354 | last separate changes: D0 instant and pair group of the last period and duty change -/
  lastPeriod : Option (Nat × Option Nat) := none
  lastDuty : Option (Nat × Option Nat) := none
  /-- 24 | 12 R354 | the period before the last change -/
  oldPeriod : Nat := 0x13880
  /-- 64 | 12 R349 | the domain instant of the last reload -/
  last : Option T64 := none
  deriving DecidableEq, Repr

/-- R357: a trip input. -/
structure TripSt where
  /-- 1 | 12 R362 | present active level, latched -/
  active : Bool := false
  latched : Bool := false
  /-- gates of its map are held low by this trip -/
  holding : Bool := false
  /-- clear asked; the gates resume at the next reload -/
  clearing : Bool := false
  /-- D0 stamp of the input edge waiting for the close of a blanking window -/
  waiting : Option Nat := none
  /-- D0 instant at which the blanking window closes -/
  blankEnd : Option Nat := none
  deriving DecidableEq, Repr

/-- 12: the POWER block. -/
structure PowerSt where
  ch : Vector Channel 3 := Vector.replicate 3 {}
  trips : Vector TripSt 2 := Vector.replicate 2 {}
  /-- 16 | 12 R362 | trips since reset -/
  tripCount : Nat := 0
  /-- 3 | 12 R362 | sector in force, none: invalid -/
  sector : Option (Fin 6) := none
  /-- 1 | 12 R362 | hall_lost -/
  hallLost : Bool := false
  /-- 12 R361 | D0 instant since which the Hall state is invalid -/
  invalidSince : Option Nat := none
  deriving DecidableEq, Repr


/-! ### The Norrak ring (13) -/

/-- R366: a frame to send or kept until it is acknowledged. -/
structure NkFrame where
  vc : Fin 4
  kind : Byte
  src : Fin 16
  dst : Fin 16
  bcast : Bool
  folded : Bool := false
  retx : Bool := false
  ttl : Byte
  seq : BitVec 16 := 0
  payload : List Byte
  /-- R369: the link it came in on, when it is forwarded -/
  origin : Option (Fin 2) := none
  deriving DecidableEq, Repr

/-- R368, R369: one virtual channel of one link. -/
structure NkVc where
  /-- 16 | 13 R366 | next seq to send; 13 R368 | last accepted seq -/
  seqTx : BitVec 16 := 0
  seqRx : Option (BitVec 16) := none
  /-- 13 R369 | credits free to send with (outstanding = total - free) -/
  free : Nat := 0
  /-- 13 R368 | frames sent and not acknowledged, oldest first, and D0 instant of the last send -/
  unacked : List NkFrame := []
  sentAt : Option Nat := none
  /-- 13 R369 | frames waiting for a credit -/
  waiting : List NkFrame := []
  /-- 13 R368 | a nak is to be sent for this seq -/
  nak : Option (BitVec 16) := none
  /-- 13 R369 | credits of the receive buffers freed since the last LINKCTL -/
  freed : Nat := 0
  /-- consecutive failed retransmissions, R365 -/
  fails : Nat := 0
  deriving DecidableEq, Repr

/-- R364, R365, R385: one link. -/
structure NkLink where
  signal : Bool := false
  aligned : Bool := false
  up : Bool := false
  folding : Bool := false
  /-- credit totals 4, 16, 8, 8 (R369) -/
  vcs : Vector NkVc 4 := #v[{ free := 4 }, { free := 16 }, { free := 8 }, { free := 8 }]
  /-- 32 | 13 R385 | frames with a bad CRC -/
  crcErr : Word := 0
  /-- 32 | 13 R385 | frames resent -/
  retx : Word := 0
  /-- 32 | 13 R385 | times the link went down -/
  downs : Nat := 0
  /-- 32 | 13 R378 | measured delay -/
  delay : Nat := 0
  /-- 32 | 13 R385 | frames sent -/
  framesTx : Word := 0
  /-- 32 | 13 R385 | good frames received -/
  framesRx : Word := 0
  /-- 13 R368 | good frames received and not acknowledged, and D0 instant of the oldest -/
  unackedRx : Nat := 0
  oldestRx : Option Nat := none
  /-- 13 R376 | D1 stamp of the last link-down -/
  downStamp : T32 := 0
  /-- 13 R378 | t1 of the SYNC that waits for its response, in D1, and its D0 instant -/
  syncT1 : Option (T64 × Nat) := none
  /-- 13 R387 | consecutive exchanges missed -/
  syncMissed : Nat := 0
  deriving DecidableEq, Repr

/-- R371: an entry of the membership list, and what has been heard from that member. -/
structure Member where
  serial : BitVec 64
  priority : Byte
  never : Bool
  /-- D0 instant of the last matching HELLO -/
  heardAt : Option Nat := none
  /-- 1 | 13 R372 | its last HELLO had another check value -/
  differs : Bool := false
  /-- 1 | 13 R371 | its host is present -/
  hostPresent : Bool := false
  /-- heard since enable or the last partition, R373 -/
  seen : Bool := false
  deriving DecidableEq, Repr

/-- R373 -/
inductive RingState where
  | alone | forming | ring | chain | partitioned
  deriving DecidableEq, Repr

/-- R379–R381: a publication known to this member. -/
structure Publication where
  slot : Fin 32
  pos : Fin 16
  isLocal : Bool
  horizonMs : Nat
  cForce : T64 := 0
  cPend : T64 := 0
  cAct : T64 := 0
  stopDec : Word := 0
  stopJerk : Word := 0
  /-- records held, oldest first -/
  recs : List TrajRec := []
  /-- records appended and not yet sent, and D0 instant of the oldest (local) -/
  unsent : List TrajRec := []
  unsentAt : Option Nat := none
  /-- publication ends after the last record -/
  final : Bool := false
  /-- the publication runs, or has run, its stored stop profile -/
  stopping : Bool := false
  stopped : Bool := false
  /-- local: the sample at which publication started -/
  startedAt : T64 := 0
  /-- the period of the records, LSB -/
  period : Nat := 0
  /-- R381: the stop profile's state at the instant of its next record; none: it is at rest, or does not run -/
  stopGen : Gen := {}
  stopNext : Option T64 := none
  deriving DecidableEq, Repr

/-- R383, R384: a TUNNEL in flight at its source. -/
structure Tunnel where
  desc : Nat
  ident : BitVec 16
  dst : Fin 16
  count : Nat
  cplBuf : BitVec 64
  /-- 64 and 15 | 13 R383 | where the data area lies at the host, and its length -/
  dataBuf : BitVec 64
  dataLen : Nat
  /-- 13 R383 | the inner completions that have come -/
  got : List (BitVec 256) := []
  /-- ≤ 16384 × 8 | 13 R383 | the data area as it came back -/
  data : List Byte := []
  deriving DecidableEq, Repr

/-- R383: a request being carried out at this member: where its inner completions return. -/
structure TunnelIn where
  ident : BitVec 16
  src : Fin 16
  /-- the serial numbers of its inner descriptors, in their order -/
  ids : List Nat := []
  /-- ≤ 16384 × 8 | 13 R383 | the data area, into which they write -/
  data : List Byte := []
  deriving DecidableEq, Repr

/-- 13: the NORRAK block. -/
structure NorrakSt where
  links : Vector NkLink 2 := Vector.replicate 2 {}
  /-- ≤ 16 × 136 | 13 R371 | the list; empty: none loaded -/
  members : List Member := []
  /-- 32 | 13 R372 | list check value -/
  listCrc : Word := 0
  /-- 4 | 13 R371 | own position -/
  position : Fin 16 := 0
  /-- 3 | 13 R373 | ring_state -/
  state : RingState := .alone
  /-- 4 | 13 R374 | position of the keeper -/
  keeper : Fin 16 := 0
  /-- 1 | 13 R374 | this member is the keeper -/
  isKeeper : Bool := false
  /-- 13 R374 | candidate keeper and HELLO instants it has stayed the same -/
  candidate : Option (Fin 16) := none
  candCount : Nat := 0
  /-- 13 R376 | breaks known: position, link, stamp -/
  breaks : List (Nat × Nat × T32) := []
  /-- 64 | 13 R385 | t_p -/
  partStamp : T64 := 0
  /-- 16 × | 13 R379 | the publications -/
  pubs : List Publication := []
  /-- 13 R382 | events accepted from members, to discard duplicates: source member and seq -/
  evtSeen : List (Nat × Word) := []
  /-- 64 × 20 | 13 R369 | source member and identifier of the tunnel requests taken last -/
  reqSeen : List (Fin 16 × BitVec 16) := []
  /-- 13 R383 | the TUNNELs in flight at their source -/
  tunnels : List Tunnel := []
  /-- 13 R383 | the tunnel requests under way at their destination -/
  tunnelsIn : List TunnelIn := []
  /-- 16 | 13 R383 | identifier of the next TUNNEL -/
  nextTunnel : BitVec 16 := 0
  /-- 32 | 13 R384 | NORRAK_TUNNEL_ORPHANS -/
  orphans : Word := 0
  /-- 13 R372 | D0 instant of the last HELLO sent -/
  helloAt : Option Nat := none
  /-- 13 R378 | D0 instant of the last SYNC sent -/
  syncAt : Option Nat := none
  deriving DecidableEq, Repr

/-! ### CAN FD (14) -/

/-- R392, R393: a frame in a transmit slot. -/
structure CanSlot where
  desc : Nat
  frame : CanFrame
  scheduled : Bool
  window : Fin 16
  /-- R89: the apply time, and the D0 instant before which a stamped frame is not eligible -/
  apply : Option Stamp := none
  since : Nat
  /-- R392: it may be sent -/
  eligible : Bool := false
  /-- R394: attempts so far -/
  attempts : Nat := 0
  /-- an attempt is under way; its SOF stamp in D0, and in the domain of its descriptor (R46) -/
  sof : Option Nat := none
  sofAt : Option Stamp := none
  /-- R395: the cancel held: tag and ring of the cancelling descriptor -/
  cancel : Option (Byte × Nat) := none
  deriving DecidableEq, Repr

/-- R400 -/
inductive CanState where
  | active | passive | busOff | recovering
  deriving DecidableEq, Repr

/-- R399: a received frame waiting for its ring. -/
structure RxFrame where
  frame : CanFrame
  filter : Nat
  loopback : Bool
  stamp : Stamp
  rxSeq : BitVec 16
  bulk : Bool
  deriving DecidableEq, Repr

/-- R388–R407: a controller. -/
structure Can where
  state : CanState := .active
  timingBad : Bool := false
  busIdle : Bool := false
  /-- 32 | 14 R392 | transmit slots -/
  slots : List (Nat × CanSlot) := []
  /-- 9 | 14 R400 | transmit error counter -/
  tecN : Nat := 0
  /-- 8 | 14 R400 | receive error counter -/
  recN : Nat := 0
  /-- 3 | 14 R407 | kind of the last error -/
  lastErr : Nat := 0
  /-- 1 | 14 R407 | the last error lay in the data phase -/
  inData : Bool := false
  /-- 16 | 14 R407 | error frames -/
  errFrames : Nat := 0
  /-- 7 | 14 R407 | measured transmitter delay -/
  tdc : Nat := 0
  /-- 32 | 14 R407 | frames lost to an overrun -/
  rxLost : Word := 0
  /-- 32 | 14 R407 | frames no filter took -/
  rxUnmatched : Word := 0
  /-- 16 | 14 R407 | entries to bus-off -/
  busOffs : Nat := 0
  /-- 16 | 14 R397 | rx_seq of the next record -/
  rxSeq : BitVec 16 := 0
  /-- 14 R397 | frames received and not yet delivered -/
  buffer : List RxFrame := []
  /-- D0 instant of entry to bus-off -/
  offSince : Nat := 0
  /-- the in-flight CAN_RECOVER -/
  recover : Option Nat := none
  /-- 14 R402–R405 | schedule: running, cycle count, master rank, is master -/
  running : Bool := false
  cycle : Nat := 0
  masterRank : Option Nat := none
  isMaster : Bool := false
  /-- D2 stamp of the last cycle start; of the previous reference message's SOF -/
  cycleStart : Option T64 := none
  prevSof : Option T64 := none
  /-- 14 R403 | the reference message is offered for this cycle; SOF of its attempt under way, in D0 and in D2; the D2
  instant at which the scheduled class was enabled -/
  refDue : Bool := false
  refSof : Option (Nat × T64) := none
  schedSince : T64 := 0
  /-- the data of the reference message whose attempt is under way -/
  refData : List Byte := []
  /-- 14 R405 | open windows with their D2 ends; windows opened in this cycle -/
  open_ : List (Fin 16 × T64) := []
  opened : List (Fin 16) := []
  /-- 01 R37 | audits -/
  queued : Word := 0
  /-- 32 | 01 R37 | audit: sent -/
  sent : Word := 0
  /-- 32 | 01 R37 | audit: cancelled -/
  cancelled : Word := 0
  /-- 32 | 01 R37 | audit: sent while a cancel arrived -/
  sentLate : Word := 0
  deriving DecidableEq, Repr

/-! ### Quire (15) -/

/-- R424: states of the Quire. -/
inductive QState where
  | idle | armed | triggered | done
  deriving DecidableEq, Repr

/-- R423: the capture's parameters. -/
structure QCfg where
  desc : Nat
  src : Nat
  slot : Nat
  avgN : Nat
  dom : Dom
  periodLsb : Nat
  phase : Nat
  stream : Bool
  stopOnViol : Bool
  maskCh : Nat
  pre : Nat
  post : Nat
  maskLo : Option Nat
  maskHi : Option Nat
  maskExp : Int
  violPost : Nat
  chans : List Nat
  deriving DecidableEq, Repr

/-- R409–R429: the Quire. -/
structure QuireSt where
  state : QState := .idle
  cfg : Option QCfg := none
  postclamp : Bool := false
  preclamp : Bool := false
  streaming : Bool := false
  violation : Bool := false
  /-- 65536 × 32 | 15 R414 | stored words, by address: stored sample index mod depth × nch + channel; not listed is 0 -/
  mem : List (Nat × Nat) := []
  /-- 15 R425 | addresses of words in uncorrectable error -/
  bad : List Nat := []
  /-- number of channels of the capture held -/
  nch : Nat := 0
  /-- number of samples of the capture held -/
  depth : Nat := 0
  /-- stored samples taken since the first, and the oldest kept -/
  taken : Nat := 0
  oldest : Nat := 0
  first : T64 := 0
  /-- 64 | 15 R413 | sample period in LSB -/
  period : Nat := 0
  /-- 64 | 15 R411 | next t_q -/
  next : Option T64 := none
  /-- 15 R413 | the interval under way: values per channel, newest first -/
  interval : List (List Int) := []
  /-- stamp of the interval's first sample -/
  intervalT : T64 := 0
  /-- 15 R417 | values at the previous Quire sample -/
  prev : List Int := []
  /-- native values per channel, newest first: instant and value (15 R412) -/
  history : Vector (List (T64 × Int)) 16 := Vector.replicate 16 []
  /-- 3 | 15 R416 | state of the sequencer -/
  seqState : Fin 8 := 0
  /-- 16 | 15 R416 | its counter -/
  counter : Nat := 0
  /-- 15 R416 | its timer -/
  timer : Nat := 0
  /-- 15 R416 | the state has just been entered -/
  freshState : Bool := true
  /-- 15 R416 | the sequencer runs -/
  seqRun : Bool := false
  /-- 32 | 15 R429 | QUIRE_SEQ_ENTRIES -/
  entries : Word := 0
  /-- 15 R417 types 8 and 9: the edges of time pins and the events of sources since the previous sample, with their D0 instants -/
  pinsSeen : List (Nat × Nat) := []
  sourcesSeen : List (Nat × Nat) := []
  /-- 15 R429 | index of the trigger sample -/
  trigIndex : Nat := 0
  /-- 15 R429 | the Quire sample within its interval -/
  trigSub : Nat := 0
  /-- 64 | 15 R429 | stamp of the trigger -/
  trigStamp : T64 := 0
  /-- 1 | 15 R429 | test 0 held at the trigger -/
  trigTest0 : Bool := false
  /-- 1 | 15 R429 | test 1 held at the trigger -/
  trigTest1 : Bool := false
  /-- 1 | 15 R429 | it was forced -/
  trigForced : Bool := false
  /-- 3 | 15 R429 | the sequencer state it came from -/
  trigState : Nat := 0
  /-- 15 R415 | stored samples taken from the trigger on -/
  postTaken : Nat := 0
  /-- 32 | 15 R420 | violations -/
  violCount : Word := 0
  /-- 15 R429 | post index of the first violation -/
  violIndex : Nat := 0
  /-- 1 | 15 R429 | it passed the upper bound -/
  violUpper : Bool := false
  /-- 1 | 15 R429 | a bound was poisoned -/
  violPoisoned : Bool := false
  /-- 64 | 15 R429 | its stamp -/
  violStamp : T64 := 0
  /-- 32 | 15 R429 | the value that violated -/
  violValue : Word := 0
  /-- 1 | 15 R420 | the interval that has just closed violated -/
  violClosed : Bool := false
  /-- stored samples left after the first violation -/
  violLeft : Option Nat := none
  /-- 32 | 15 R427 | samples lost to a withheld stream -/
  lost : Word := 0
  /-- 16 | 15 R429 | corrected memory errors -/
  eccFixed : Nat := 0
  /-- 16 | 15 R429 | uncorrectable memory errors -/
  eccBad : Nat := 0
  /-- 15 R426, R427 | number of the next stored sample to stream; (number, samples lost before it) where samples were lost -/
  sent : Nat := 0
  gaps : List (Nat × Nat) := []
  deriving DecidableEq, Repr

/-! ### Check units (16) -/

/-- R431–R439: a general unit. VALUE, CFG, POLY, INIT and XOROUT lie with the set-up registers. -/
structure CheckUnit where
  last : Word := 0
  cfgBad : Bool := false
  blocks : Word := 0
  mismatch : Word := 0
  deriving DecidableEq, Repr


/-! ### Firebreak (17) -/

/-- R457: an input entry of the safety record. -/
structure SinEntry where
  fn : Nat := 0
  groups : BitVec 8 := 0
  discMs : Nat := 5
  filterMs : Nat := 1
  dfilt : Nat := 1
  tStopMs : Nat := 10
  deriving DecidableEq, Repr

/-- R457: a monitor entry. -/
structure MonEntry where
  group : Nat
  fb : Nat
  vStand : Nat
  vMargin : Nat
  decelMin : Nat
  tDelay : Nat
  deriving DecidableEq, Repr

/-- R444–R446: one channel of a safety input. Times are Firebreak ticks. -/
structure SinCh where
  /-- 1 | 17 R464 | present level: released -/
  released : Bool := false
  /-- 1 | 17 R464 | accepted demand -/
  demand : Bool := false
  /-- tick at which the present level began -/
  since : Nat := 0
  /-- a filter runs since then (RESET: the level is at demand and no demand is accepted, so the demand filter runs) -/
  filtering : Bool := true
  /-- 17 R446 | ticks of rejected glitches within 1,000 ticks; of release filters started within 10,000 ticks -/
  glitches : List Nat := []
  starts : List Nat := []
  chatter : Bool := false
  deriving DecidableEq, Repr

/-- R444–R447: a safety input. -/
structure SinIn where
  /-- 1 | 17 R464 | latched discrepancy fault -/
  discrepancy : Bool := false
  /-- tick at which the accepted levels first differed, and the channel first at demand -/
  differSince : Option Nat := none
  firstCh : Nat := 0
  /-- 17 R445 | both channels have been accepted at demand since the fault; tick of the first release after -/
  bothDemand : Bool := false
  firstRelease : Option Nat := none
  /-- the input is at demand -/
  demand : Bool := false
  deriving DecidableEq, Repr

/-- R447–R451: a stop group as Firebreak sees it. -/
structure FbGroup where
  /-- 1 | 17 R464 | demands held, by input -/
  demands : BitVec 2 := 0
  /-- 1 | 17 R464 | under SS1 -/
  ss1 : Bool := false
  /-- 1 | 17 R464 | in STO -/
  sto : Bool := true
  /-- tick at which each running time limit ends; an SS1-r watch is on and its demand tick -/
  stoAt : Option Nat := none
  limitAt : Option Nat := none
  watch : Option Nat := none
  deriving DecidableEq, Repr

/-- R448, R449: a speed estimate. -/
structure FbMon where
  /-- 32 | 17 R448 | count at the window's start -/
  c0 : BitVec 32 := 0
  /-- 32 | 17 R464 | v_fb, V32 -/
  v : Int := 0
  /-- 17 R449 | v_d -/
  vd : Int := 0
  /-- 17 R449 | consecutive windows at standstill -/
  still : Nat := 0
  /-- 17 R448 | consecutive windows in which it differs from the measured speed -/
  differ : Nat := 0
  deriving DecidableEq, Repr

/-- R455, R456, R451: Firebreak. -/
structure FirebreakSt where
  /-- 96 bytes | 17 R457 | the stored record (RESET: Stored; PRESUMED none held, log 8) -/
  record : List Byte := []
  /-- 1 | 17 R458 | the record is valid -/
  valid : Bool := false
  /-- 1 | 17 R459 | the record is confirmed -/
  confirmed : Bool := false
  /-- 1 | 17 R459 | the stored record's stored confirmation (RESET: Stored; PRESUMED 0, log 8) -/
  nvConfirmed : Bool := false
  /-- 17 R457 | the record for SIN0 -/
  sin0 : SinEntry := {}
  /-- 17 R457 | the record for SIN1 -/
  sin1 : SinEntry := {}
  /-- 17 R457 | the monitored slots of the record -/
  mons : List MonEntry := []
  /-- 1 | 17 R464 | selftest_ok -/
  selftestOk : Bool := false
  /-- 4 | 17 R464 | self-fault kinds latched; 0 none -/
  faultKind : Nat := 0
  /-- 17 R460 | D0 instant of the self-fault; STO forced -/
  faultAt : Option Nat := none
  /-- 4 × | 17 R444 | the input channels -/
  chans : Vector SinCh 4 := Vector.replicate 4 {}
  /-- 2 × | 17 R445 | the inputs -/
  ins : Vector SinIn 2 := Vector.replicate 2 {}
  /-- 8 × | 17 R447 | the stop groups -/
  groups : Vector FbGroup 8 := Vector.replicate 8 {}
  /-- 4 × | 17 R448 | the speed monitors -/
  estimates : Vector FbMon 4 := Vector.replicate 4 {}
  /-- 1 each | 17 R464 | sto_out, sto_readback, sto_test_fail, cdrv_on, edm_open, edm_fault, ep_sto_fail -/
  stoOut : Bool := false
  readback : Bool := false
  testFail : Bool := false
  cdrv : Bool := false
  edmOpen : BitVec 2 := 0
  /-- ticks since which an EDM level differs from the accepted one -/
  edmFault : Bool := false
  /-- 1 | 17 R464 | ep_fail -/
  epFail : Bool := false
  /-- tick of the last change of CDRV, whose EDM answer is awaited -/
  cdrvAt : Option Nat := none
  /-- 1 each | 17 R454, R455 | after a test failure STO_OUT and CDRV drop at the end of the SS1; they stay off until reset -/
  failPending : Bool := false
  outOff : Bool := false
  /-- 16 | 17 R464 | logic self-tests passed; corrected memory errors -/
  logicTests : Nat := 0
  /-- 16 | 17 R464 | corrected memory errors -/
  memFixed : Nat := 0
  /-- 32 | 17 R464 | STO tests passed -/
  stoTests : Word := 0
  /-- 17 R441 | Firebreak ticks since chip reset -/
  ticks : Nat := 0
  /-- fraction of a tick, LSB of D0 run since the last tick -/
  tickFrac : Nat := 0
  /-- 16 | 17 R453 | fseq -/
  fseq : BitVec 16 := 0
  /-- 17 R448 | tick of the last window -/
  windowAt : Nat := 0
  deriving DecidableEq, Repr

/-! ### Lifecycle, park move, tallies, calendar (19) -/

/-- R497 -/
inductive Lifecycle where
  | factory | integration | commissioned | service | retired
  deriving DecidableEq, Repr

/-- R492: a park entry. -/
structure ParkEntry where
  slot : Fin 32
  step : Bool
  ep : Fin 12
  fb : Nat
  method : Nat
  neg : Bool
  pin : Fin 4
  falling : Bool
  order : Nat
  group : Fin 8
  target : Int
  maxTravel : Nat
  vPark : Int
  aPark : Int
  iLimit : Int
  kpPos : Nat
  kpVel : Nat
  kiVel : Nat
  deriving DecidableEq, Repr

/-- R495: how far a park entry is. -/
inductive ParkPhase where
  | waiting | running | returning | stopping | done | failed
  deriving DecidableEq, Repr

/-- R495: a park entry in the park move. -/
structure ParkRun where
  entry : ParkEntry
  /-- the park move of power-up, on the PARK leaf; else the orphan policy, on the slot's own loops -/
  own : Bool
  /-- 19 R495 | the phase of the entry -/
  phase : ParkPhase := .waiting
  /-- 19 R496 | why it failed -/
  reason : Nat := 0
  /-- the endpoint has arrived -/
  seen : Bool := false
  /-- goal once it is known, 2^-16 counts -/
  goal : Option Int := none
  /-- method 2: D0 stamp of the edge -/
  edge : Option Nat := none
  /-- command position, 2^-16 counts, and D0 instant at which the entry started -/
  startPos : Int := 0
  startAt : Nat := 0
  /-- samples that looked like a stall -/
  stall : Nat := 0
  /-- entry of the lease table -/
  lease : Option Nat := none
  /-- integrator of the velocity loop, 2^-24 I16 units -/
  integ : Int := 0
  deriving DecidableEq, Repr

/-- R503: the tallies of a slot. -/
structure SlotTally where
  energised : Nat := 0
  travel : Nat := 0
  reversals : Nat := 0
  peaks : Nat := 0
  cycles : Nat := 0
  /-- state between samples: last C, last non-zero speed sign, in an excursion, lowest temperature -/
  lastC : Option (BitVec 32) := none
  sign : Int := 0
  peakSince : Option Nat := none
  peakCounted : Bool := false
  lowest : Option Int := none
  deriving DecidableEq, Repr

/-- R502–R507: the tallies. They outlive a chip reset. -/
structure TallySt where
  poweredS : Nat := 0
  powerCycles : Nat := 0
  bins : Vector Nat 8 := Vector.replicate 8 0
  slots : Vector SlotTally 32 := Vector.replicate 32 {}
  brakes : Vector Nat 24 := Vector.replicate 24 0
  contactor : Nat := 0
  linkErrors : Vector Nat 8 := Vector.replicate 8 0
  changes : Nat := 0
  flushes : Nat := 0
  refreshes : Nat := 0
  /-- 16 | 19 R502 | sequence of the newest journal record -/
  seq : BitVec 16 := 0
  /-- 19 R502 | the images of the 64 journal records, newest first, as live values at the write -/
  journal : List (Nat × List Byte) := []
  /-- 1 | 19 R510 | nv_ok, refreshing; calendar and powered seconds of the last refresh -/
  nvOk : Bool := false
  refreshing : Bool := false
  refreshCal : Nat := 0
  refreshPow : Nat := 0
  /-- 8 | 19 R510 | snap_seq; the snapshot -/
  snapSeq : Byte := 0
  image : List Byte := []
  /-- D0 instant of the last periodic record -/
  lastWrite : Nat := 0
  deriving DecidableEq, Repr

/-- 19: lifecycle, calendar, park, bring-up. -/
structure LifeSt where
  /-- 3 | 19 R497 | lifecycle state (RESET: Stored; PRESUMED INTEGRATION, in which modules leave Haltik, log 8) -/
  state : Lifecycle := .integration
  /-- 19 R499, R500 | a change being committed: new state and the in-flight descriptor, none for LIFE_REQ -/
  changing : Option (Lifecycle × Option Nat) := none
  /-- 160 bytes | 19 R492 | the stored park record (RESET: Stored; PRESUMED none) -/
  park : List Byte := []
  /-- 1 | 19 R492 | the park record is valid -/
  parkValid : Bool := false
  /-- 19 R495 | the entries of the park move that runs or ran -/
  runs : List ParkRun := []
  /-- 1 | 19 R495 | the park move runs -/
  parkActive : Bool := false
  /-- 64 | 19 R494 | D0 instant at which understory service began -/
  parkAt : Nat := 0
  /-- 32 | 19 R508 | calendar seconds; valid; vbackup_ok (RESET: Kept; PRESUMED 0, not valid, VBACKUP good) -/
  calendar : Nat := 0
  /-- 64 | 19 R508 | D0 instant from which the seconds since `calendar` was set are counted -/
  calFrom : Nat := 0
  /-- 1 | 19 R508 | the calendar is valid -/
  calValid : Bool := false
  /-- 1 | 19 R508 | VBACKUP is good -/
  vbackupOk : Bool := true
  /-- 19 R508 | the calendar was lost while VIN was absent, and CALENDAR_STATE is to be raised -/
  calLost : Bool := false
  /-- 19 R486, R488 | the chip is held in reset; D0 instants are counted from its end -/
  inReset : Bool := false
  /-- 19 R486 | RESET_N is low -/
  resetNLow : Bool := false
  /-- 19 R487 | the wipe of chip reset is under way -/
  clearing : Bool := true
  /-- 19 R488 | BIST has ended -/
  bistDone : Bool := false
  /-- 19 R489 | a region is lost -/
  lostRegion : Bool := false
  /-- 8 signed | 19 R503 | junction temperature last measured; VIN last measured, 10 mV -/
  tj : Int := 25
  vin : Nat := 2400
  /-- 19 R506 | VIN is good -/
  vinGood : Bool := true
  /-- 19 R506 | power has failed -/
  powerFailed : Bool := false
  /-- 18 R483 | THERMAL and VIN_LOW hold -/
  hot : Bool := false
  deriving DecidableEq, Repr


/-! ### The state -/

/-- The L2432. -/
structure State where
  /-- the commands that are waiting, first in, first out; not the spec's -/
  pending : List Instr := []
  /-- what the last command drove out; not the spec's -/
  out : List Output := []
  /-- number of free values taken so far; not the spec's (log 1) -/
  free : Nat := 0
  /-- 04 R110 | RW fields of the set-up registers, by offset; a register not listed holds its reset value -/
  regs : List (Nat × Nat) := []
  /-- 04 R114 | upd_seq of every status register, by offset; not listed is 0 -/
  seqs : List (Nat × Nat) := []
  /-- 04 R113 | RS latches of the two paths -/
  latches : List RsLatch := []
  time : TimeSt := {}
  chip : ChipSt := {}
  host : HostSt := {}
  svc : SvcSt := {}
  fault : FaultSt := {}
  canopy : CanopySt := {}
  glade : GladeSt := {}
  axis : AxisSt := {}
  pins : PinSt := {}
  link : LinkSt := {}
  power : PowerSt := {}
  norrak : NorrakSt := {}
  can : Vector Can 2 := Vector.replicate 2 {}
  quire : QuireSt := {}
  check : Vector CheckUnit 8 := Vector.replicate 8 {}
  firebreak : FirebreakSt := {}
  tally : TallySt := {}
  life : LifeSt := {}
  deriving DecidableEq, Repr


/-- The machine right after a chip reset (R487): every field at its default. -/
def State.reset : State := {}

end Sys2Proof.Machine
end

