-- ==== Sys2Proof/Machine/RegMap.lean ====
section
/-!
DEFINITION. The read-write fields of the set-up registers: for every offset the bits that a write may change and the
value after reset, from the register tables of the chapters (R37, R67, R108, R159, R183, R273, R302, R346, R362, R385,
R407, R429, R439, R485). An offset that no table gives a read-write field has no writable bit.
-/

namespace Sys2Proof.Machine

/-- The place of an offset in an array of register blocks: block number and relative offset. -/
def blockOf (base stride count o : Nat) : Option (Nat × Nat) :=
  if base ≤ o ∧ o < base + stride * count then some ((o - base) / stride, (o - base) % stride) else none

/-- Writable bits and reset value of an offset, for the blocks HOST and TIME (R67, R108). -/
def rwHost (o : Nat) : Nat × Nat :=
  match blockOf 0x1100 0x20 8 o with
  | some (_, 0x00) => (0xFFFFFFC0, 0)
  | some (_, 0x04) => (0xFFFFFFFF, 0)
  | some (_, 0x08) => (0x1FF, 8)
  | some (_, 0x18) => (0xFFFFFFFC, 0)
  | some (_, 0x1C) => (0xFFFFFFFF, 0)
  | some _ => (0, 0)
  | none =>
  match blockOf 0x1200 0x20 9 o with
  | some (_, 0x00) => (0xFFFFFFC0, 0)
  | some (_, 0x04) => (0xFFFFFFFF, 0)
  | some (n, 0x08) => (if n = 8 then 0xFFFF001F else 0xFFFF7C1F, 8)
  | some _ => (0, 0)
  | none =>
  match blockOf 0x1380 0x20 4 o with
  | some (_, 0x00) => (0xFFFFF000, 0)
  | some (_, 0x04) => (0xFFFFFFFF, 0)
  | some (_, 0x08) => (0xFFFF7FFF, 8)
  | some _ => (0, 0)
  | none =>
  if o = 0x1000 then (0x1F, 0) else if o = 0x1008 then (0x3FFFF, 0) else
  if o = 0x2000 then (0xC, 0xC) else
  match blockOf 0x2100 0x40 3 o with
  | some (_, 0) => (0xFFFFFFF3, 0x02586432)
  | some (2, 0x20) => (0xFFFFFFFF, 0)
  | some (2, 0x24) => (0xFFFFFFFF, 0)
  | some _ => (0, 0)
  | none => if o = 0x2200 then (0xFFFFF03F, 0x00064000) else (0, 0)

/-- For the blocks CANOPY, GLADE, FEEDBACK and PINS (R159, R183, R273, R302). -/
def rwMotion (o : Nat) : Nat × Nat :=
  if o = 0x3008 then (0xFFFFFF01, 0x24001900) else
  if o = 0x300C then (0x3F, 0x10) else
  if o = 0x3014 then (0xFFFF, 0x64) else
  if o = 0x3080 then (0xFFF, 0) else
  if o = 0x400C then (0xFF, 0xA) else
  match blockOf 0x6000 0x40 3 o with
  | some (p, 0x00) => (if p = 2 then 0xFFFF03FF else 0xFFFF3FFF, 0x03E80028)
  | some (p, 0x2C) => (if p = 2 then 0 else 0x7FF, 0)
  | some (p, 0x30) => (if p = 2 then 0 else 0xFFFFFFFF, 0)
  | some (p, 0x34) => if p = 2 then (0, 0) else (0xFFFF, 1)
  | some _ => (0, 0)
  | none =>
  match blockOf 0x6100 0x10 32 o with
  | some (_, 0x0) => (0x7FF, 0)
  | some (_, 0x4) => (0xFFFFFFFF, 0)
  | some (_, 0x8) => (0xFFFF, 1)
  | some _ => (0, 0)
  | none =>
  match blockOf 0x7000 0x10 4 o with
  | some (_, 0) => (0xFFFF0FFF, 0x20)
  | some _ => (0, 0)
  | none =>
  match blockOf 0x7400 0x80 4 o with
  | some (_, r) => if 0x40 ≤ r ∧ r % 4 = 0 then (0xFFFFFFFF, 0) else (0, 0)
  | none => (0, 0)

/-- For the blocks SIGLINK, POWER, NORRAK and CAN (R346, R362, R385, R407). -/
def rwField (o : Nat) : Nat × Nat :=
  match blockOf 0x8000 0x40 4 o with
  | some (_, 0) => (0x77F, 0x708)
  | some _ => (0, 0)
  | none =>
  if o = 0x8600 then (0x3, 0) else
  if o = 0x8E00 then (0x1F, 0) else
  match blockOf 0x8620 4 8 o with
  | some (_, 0) => (0x01FFFFFF, 0)
  | some _ => (0, 0)
  | none =>
  if o = 0x9000 then (0xF03FF, 0x20200) else
  if o = 0x9008 then (0xFFF, 0) else
  if o = 0x900C then (0x1FFFFF, 0x19010) else
  if o = 0x9010 then (0xFF, 5) else
  if o = 0x9020 ∨ o = 0x9024 then (0xFFFF, 0x3F) else
  match blockOf 0x9100 0x20 3 o with
  | some (_, 0x0C) => (0x7FFFFFFF, 0x0C8C8050)
  | some (_, 0x10) => (0x3FFFF, 0x1470)
  | some _ => (0, 0)
  | none =>
  if o = 0xA000 then (0xFF0F03, 0) else
  if o = 0xA018 ∨ o = 0xA01C then (0xFFFFFFFF, 0) else
  match blockOf 0xB000 0x800 2 o with
  | some (_, r) =>
    if r = 0 then (0x31F, 0) else
    if r = 0x008 then (0x07FFFFFF, 0x0070E3C3) else
    if r = 0x00C then (0x3FFFF, 0x26780) else
    if r = 0x010 then (0x7FFF, 0x3C) else
    if r = 0x01C then (0x1F, 0) else
    if r = 0x030 then (0x07FFFFFF, 0x3E800) else
    if r = 0x034 then (0x1FFFFFFF, 0) else
    if 0x100 ≤ r ∧ r < 0x300 ∧ r % 4 = 0 then (0xFFFFFFFF, 0) else
    if 0x300 ≤ r ∧ r < 0x380 ∧ r % 8 = 0 then (0x80FFFFFF, 0) else
    if 0x300 ≤ r ∧ r < 0x380 ∧ r % 8 = 4 then (0x1FF, 0) else (0, 0)
  | none => (0, 0)

/-- For the blocks QUIRE, CHECK and FAULT, and the audit slot select (R37, R429, R439, R485). -/
def rwRest (o : Nat) : Nat × Nat :=
  if o = 0x0204 then (0x1F, 0) else
  match blockOf 0xC100 4 16 o with
  | some (_, 0) => (0xFFF, 0)
  | some _ => (0, 0)
  | none =>
  match blockOf 0xC140 4 16 o with
  | some (_, 0) => (0xFFFFFF, 0)
  | some _ => (0, 0)
  | none =>
  match blockOf 0xC200 0x20 8 o with
  | some (_, r) =>
    if r = 0x04 ∨ r = 0x10 then (0xFF1FFF, 0)
    else if r < 0x1C ∧ r % 4 = 0 then (0xFFFFFFFF, 0) else (0, 0)
  | none =>
  match blockOf 0xD000 0x40 8 o with
  | some (_, r) =>
    if r = 0 then (0xFFFFF, 0) else if r ≤ 0x10 ∧ r % 4 = 0 then (0xFFFFFFFF, 0) else (0, 0)
  | none =>
  if o = 0xF008 then (0x1FFFF, 0) else
  match blockOf 0xF010 4 4 o with
  | some (_, 0) => (0x1F1F1F1F, 0)
  | some _ => (0, 0)
  | none =>
  match blockOf 0xF020 4 8 o with
  | some (_, 0) => (0xFFFFFFFF, 0xFFFFFFFF)
  | some _ => (0, 0)
  | none => (0, 0)

/-- Writable bits and reset value of every offset (R110). -/
def rwOf (o : Nat) : Nat × Nat :=
  if o < 0x1000 then rwRest o
  else if o < 0x3000 then rwHost o
  else if o < 0x8000 then rwMotion o
  else if o < 0xC000 then rwField o
  else rwRest o

/-- The value of the read-write fields of an offset after reset. -/
def regDefault (o : Nat) : Nat := (rwOf o).2

/-- The bits of an offset that a write may change. -/
def regMask (o : Nat) : Nat := (rwOf o).1

/-- The read-write fields at an offset. -/
def reg (s : State) (o : Nat) : Nat := cellGet regDefault s.regs o

/-- The read-write fields at an offset replaced by a value (the device's own update, or a write past its checks). -/
def setReg (s : State) (o v : Nat) : State := { s with regs := cellPut regDefault s.regs o v }

/-- A write of a register: the writable bits take the value, the others stay. -/
def writeRw (s : State) (o v : Nat) : State :=
  setReg s o (Nat.lor (Nat.land v (regMask o)) (Nat.land (reg s o) (Nat.xor 0xFFFFFFFF (regMask o))))

/-- A field of a register. -/
def regF (s : State) (o hi lo : Nat) : Nat := bits (reg s o) hi lo

/-- A bit of a register. -/
def regB (s : State) (o i : Nat) : Bool := bit (reg s o) i

/-! ### The offsets of the blocks -/

/-- R108: the registers of ring cells. -/
def sqBase (n : Nat) : Nat := 0x1100 + 0x20 * n
def cqBase (n : Nat) : Nat := 0x1200 + 0x20 * n
def evqBase : Nat := 0x1300
def strBase (n : Nat) : Nat := 0x1380 + 0x20 * n

/-- The base of a ring's registers. -/
def outBase : OutRing → Nat
  | .cq n => cqBase n
  | .evq => evqBase
  | .str n => strBase n

def ringBase : Ring → Nat
  | .sq n => sqBase n
  | .out r => outBase r

/-- R67: the registers of domain 1, 2 or 3. -/
def domBase (n : Nat) : Nat := 0x2100 + 0x40 * (n - 1)

/-- R216, R249, R274: the registers of a slot. -/
def slotBase (n : Nat) : Nat := 0x5000 + 0x40 * n

/-- R273: the registers of a feedback port. -/
def portBase (p : Nat) : Nat := 0x6000 + 0x40 * p

/-- R302 -/
def pinBase (k : Nat) : Nat := 0x7000 + 0x10 * k
def cmpBase (u : Nat) : Nat := 0x7100 + 0x10 * u
def latBase (u : Nat) : Nat := 0x7200 + 0x20 * u
def ltcBase (n : Nat) : Nat := 0x7400 + 0x80 * n

/-- R346 -/
def linkBase (n : Nat) : Nat := 0x8000 + 0x40 * n
def epBase (e : Nat) : Nat := 0x8200 + 0x40 * e

/-- R362 -/
def chBase (c : Nat) : Nat := 0x9100 + 0x20 * c

/-- R385 -/
def nkBase (n : Nat) : Nat := 0xA100 + 0x40 * n

/-- R407 -/
def canBase (n : Nat) : Nat := 0xB000 + 0x800 * n

/-- R429 -/
def seqBase (i : Nat) : Nat := 0xC200 + 0x20 * i

/-- R439 -/
def chkBase (u : Nat) : Nat := 0xD000 + 0x40 * u

end Sys2Proof.Machine
end

