-- ==== Sys2Proof/Machine/Time.lean ====
section
/-!
DEFINITION. Time (02): D0, the domains, conversion of stamps, what passing time does to the state, and the states in
use (R42, R46, R48, R50, R52, R60).
-/

namespace Sys2Proof.Machine

/-! ### Units -/

/-- LSB of 62.5 ps in a nanosecond, a microsecond, a millisecond and a second (R3). -/
def nsLsb : Nat := 16
def usLsb : Nat := 16000
def msLsb : Nat := 16000000
def secLsb : Nat := 16000000000

/-- R57: a cadence of 7.8125 µs. -/
def cadence : Nat := 125000

/-- R48: the clamp of a rate, 500 ppm in units of 2^-40. -/
def rateClamp : Int := 549755814

/-- A rate in ppm in units of 2^-40, rounded to the nearest. -/
def ppm (x : Nat) : Int := ((x * 2 ^ 40 + 500000) / 1000000 : Nat)

/-- R4: the code of a domain. -/
def domCode : Dom → Nat
  | .d0 => 0 | .d1 => 1 | .d2 => 2 | .d3 => 3

/-- R4: the domain of a code. -/
def domOf (c : Nat) : Dom :=
  match c % 4 with
  | 0 => .d0 | 1 => .d1 | 2 => .d2 | _ => .d3

/-- R50: the code of a state. -/
def domStateCode : DomState → Nat
  | .unset => 0 | .free => 1 | .acquiring => 2 | .locked => 3 | .holdover => 4

/-! ### Domains -/

/-- The record of domain 1, 2 or 3; D0 has none. -/
def domRec (t : TimeSt) : Dom → Domain
  | .d0 => { state := .free }
  | .d1 => t.d1
  | .d2 => t.d2
  | .d3 => t.d3

/-- The record of domain 1, 2 or 3 changed. -/
def modDom (t : TimeSt) (d : Dom) (f : Domain → Domain) : TimeSt :=
  match d with
  | .d0 => t
  | .d1 => { t with d1 := f t.d1 }
  | .d2 => { t with d2 := f t.d2 }
  | .d3 => { t with d3 := f t.d3 }

/-- A domain of the state changed. -/
def setDom (s : State) (d : Dom) (f : Domain → Domain) : State := { s with time := modDom s.time d f }

/-- R48: the frequency estimate as it acts, within the clamp. -/
def baseRate (d : Domain) : Int := clampI (-rateClamp) rateClamp d.freq

/-- R48, R540: the effective rate. -/
def domRate (d : Domain) : Int :=
  clampI (-rateClamp) rateClamp (d.freq + sgn d.slewLeft * ppm d.slewPpm)

/-- The part of the rate that absorbs the slew. -/
def slewRate (d : Domain) : Int := domRate d - baseRate d

/-- R48: offset_n as a signed number of LSB. -/
def domOffset (d : Domain) : Int := sext 64 (d.offset.toNat / 2 ^ 40)

/-- R67: SLEW_LEFT in LSB, rounded toward zero. -/
def slewLeftLsb (d : Domain) : Int := Int.tdiv d.slewLeft (2 ^ 40)

/-- R48: the live counter of a domain. -/
def domNow (s : State) (d : Dom) : T64 :=
  BitVec.ofNat 64 (s.time.now + (domRec s.time d).offset.toNat / 2 ^ 40)

/-- The rate of a domain; D0's is 0. -/
def rateOf (s : State) (d : Dom) : Int := domRate (domRec s.time d)

/-- R50: whether a domain is UNSET. -/
def unset (s : State) (d : Dom) : Bool := d != .d0 && (domRec s.time d).state == .unset

/-- R60: the signed modular difference of two instants of one domain. -/
def diff64 (a b : T64) : Int := (a - b).toInt

/-- R46: the stretch of a domain that a test on stretches picks: the newest one, or the oldest one kept. -/
def segAt (s : State) (d : Dom) (p : Seg → Bool) : Option Seg :=
  match (domRec s.time d).hist.find? p with
  | some g => some g
  | none => (domRec s.time d).hist.getLast?

/-- R46: the time of a domain at a D0 instant of a stretch. -/
def segTime (g : Seg) (t : Int) : T64 :=
  let e := t - g.start
  g.val + BitVec.ofInt 64 (e + Int.fdiv (e * g.rate) (2 ^ 40))

/-- R46, R56: the instant of a domain that a D0 instant (counted since reset) is: a past one by the offset and rate it
had then. -/
def fromD0 (s : State) (d : Dom) (t : Int) : T64 :=
  let e := t - s.time.now
  match if e < 0 then segAt s d (fun g => decide ((g.start : Int) ≤ t)) else none with
  | some g => segTime g t
  | none => domNow s d + BitVec.ofInt 64 (e + Int.fdiv (e * rateOf s d) (2 ^ 40))

/-- The D0 instant, counted since reset, at which a domain shows an instant: a past one as it was, a coming one at the
present rate. -/
def toD0 (s : State) (x : Stamp) : Int :=
  let e := diff64 x.t (domNow s x.dom)
  match if e < 0 then segAt s x.dom (fun g => decide (0 ≤ diff64 x.t g.val)) else none with
  | some g => g.start + Int.fdiv (diff64 x.t g.val * 2 ^ 40) (2 ^ 40 + g.rate)
  | none => s.time.now + Int.fdiv (e * 2 ^ 40) (2 ^ 40 + rateOf s x.dom)

/-- R46: a stamp of D0 in a domain; an UNSET domain gives the D0 stamp. -/
def stampIn (s : State) (d : Dom) (t : Int) : Stamp :=
  if unset s d then ⟨.d0, BitVec.ofInt 64 t⟩ else ⟨d, fromD0 s d t⟩

/-- A stamp carried into another domain (R46); D0 where that is UNSET. -/
def restamp (s : State) (d : Dom) (x : Stamp) : Stamp :=
  if d = x.dom ∧ ¬ unset s d then x else stampIn s d (toD0 s x)

/-- R46: now, as every domain reads it. -/
def markNow (s : State) : Mark :=
  { d0 := BitVec.ofNat 64 s.time.now, in1 := stampIn s .d1 s.time.now, in2 := stampIn s .d2 s.time.now
    in3 := stampIn s .d3 s.time.now }

/-- R46: a kept instant in a domain. -/
def Mark.inDom (m : Mark) : Dom → Stamp
  | .d0 => ⟨.d0, m.d0⟩
  | .d1 => m.in1
  | .d2 => m.in2
  | .d3 => m.in3

/-- Whether a stamp's instant has been reached. -/
def reached (s : State) (x : Stamp) : Bool := decide (0 ≤ diff64 (domNow s x.dom) x.t)

/-- R5: the T64 nearest the receiver's time with the low 32 bits of a T32; the earlier one of two equally near. -/
def resolve32 (nowT : T64) (x : T32) : T64 :=
  let d := (x - nowT.setWidth 32).toInt
  nowT + BitVec.ofInt 64 d

/-- R5, R3: the T32 of a T64. -/
def t32 (t : T64) : T32 := t.setWidth 32

/-! ### Passing time -/

/-- R42, R48, R540: `n` ticks of one domain. R58 states a sample period in D0 as `P × (1 + rate)`, which the counter of
R48 does not give; the model follows R48 (log 47). -/
def tickDomain (n : Nat) (d : Domain) : Domain :=
  let step : Int := 40 * n
  let want := step * slewRate d
  let took := if d.slewLeft < 0 then max d.slewLeft want else min d.slewLeft want
  { d with
    offset := d.offset + BitVec.ofInt 104 (step * baseRate d + took)
    slewLeft := d.slewLeft - took }

/-- R46: how many stretches of a domain are kept. -/
def segKept : Nat := 32

/-- R46: the stretch that a domain begins at a D0 instant is noted, unless the last one goes on. -/
def noteSeg (now : Nat) (d : Domain) : Domain :=
  let g : Seg := ⟨now, BitVec.ofNat 64 (now + d.offset.toNat / 2 ^ 40), domRate d⟩
  match d.hist with
  | h :: _ =>
    if h.rate = g.rate ∧ (g.val - segTime h now).toInt.natAbs ≤ 1 then d else { d with hist := (g :: d.hist).take segKept }
  | [] => { d with hist := [g] }

/-- R46: the ticks of a stretch in which the slew ends, with the stretch that then begins. -/
def passDomain (now n : Nat) (d : Domain) : Domain :=
  let d := noteSeg now d
  let e := tickDomain n d
  let step := 40 * (slewRate d).natAbs
  if d.slewLeft = 0 ∨ e.slewLeft ≠ 0 ∨ step = 0 then e
  else
    let k := (d.slewLeft.natAbs + step - 1) / step
    noteSeg ((now / 40 + k) * 40) { tickDomain k d with slewLeft := 0 } |> fun x => { e with hist := x.hist }

/-- R441: the tick of Firebreak's oscillator in LSB: 10 µs within 1.5 %. -/
def fbTick : Nat := (160000 + clampI (-2400) 2400 Config.fbTickError).toNat

/-- R503: the temperature bin of a junction temperature. -/
def tempBin (tj : Int) : Fin 8 :=
  if tj < 0 then 0 else if tj < 25 then 1 else if tj < 50 then 2 else if tj < 75 then 3
  else if tj < 95 then 4 else if tj < 105 then 5 else if tj < 115 then 6 else 7

/-- R503: whole seconds of powered time counted into the tallies. -/
def tickTally (k : Nat) (s : State) : TallySt :=
  { s.tally with
    poweredS := satU 32 (s.tally.poweredS + k)
    bins := upd s.tally.bins (tempBin s.life.tj) (fun b => satU 32 (b + k))
    slots := Vector.ofFn (fun i : Fin 32 =>
      let t := s.tally.slots[i.val]
      if s.axis.slots[i.val].mode = .off then t else { t with energised := satU 32 (t.energised + k) }) }

/-- What the passing of `dt` LSB of D0 changes by itself: the counters of time (R42, R48, R441, R503). -/
def tick (dt : Nat) (s : State) : State :=
  let now' := s.time.now + dt
  let n := now' / 40 - s.time.now / 40
  let k := now' / secLsb - s.time.now / secLsb
  let f := s.firebreak.tickFrac + dt
  { s with
    time := { s.time with
      now := now', d1 := passDomain s.time.now n s.time.d1, d2 := passDomain s.time.now n s.time.d2
      d3 := passDomain s.time.now n s.time.d3 }
    firebreak := { s.firebreak with ticks := s.firebreak.ticks + f / fbTick, tickFrac := f % fbTick }
    tally := if k = 0 then s.tally else tickTally k s }

/-! ### Domains in use (R52) -/

/-- Whether a slot has its schedule in a domain and is not OFF. -/
def slotUses (d : Dom) (sl : Slot) : Bool :=
  sl.mode != .off && (match sl.bind with | some b => b.dom == d | none => false)

/-- The domain a slot's schedule lies in; D0 while it is not configured. -/
def slotDom (s : State) (n : Fin 32) : Dom :=
  match s.axis.slots[n.val].bind with
  | some b => b.dom
  | none => .d0

/-- R52: whether a domain is in use. -/
def inUse (s : State) (d : Dom) : Bool :=
  d == .d0
  || s.axis.slots.toList.any (slotUses d)
  || s.time.placers.toList.any (fun p => p.queue.any (fun e => e.dom == d) || p.waiting.any (fun e => e.dom == d))
  || s.pins.cmp.toList.any (fun c => match c.arm with | some a => slotDom s a.slot == d | none => false)
  || s.pins.lat.toList.any (fun l => match l.arm with | some a => a.dom == d | none => false)
  || s.pins.ltc.toList.any (fun l => (l.state == .armed || l.state == .firing) &&
        (match l.cfg with | some c => slotDom s c.slot == d | none => false))
  || ((s.quire.state == .armed || s.quire.state == .triggered) &&
        (match s.quire.cfg with | some c => c.dom == d | none => false))
  || (regB s 0x2200 0 && domOf (regF s 0x2200 2 1) == d)

/-- R22, R489: a cell is isolated, and out of service until the next chip reset. -/
def isolated (s : State) (u : BistUnit) : Bool := s.chip.isolated.contains u

/-- Takes the next free value (log 1). -/
def takeFree (s : State) : Nat × State := (Config.freeValue s.free, { s with free := s.free + 1 })

end Sys2Proof.Machine
end

