-- ==== Sys2Proof/Machine/Faults.lean ====
section
/-!
DEFINITION. Faults, ledgers and events (18): what one happening does to the ledgers and to the event buffer
(R466–R481, R538), the chip-level causes and FAULT_N (R467, R468), and void (R35).
-/

namespace Sys2Proof.Machine

/-- R466: the code of a level. -/
def sevCode : Sev → Nat
  | .note => 0 | .warning => 1 | .fault => 2 | .stop => 3

/-- One happening: what its source's event table gives it, and how its ledger entry is made. -/
structure Hap where
  source  : Nat
  sev     : Sev
  /-- R485: the event code of the source, 0 where it has none, and the first index of the payload -/
  code    : Nat := 0
  idx     : Nat := 0
  payload : List Byte := []
  /-- R485: 0 cell, 1 block, 2 region, 3 chip -/
  handler : Nat := 0
  /-- R482: an entry made by the chip supervisor -/
  chip    : Bool := false
  /-- R538: one of the note-severity happenings that make an entry -/
  logged  : Bool := false
  /-- R471: the entry the error is attributed to -/
  parent  : Option EntryRef := none
  /-- R35: the error is caused by what has no entry of its own: caused without a parent -/
  rootless : Bool := false
  /-- R472: the action the handler starts -/
  action  : Option Handling := none
  /-- R288, R292: the stamp of the record, where it is not the present instant in the event domain -/
  stamp   : Option Stamp := none

/-- A byte of a payload (R539). -/
def b1 (x : Nat) : List Byte := leBytes 1 x

/-- R539: a count of one byte, saturating. -/
def cnt1 (x : Nat) : List Byte := leBytes 1 (min x 255)

/-- A signed field of `n` bytes of a payload, saturating. -/
def sgnBytes (n : Nat) (x : Int) : List Byte := leBytes n (toW (8 * n) (satS (8 * n) x))

/-! ### Ledgers -/

/-- R482: the ledger of a source: 0 HOST, 1 MOTION, 2 FIELD, 3 NET, 4 TIME, 5 FIREBREAK, 6 chip. -/
def ledgerOf (source : Nat) : Fin 7 :=
  if source < 16 then 6
  else if source < 32 then 0
  else if source < 48 then 4
  else if source = 113 ∨ source = 114 then 2
  else if source < 128 then 1
  else if source < 160 then 2
  else if source < 192 then 3
  else if source < 208 then 1
  else if source < 216 then 2
  else if source < 240 then 5
  else 6

/-- R472: whether an entry's handling is in progress. -/
def inProgress (e : Entry) : Bool := e.hstate != .idle

/-- The entry a reference names. -/
def entryAt (s : State) (r : EntryRef) : Option Entry :=
  match s.fault.ledgers[r.ledger]? with
  | some l => (l.entries[r.index]?).join
  | none => none

/-- A ledger entry changed. -/
def modEntry (s : State) (r : EntryRef) (f : Entry → Entry) : State :=
  if h : r.ledger < 7 then
    { s with fault := { s.fault with ledgers := upd s.fault.ledgers ⟨r.ledger, h⟩ (fun l =>
        { l with entries := l.entries.modify r.index (Option.map f) }) } }
  else s

/-- Every entry of the seven ledgers, with its place. -/
def allEntries (s : State) : List (EntryRef × Entry) :=
  (List.finRange 7).flatMap (fun L =>
    (s.fault.ledgers[L.val].entries.zipIdx).filterMap (fun (e, i) => e.map (fun e => (⟨L.val, i⟩, e))))

/-- Whether an entry is the parent of a valid entry. -/
def hasChild (s : State) (r : EntryRef) : Bool :=
  (allEntries s).any (fun (_, e) => e.parent == some r && !e.parentMerged)

/-- R470: the place of the entry a new one merges into. -/
def mergeInto (s : State) (L : Fin 7) (h : Hap) : Option EntryRef :=
  ((s.fault.ledgers[L.val].entries.zipIdx).find? (fun (e, i) =>
    match e with
    | some e => e.source == h.source && e.level == h.sev && e.code == h.code && e.index == h.idx
        && !hasChild s ⟨L.val, i⟩
    | none => false)).map (fun (_, i) => ⟨L.val, i⟩)

/-- The best of a list by an order, the first of equal ones. -/
def bestBy {α : Type} (lt : α → α → Bool) : List α → Option α
  | [] => none
  | x :: xs => some (xs.foldl (fun b y => if lt y b then y else b) x)

/-- R471: the entry of a ledger whose handling is in progress, the most recent one. -/
def concurrentOf (s : State) (L : Fin 7) : Option EntryRef :=
  (bestBy (fun (a b : Nat × Entry) => decide (b.2.stamp.toNat < a.2.stamp.toNat))
    ((s.fault.ledgers[L.val].entries.zipIdx).filterMap (fun (e, i) =>
      match e with
      | some e => if inProgress e then some (i, e) else none
      | none => none))).map (fun p => ⟨L.val, p.1⟩)

/-- R473: the entry merged away when a ledger is full. -/
def victimOf (s : State) (L : Fin 7) : Option (Nat × Entry) :=
  let cands := (s.fault.ledgers[L.val].entries.zipIdx).filterMap (fun (e, i) =>
    match e with
    | some e => if e.level = .stop then none else some (i, e)
    | none => none)
  let free := cands.filter (fun p => !hasChild s ⟨L.val, p.1⟩)
  bestBy (fun (a b : Nat × Entry) =>
    decide (sevCode a.2.level < sevCode b.2.level)
    || (a.2.level == b.2.level && decide (a.2.stamp.toNat < b.2.stamp.toNat))) (if free = [] then cands else free)

/-- R473: a count added to the overflow count of a level. -/
def addOverflow (l : Ledger) (sev : Sev) (n : Nat) : Ledger :=
  match sev with
  | .note => { l with ovNote := satU 16 (l.ovNote + n) }
  | .warning => { l with ovWarn := satU 16 (l.ovWarn + n) }
  | .fault => { l with ovFault := satU 16 (l.ovFault + n) }
  | .stop => { l with stopUnlogged := satU 16 (l.stopUnlogged + n) }

/-- A ledger changed. -/
def modLedger (s : State) (L : Fin 7) (f : Ledger → Ledger) : State :=
  { s with fault := { s.fault with ledgers := upd s.fault.ledgers L f } }

/-- R473: children of a merged parent show it as merged. -/
def orphanChildren (s : State) (r : EntryRef) : State :=
  { s with fault := { s.fault with ledgers := s.fault.ledgers.map (fun l =>
      { l with entries := l.entries.map (Option.map (fun e =>
          if e.parent = some r then { e with parentMerged := true } else e)) }) } }

/-- The entry a happening makes (R471, R472, R485). -/
def newEntry (s : State) (L : Fin 7) (h : Hap) : Entry :=
  let parent := match h.parent with
    | some r => some r
    | none => if h.rootless then none else concurrentOf s L
  { source := h.source, level := h.sev, handler := h.handler, caused := h.parent.isSome || h.rootless, parent := parent
    code := h.code, index := h.idx, stamp := BitVec.ofNat 64 s.time.now }

/-- R469, R473: an entry put into a ledger; its place, and the ledger and level of a merge. -/
def putEntry (s : State) (L : Fin 7) (e : Entry) : State × Option EntryRef × Option Sev :=
  match (s.fault.ledgers[L.val].entries.zipIdx).find? (fun (x, _) => x.isNone) with
  | some (_, i) => (modLedger s L (fun l => { l with entries := l.entries.set i (some e) }), some ⟨L.val, i⟩, none)
  | none =>
    match victimOf s L with
    | some (i, v) =>
      if sevCode e.level < sevCode v.level then
        (modLedger s L (fun l => addOverflow l e.level 1), none, some e.level)
      else
        let s := orphanChildren s ⟨L.val, i⟩
        (modLedger s L (fun l => { addOverflow l v.level v.count with entries := l.entries.set i (some e) }),
          some ⟨L.val, i⟩, some v.level)
    | none =>
      if e.level = .stop then (s, none, none)
      else (modLedger s L (fun l => addOverflow l e.level 1), none, some e.level)

/-- R470, R473: a happening's entry made or merged; a stop entry that finds no place goes to the chip ledger. -/
def logEntry (s : State) (h : Hap) : State × Option EntryRef × Option (Nat × Sev) :=
  let L := if h.chip then 6 else ledgerOf h.source
  match mergeInto s L h with
  | some r => (modEntry s r (fun e => { e with count := satU 16 (e.count + 1) }), some r, none)
  | none =>
    let e := newEntry s L h
    match putEntry s L e with
    | (s, some r, m) => (s, some r, m.map (fun v => (L.val, v)))
    | (s, none, some v) => (s, none, some (L.val, v))
    | (s, none, none) =>
      match (if L = 6 then (s, none, none) else putEntry s 6 e) with
      | (s, some r, m) => (s, some r, m.map (fun v => (6, v)))
      | (s, none, some v) => (s, none, some (6, v))
      | (s, none, none) => (modLedger s 6 (fun l => addOverflow l .stop 1), none, none)

/-! ### Handlings -/

/-- R472: whether another handling of the ledger's region, or of the chip, runs at a level that a new one of level
`sev` waits for. -/
def mustWait (s : State) (L : Nat) (sev : Sev) (self : EntryRef) : Bool :=
  (allEntries s).any (fun (r, e) => r != self && (r.ledger == L || r.ledger == 6) && e.hstate == .running
    && decide (sevCode sev ≤ sevCode e.level))

/-- R472: a running handling of lower level is pre-empted. -/
def preemptOthers (s : State) (L : Nat) (sev : Sev) (self : EntryRef) : State :=
  (allEntries s).foldl (fun s (r, e) =>
    if r != self && (r.ledger == L || r.ledger == 6) && e.hstate == .running && decide (sevCode e.level < sevCode sev)
    then modEntry s r (fun e => { e with hstate := .preempted }) else s) s

/-- R472: the handling of an entry begins or waits; whether its action starts now. -/
def beginHandling (s : State) (r : EntryRef) (sev : Sev) (a : Handling) : State × Bool :=
  let fb := match entryAt s r with
    | some e => ledgerOf e.source == 5
    | none => false
  if !fb && mustWait s r.ledger sev r then
    let n := s.fault.nextHandling
    let s := modEntry s r (fun e => { e with action := some a, hstate := .waiting, order := n })
    ({ s with fault := { s.fault with nextHandling := n + 1 } }, false)
  else
    let s := if fb then s else preemptOthers s r.ledger sev r
    (modEntry s r (fun e => { e with action := some a, hstate := .running }), true)

/-- R472: the handling of an entry has ended; the handlings it pre-empted resume, or are superseded when it stopped,
isolated or abandoned their target. -/
def endHandling (s : State) (r : EntryRef) (supersedes : Bool) : State :=
  let s := modEntry s r (fun e => { e with hstate := .idle })
  (allEntries s).foldl (fun s (q, e) =>
    if q.ledger == r.ledger && e.hstate == .preempted && !mustWait s q.ledger e.level q then
      modEntry s q (fun e =>
        if supersedes then { e with hstate := .idle, superseded := true } else { e with hstate := .running })
    else s) s

/-! ### Tokens -/

/-- R477: the event domain. -/
def evtDomain (s : State) : Dom := domOf (regF s 0xF008 9 8)

/-- R479, R485: one token counted lost. -/
def loseToken (s : State) (source : Nat) : State :=
  let f := s.fault
  { s with fault := { f with
      loss := cellPut zero0 f.loss source ((cellGet zero0 f.loss source + 1) % 65536)
      evtLost := f.evtLost + 1
      lostCount := f.lostCount + 1
      lostLow := if f.lostCount = 0 then source else min f.lostLow source
      lostHigh := if f.lostCount = 0 then source else max f.lostHigh source
      lostFirst := if f.lostCount = 0 then markNow s else f.lostFirst } }

/-- R479, R481: a buffered token makes room. One of another member counts in no audit of this one (log 47). -/
def displace (old : Token) (s : State) : State :=
  let f := s.fault
  let s := { s with fault := { f with buffer := f.buffer.erase old } }
  if old.remote then s else loseToken s old.source

/-- R479: a token into the event buffer of 64, or lost. -/
def bufferToken (s : State) (t : Token) : State :=
  if s.fault.buffer.length < 64 then { s with fault := { s.fault with buffer := s.fault.buffer ++ [t] } }
  else if sevCode t.sev < 2 then loseToken s t.source
  else match s.fault.buffer.find? (fun x => decide (sevCode x.sev < 2)) with
    | some old =>
      let s := displace old s
      { s with fault := { s.fault with buffer := s.fault.buffer ++ [t] } }
    | none => loseToken s t.source

/-- R371, R475: this member's position, as the origin of its records. -/
def ownPos (s : State) : Nat := s.norrak.position

/-- R477: the next token of this member, in the event domain. -/
def makeToken (s : State) (source : Nat) (sev : Sev) (payload : List Byte) (at' : Option Stamp) : State × Token :=
  let seq := s.fault.seq + 1
  ({ s with fault := { s.fault with seq := seq, evtGen := s.fault.evtGen + 1 } },
    { source := source, sev := sev, seq := seq, stamp := at'.getD (stampIn s (evtDomain s) s.time.now), payload := payload
      origin := ownPos s })

/-- R478: whether mask and minimum severity let a happening make a token. -/
def admitted (s : State) (source : Nat) (sev : Sev) : Bool :=
  sev == .stop || source == 248
  || (regB s (0xF020 + 4 * (source / 32)) (source % 32) && decide (regF s 0xF008 11 10 ≤ sevCode sev))

/-- R478: a happening's token, where it makes one. -/
def genToken (s : State) (source : Nat) (sev : Sev) (payload : List Byte) (at' : Option Stamp) : State :=
  if admitted s source sev then
    let (s, t) := makeToken s source sev payload at'
    bufferToken s t
  else s

/-- R478: the rate limit of a source and index: whether it admits a happening, and how many it has held back. -/
def rateLimit (s : State) (source index period : Nat) : State × Option Nat :=
  match s.fault.limits.find? (fun l => l.source == source && l.index == index) with
  | some l =>
    let rest := s.fault.limits.filter (fun l => !(l.source == source && l.index == index))
    if s.time.now < l.last + period then
      ({ s with fault := { s.fault with limits := { l with held := l.held + 1 } :: rest } }, none)
    else
      ({ s with fault := { s.fault with limits := ⟨source, index, s.time.now, 0⟩ :: rest } }, some l.held)
  | none =>
    ({ s with fault := { s.fault with limits := ⟨source, index, s.time.now, 0⟩ :: s.fault.limits } }, some 0)

/-- R417: the Quire watches for edges and events: a capture is armed, or a QUIRE_ARM waits. -/
def quireWatches (s : State) : Bool :=
  s.quire.state == .armed || s.quire.state == .triggered || s.host.flight.any (fun f => f.opcode == 0x80 && f.applied.isNone)

/-- R417: a watching Quire sees that a source raised an event. -/
def noteSource (source : Nat) (s : State) : State :=
  if quireWatches s then
    { s with quire := { s.quire with sourcesSeen :=
        (source, s.time.now) :: s.quire.sourcesSeen.filter (· != (source, s.time.now)) } }
  else s

/-- R538: whether a happening is an error and makes an entry. -/
def isError (h : Hap) : Bool := h.sev != .note || h.logged

/-- R473: a merge reported, at most once a millisecond per ledger. -/
def reportOverflow (s : State) (m : Option (Nat × Sev)) : State :=
  match m with
  | none => s
  | some (L, v) =>
    match rateLimit s 13 L msLsb with
    | (s, some held) => genToken (noteSource 13 s) 13 .note (b1 L ++ b1 (sevCode v) ++ cnt1 held) none
    | (s, none) => s

/-- R466–R479: a happening: its ledger entry, its token and the start of its handling. Answers the entry and whether
its action starts now. -/
def raiseHap (s : State) (h : Hap) : State × Option EntryRef × Bool :=
  let s := noteSource h.source s
  if isError h then
    let (s, r, m) := logEntry s h
    let s := genToken s h.source h.sev h.payload h.stamp
    let s := reportOverflow s m
    match h.action, r with
    | some a, some r =>
      let (s, go) := beginHandling s r h.sev a
      (s, some r, go)
    | _, _ => (s, r, true)
  else (genToken s h.source h.sev h.payload h.stamp, none, true)

/-- A happening whose entry and handling nothing depends on. -/
def emit (h : Hap) (s : State) : State := (raiseHap s h).1

/-- A happening with a rate limit of one record per `period` for its index; its payload shows how many records were
held back (R478, R539). Its ledger entry is made each time. -/
def emitLim (period : Nat) (key : Nat) (h : Nat → Hap) (s : State) : State :=
  let s := noteSource (h 0).source s
  let (s, m) := if isError (h 0) then
      let (s, _, m) := logEntry s (h 0)
      (s, m)
    else (s, none)
  let s := if admitted s (h 0).source (h 0).sev then
      match rateLimit s (h 0).source key period with
      | (s, some held) => genToken s (h held).source (h held).sev (h held).payload (h held).stamp
      | (s, none) => s
    else s
  reportOverflow s m

/-! ### Void (R35) -/

/-- R35: a condition of R34 fails: void_cause bit 0 ecc, 1 ring, 2 limits, with the entry that reported it. -/
def voidCause (cause : Nat) (parent : Option EntryRef) (s : State) : State :=
  let c := s.chip
  let had := if cause = 0 then c.voidEcc else if cause = 1 then c.voidRing else c.voidLimits
  let c' := { c with
    voidEcc := c.voidEcc || cause == 0, voidRing := c.voidRing || cause == 1, voidLimits := c.voidLimits || cause == 2 }
  let s := { s with chip := c' }
  if had then s else
    emit { source := 10, sev := .warning, chip := true, handler := 3, parent := parent, rootless := true
           payload := b1 (ofMask [c'.voidEcc, c'.voidRing, c'.voidLimits]) } s

/-! ### FAULT_N (R468) -/

/-- R468: whether FAULT_N is low. -/
def faultLowNow (s : State) : Bool :=
  s.life.resetNLow || s.life.inReset || s.life.clearing || !s.firebreak.selftestOk || s.fault.causes != []
  || (List.finRange 8).any (fun g => regB s 0xF008 g && (s.axis.groups[g.val].ss1 || s.axis.groups[g.val].stopped))

/-- R467: the first latched cause code; 0 without one. -/
def causeCode (s : State) : Nat := match s.fault.causes with
  | (c, _) :: _ => c
  | [] => 0

/-- R468: FAULT_N follows its conditions, and each change is raised. -/
def settleFaultN (s : State) : State :=
  let low := faultLowNow s
  if low = s.fault.faultLow then s
  else
    let s := { s with fault := { s.fault with faultLow := low }, out := s.out ++ [.faultN (!low)] }
    emit { source := 12, sev := .note, payload := b1 (ofBool (!low)) ++ b1 (causeCode s) } s

/-! ### Index codes (R539, R109) -/

/-- R539: the byte of a slot or a lattice. -/
def ownerByte : Owner → Nat
  | .slot n => n
  | .lattice n => 0x80 + n

/-- R109: the byte of a ring: its doorbell offset divided by 4. -/
def ringByte : Ring → Nat
  | .sq n => n
  | .out (.cq n) => 16 + n
  | .out .evq => 32
  | .out (.str n) => 40 + n

end Sys2Proof.Machine
end

