-- ==== Sys2Proof/Machine/Host.lean ====
section
/-!
DEFINITION. Rings, doorbells, completions and MSI-X (03): the operations on ring cells and on descriptors in flight
(R74–R101, R106).
-/

namespace Sys2Proof.Machine

/-! ### Ring cells -/

/-- R108: log2_size as it acts. -/
def ringLog (s : State) (base : Nat) : Nat := max 4 (min 12 (regF s (base + 8) 4 1))

/-- R74: the entries of a ring. -/
def ringSize (s : State) (base : Nat) : Nat := 2 ^ ringLog s base

/-- R108: a ring's enable. -/
def ringOn (s : State) (base : Nat) : Bool := regB s (base + 8) 0

/-- The cell of a ring that the device writes. -/
def wrRing (s : State) : OutRing → WrRing
  | .cq n => s.host.cq[n]
  | .evq => s.host.evq
  | .str n => s.host.str[n]

/-- R83: free entries of a ring the device writes: neither reserved nor written and not returned. -/
def ringFree (s : State) (r : OutRing) : Nat :=
  ringSize s (outBase r) - (wrRing s r).used - (wrRing s r).reserved

/-- R108: SQn_STATUS without upd_seq. -/
def sqStatus (s : State) (n : Fin 8) : Nat :=
  let q := s.host.sq[n]
  word [(q.head, 0, 16), (ofBool (ringOn s (sqBase n) && !q.error), 16, 1), (ofBool q.error, 17, 1), (q.errKind, 18, 2)]

/-- R108: the STATUS of a ring that the device writes, without upd_seq. -/
def wrStatus (s : State) (r : OutRing) : Nat :=
  let q := wrRing s r
  word [(q.tail, 0, 16), (ofBool q.phase, 16, 1), (ofBool (ringOn s (outBase r) && ringFree s r == 0), 17, 1), (ofBool q.error, 18, 1)]

/-- R114: the upd_seq fields with that of an offset 1 higher where its register has changed. -/
def seqStep (m : List (Nat × Nat)) (o was is : Nat) : List (Nat × Nat) :=
  if was = is then m else cellPut zero0 m o ((cellGet zero0 m o + 1) % 256)

/-- The HOST region with a ring cell changed. -/
def putWr (h : HostSt) (r : OutRing) (f : WrRing → WrRing) : HostSt :=
  match r with
  | .cq n => { h with cq := upd h.cq n f }
  | .evq => { h with evq := f h.evq }
  | .str n => { h with str := upd h.str n f }

/-- R114: a cell of a ring that the device writes changed, and its upd_seq with it. -/
def modWr (s : State) (r : OutRing) (f : WrRing → WrRing) : State :=
  { s with
    host := putWr s.host r f
    seqs := seqStep s.seqs (outBase r + 0xC) (wrStatus s r) (wrStatus { s with host := putWr s.host r f } r) }

/-- R114: a submission ring changed, and its upd_seq with it. -/
def modSq (s : State) (n : Fin 8) (f : SubRing → SubRing) : State :=
  { s with
    host := { s.host with sq := upd s.host.sq n f }
    seqs := seqStep s.seqs (sqBase n + 0xC) (sqStatus s n) (sqStatus { s with host := { s.host with sq := upd s.host.sq n f } } n) }

/-- The HOST region changed. -/
def modHost (s : State) (f : HostSt → HostSt) : State := { s with host := f s.host }

/-- R74: the address of entry `i` of a ring of entries of `size` bytes. -/
def entryAddr (s : State) (base size i : Nat) : BitVec 64 :=
  BitVec.ofNat 64 (reg s base + 2 ^ 32 * reg s (base + 4) + i * size)

/-- R84: entries published and not yet accepted. -/
def outstanding (s : State) (n : Fin 8) : Nat := s.host.sq[n].published

/-! ### Configuration space (R71, R72) -/

/-- R72: a memory BAR: its number, its size in bytes, whether it is 64-bit and prefetchable. -/
structure Bar where
  number : Nat
  bytes  : Nat
  wide   : Bool
  prefetchable : Bool
  deriving DecidableEq, Repr

/-- R72: what configuration space reports of the function. -/
structure PcieIdent where
  vendor : BitVec 16
  device : BitVec 16
  classCode : BitVec 24
  bars : List Bar
  vectors : Nat
  deriving DecidableEq, Repr

/-- R71, R72: the function as configuration space reports it. -/
def pcieIdent : PcieIdent :=
  { vendor := Config.vendorId, device := 0x2432, classCode := 0x118000
    bars := [{ number := 0, bytes := 65536, wide := true, prefetchable := false },
      { number := 2, bytes := 4096, wide := true, prefetchable := false }]
    vectors := 32 }

/-- R71: the largest read request that the programmed value allows now, at most 512 B. -/
def maxRead (s : State) : Nat := min 512 (128 * 2 ^ Config.maxReadCode s.time.now)

/-! ### Protocol violations (R81) and DMA failures (R85, R106) -/

/-- R81: a doorbell breaks the protocol: the ring goes into error, void_cause_ring is set. -/
def ringViolation (ring : Ring) (kind value : Nat) (s : State) : State :=
  let s := match ring with
    | .sq n => modSq s n (fun q => { q with error := true, errKind := kind })
    | .out r => modWr s r (fun w => { w with error := true })
  let (s, e, _) := raiseHap s
    { source := 16, sev := .fault, idx := ringByte ring, handler := 0
      payload := b1 (ringByte ring) ++ b1 kind ++ leBytes 4 value }
  voidCause 1 e s

/-- R85, R84, R106: a transfer of a ring failed: the ring goes into error. -/
def ringDmaError (ring : Ring) (code : Byte) (s : State) : State :=
  let s := match ring with
    | .sq n => modSq s n (fun q => { q with error := true, errKind := 3 })
    | .out r => modWr s r (fun w => { w with error := true })
  emit { source := 17, sev := .fault, idx := ringByte ring, payload := b1 (ringByte ring) ++ [code] } s

/-! ### Doorbells (R79–R81) -/

/-- R85, R71: the next read request of a submission ring: at most 8 entries, no more than the largest request, not across the end of
the ring. -/
def nextFetch (s : State) (n : Fin 8) : Nat × Nat :=
  let size := ringSize s (sqBase n)
  let q := s.host.sq[n]
  let idx := (q.head + q.fetched.length) % size
  (idx, min (min 8 (maxRead s / 64)) (min (outstanding s n - q.fetched.length) (size - idx)))

/-- R85: the read request of a submission ring that has entries to read: one of at least 1 entry, since the largest request holds 2. -/
def requestFetch (s : State) (n : Fin 8) : State :=
  let (idx, k) := nextFetch s n
  let s := modSq s n (fun q => { q with asked := k })
  if outstanding s n ≤ s.host.sq[n].fetched.length then s else { s with out := s.out ++ [.fetch n idx (entryAddr s (sqBase n) 64 idx) k] }

/-- R80, R81: SQn_TAIL. -/
def sqTailEff (n : Fin 8) (value : Word) (s : State) : State :=
  let base := sqBase n
  let q := s.host.sq[n]
  if !ringOn s base || q.error then s
  else
    let v := value.toNat % 65536
    let size := ringSize s base
    if value.toNat / 65536 ≠ 0 then ringViolation (.sq n) 2 value.toNat s
    else if size ≤ v then ringViolation (.sq n) 1 value.toNat s
    else
      let more := (v + size - q.tail) % size
      if size - outstanding s n < more then ringViolation (.sq n) 2 value.toNat s
      else
        let s := modSq s n (fun q => { q with tail := v, published := q.published + more })
        if q.asked = 0 then requestFetch s n else s

/-- R80, R81: a head doorbell of a ring the device writes. -/
def headEff (r : OutRing) (value : Word) (s : State) : State :=
  let base := outBase r
  let w := wrRing s r
  if !ringOn s base || w.error then s
  else
    let v := value.toNat % 65536
    let size := ringSize s base
    if value.toNat / 65536 ≠ 0 then ringViolation (.out r) 2 value.toNat s
    else if size ≤ v then ringViolation (.out r) 1 value.toNat s
    else
      let back := (v + size - w.head) % size
      if w.used < back then ringViolation (.out r) 2 value.toNat s
      else modWr s r (fun w => { w with head := v, used := w.used - back })

/-- R103: HEARTBEAT. -/
def heartbeatEff (s : State) : State :=
  let last := s.host.hbLast
  let lost := s.host.hbLost
  let s := modHost s (fun h => { h with
    hbLast := markNow s, hbFrom := s.time.now, hbLost := false })
  if lost then
    emit { source := 19, sev := .note
           payload := leBytes 4 (t32 (last.inDom (evtDomain s)).t).toNat } s
  else s

/-! ### MSI-X (R101) -/

/-- R101: a vector signalled. -/
def signalVec (v : Nat) (s : State) : State :=
  if !(Config.msixEnable s.time.now) then s
  else
    let i : Fin 32 := Fin.ofNat 32 v
    if Config.msixFunctionMask s.time.now || s.host.msix[i].mask then
      modHost s (fun h => { h with msix := upd h.msix i (fun m => { m with pending := true }) })
    else { s with out := s.out ++ [.msix v] }

/-- R101: pending messages are sent once their mask is cleared. -/
def sendPending (s : State) : State :=
  if s.host.msix.toList.any (fun m => m.pending && !m.mask) && Config.msixEnable s.time.now && !Config.msixFunctionMask s.time.now then
    (List.finRange 32).foldl (fun s i =>
      if s.host.msix[i].pending && !s.host.msix[i].mask then
        { modHost s (fun h => { h with msix := upd h.msix i (fun m => { m with pending := false }) }) with
          out := s.out ++ [.msix i] }
      else s) s
  else s

/-- R101: coal_count as it acts, 0 as 1. -/
def coalCount (s : State) (base : Nat) : Nat := max 1 (regF s (base + 8) 23 16)

/-- R101: coal_us. -/
def coalUs (s : State) (base : Nat) : Nat := regF s (base + 8) 31 24

/-- R76, R101: one entry of a completion or stream ring has been written. -/
def wroteEntry (r : OutRing) (s : State) : State :=
  let base := outBase r
  let size := ringSize s base
  let s := modWr s r (fun w =>
    let t := (w.tail + 1) % size
    { w with tail := t, phase := if t = 0 then !w.phase else w.phase, used := w.used + 1
             unsig := w.unsig + 1, oldest := some (w.oldest.getD s.time.now) })
  match r with
  | .evq => s
  | _ =>
    if coalCount s base ≤ (wrRing s r).unsig then
      signalVec (regF s (base + 8) 14 10) (modWr s r (fun w => { w with unsig := 0, oldest := none }))
    else s

/-- R101: the coalescing timer of a ring. -/
def coalesceEff (r : OutRing) (s : State) : State :=
  let base := outBase r
  let due (t : Nat) : Bool := coalUs s base != 0 && decide (t + coalUs s base * usLsb ≤ s.time.now)
  match r with
  | .evq =>
    let fire := s.fault.unsig.filter (fun u => due u.2.2)
    let s := { s with fault := { s.fault with unsig := s.fault.unsig.filter (fun u => !due u.2.2) } }
    fire.foldl (fun s u => signalVec u.1 s) s
  | _ =>
    match (wrRing s r).oldest with
    | some t =>
      if due t then signalVec (regF s (base + 8) 14 10) (modWr s r (fun w => { w with unsig := 0, oldest := none }))
      else s
    | none => s

/-! ### Descriptors in flight (R82, R92–R99) -/

/-- R94: the status codes of the header table. -/
def stOK : Nat := 0x0000
def stSuperseded : Nat := 0x0001
def stSentCancelLate : Nat := 0x0002
def stCancelled : Nat := 0x0010
def stHostReset : Nat := 0x0011
def stLifecycle : Nat := 0x0012
def stStopped : Nat := 0x0013
def stHbOrphan : Nat := 0x0014
def stPairBroken : Nat := 0x0015
def stReserved : Nat := 0x0020
def stOpcode : Nat := 0x0021
def stFlags : Nat := 0x0022
def stTarget : Nat := 0x0023
def stPayload : Nat := 0x0024
def stPairLong : Nat := 0x0025
def stPairTarget : Nat := 0x0026
def stApplyRange : Nat := 0x0027
def stLifeDenied : Nat := 0x0028
def stState : Nat := 0x0029
def stOrphaned : Nat := 0x002A
def stBufferDma : Nat := 0x002B
def stDomUnset : Nat := 0x0030
def stDomFixed : Nat := 0x0031
def stDomDisc : Nat := 0x0032
def stDomInUse : Nat := 0x0033
def stRateStep : Nat := 0x0034
def stLease : Nat := 0x0040
def stReversal : Nat := 0x0041
def stUncorrectable : Nat := 0x0100

/-- The descriptor in flight with a serial number. -/
def flightOf (s : State) (id : Nat) : Option InFlight := s.host.flight.find? (fun f => f.id == id)

/-- A descriptor in flight changed. -/
def modFlight (s : State) (id : Nat) (f : InFlight → InFlight) : State :=
  modHost s (fun h => { h with flight := h.flight.map (fun x => if x.id = id then f x else x) })

/-- R92, R93: a descriptor's completion becomes due: it leaves the flight and its record waits to be written. -/
def completeAs (f : InFlight) (status : Nat) (result detail : Int) (applied : Option Stamp) (notBefore : Nat)
    (s : State) : State :=
  let c : Cpl := {
    toCq0 := f.slotGone, group := f.group
    shown := applied.bind (fun a => if reached s a then some (restamp s f.descDom a) else none)
    id := f.id, src := f.src, tag := f.tag, flags := f.flags, status := BitVec.ofNat 16 status
    result := BitVec.ofInt 32 result, detail := BitVec.ofInt 32 detail, accStamp := f.accStamp, descDom := f.descDom
    applied := applied, opcode := f.opcode, order := s.host.nextOrder, cq := f.cq, notBefore := notBefore }
  modHost s (fun h => { h with
    flight := h.flight.filter (fun x => x.id != f.id), done := h.done ++ [c], nextOrder := h.nextOrder + 1 })

/-- The completion of the descriptor with a serial number, while it is in flight. -/
def complete (id status : Nat) (result detail : Int) (applied : Option Stamp) (s : State) : State :=
  match flightOf s id with
  | some f => completeAs f status result detail applied s.time.now s
  | none => s

/-- Completion with OK and an applied stamp. -/
def completeOk (id : Nat) (applied : Option Stamp) (s : State) : State := complete id stOK 0 0 applied s

/-- A rejection or removal: no effect, applied stamp 0. -/
def reject (id status : Nat) (detail : Int) (s : State) : State := complete id status 0 detail none s

/-- Every descriptor in flight that has not taken effect and that a test picks is removed. -/
def purge (p : InFlight → Bool) (status : Nat) (detail : InFlight → Int) (s : State) : State :=
  (s.host.flight.filter (fun f => f.applied.isNone && f.due != .running && p f)).foldl
    (fun s f => completeAs f status 0 (detail f) none s.time.now s) s

/-- R93: the D0 instant at which a completion is due. -/
def dueAt (s : State) (c : Cpl) : Int :=
  match c.applied with
  | some a => max (c.notBefore : Int) (toD0 s a)
  | none => c.notBefore

/-- R93: whether a completion may be written now. -/
def isDue (s : State) (c : Cpl) : Bool := decide (dueAt s c ≤ s.time.now)

/-- R383: the request that an inner descriptor came with. -/
def tunnelOf (s : State) (id : Nat) : Option TunnelIn := s.norrak.tunnelsIn.find? (fun t => t.ids.contains id)

/-- R383: an inner completion waits until every completion of its request has come. -/
def tunnelWaits (s : State) (c : Cpl) : Bool :=
  c.src == .tunnel && (match tunnelOf s c.id with
    | some t => t.ids.any (fun i => !s.host.done.any (fun x => x.id == i && isDue s x))
    | none => false)

/-- R98: whether an earlier member of a completion's pair group is in flight or among the completions that a test picks. -/
def groupWaits (s : State) (p : Cpl → Bool) (c : Cpl) : Bool :=
  match c.group with
  | some (g, _) =>
    let before (id : Nat) : Bool := decide (g ≤ id) && decide (id < c.id)
    s.host.flight.any (fun f => before f.id) || s.host.done.any (fun x => before x.id && p x)
  | none => false

/-- R96, R98: the completion that is written next: the earliest due, in order of completion among equals; the members of a pair group
in ring order. -/
def pickDue (s : State) : Option Cpl :=
  bestBy (fun (a b : Cpl) => decide (dueAt s a < dueAt s b) || (dueAt s a == dueAt s b && decide (a.order < b.order)))
    (s.host.done.filter (fun c => !c.held && isDue s c && !tunnelWaits s c && !groupWaits s (fun x => !x.held) c))

/-- R92: the 32 bytes of a completion. -/
def cplBits (s : State) (c : Cpl) (phase : Bool) : BitVec 256 :=
  let acc := restamp s c.descDom c.accStamp
  let app := c.applied.map (fun a => c.shown.getD (restamp s c.descDom a))
  let sqNo := match c.src with
    | .sq n => n.val
    | _ => 0
  let head := match c.src with
    | .sq n => s.host.sq[n].head
    | _ => 0
  BitVec.ofNat 256 (word [(c.tag.toNat, 0, 8), (sqNo, 8, 3), (ofBool c.held, 15, 1), (c.status.toNat, 16, 16),
    (c.result.toNat, 32, 32), (acc.t.toNat, 64, 64), ((app.map (fun a => a.t.toNat)).getD 0, 128, 64),
    (c.detail.toNat, 192, 32), (head, 224, 16), (domCode acc.dom, 240, 2),
    ((app.map (fun a => domCode a.dom)).getD 0, 242, 2), (ofBool phase, 247, 1), (c.opcode.toNat, 248, 8)])

/-- A completion taken out of the list of those to be written. -/
def dropDone (c : Cpl) (s : State) : State :=
  modHost s (fun h => { h with done := h.done.filter (fun x => x.order != c.order) })

/-- R106: a completion held. -/
def holdCpl (c : Cpl) (s : State) : State :=
  modHost s (fun h => { h with done := h.done.map (fun x => if x.order = c.order then { x with held := true } else x) })

/-- R95: whether a completion is suppressed. -/
def suppressed (c : Cpl) : Bool := bit c.flags.toNat 3 && decide (c.status.toNat < 0x10)

/-- R83: the slot that acceptance reserved is returned. -/
def unreserve (c : Cpl) (s : State) : State :=
  match c.cq with
  | some q => if c.toCq0 then s else modWr s (.cq q) (fun w => { w with reserved := w.reserved - 1 })
  | none =>
    match c.src with
    | .svc => { s with svc := { s.svc with reserved := s.svc.reserved - 1 } }
    | _ => s

/-- R37: a descriptor counted as completed. -/
def countCpl (s : State) : State := modHost s (fun h => { h with descCpl := h.descCpl + 1 })

/-- R92, R76: a completion written to a completion ring. -/
def writeCpl (q : Fin 8) (c : Cpl) (s : State) : State :=
  let w := s.host.cq[q]
  let s := { s with out := s.out ++ [.completion q w.tail (entryAddr s (cqBase q) 32 w.tail) (cplBits s c w.phase)] }
  countCpl (wroteEntry (.cq q) (unreserve c (dropDone c s)))

/-- R106: completions held. -/
def heldCount (s : State) : Nat := (s.host.done.filter (fun c => c.held)).length

/-- R84: the credits and the head shadow after the head moved. -/
def shadowHead (n : Fin 8) (s : State) : State :=
  let base := sqBase n
  if regB s (base + 8) 8 then
    { s with out := s.out ++ [.shadow n (BitVec.ofNat 64 (reg s (base + 0x18) + 2 ^ 32 * reg s (base + 0x1C)))
        (BitVec.ofNat 32 s.host.sq[n].head)] }
  else s

/-- R99: the FENCEs, by serial number, with their masks: those with no earlier descriptor of a masked ring in flight
or waiting to be written complete. -/
def releaseFences (s : State) : State :=
  (s.host.flight.filter (fun f => f.opcode == 0x01 && f.due == .running)).foldl (fun s f =>
    let own := match f.src with
      | .sq n => 2 ^ n.val
      | _ => 0
    let m := f.payload.toNat % 256
    let mask := if m = 0 then own else m
    let earlier (id : Nat) (src : Source) : Bool := decide (id < f.id) && (match src with
      | .sq n => bit mask n
      | _ => false)
    if s.host.flight.any (fun x => earlier x.id x.src) || s.host.done.any (fun c => earlier c.id c.src) then s
    else
      completeAs f stOK f.res 0 f.applied s.time.now s) s

end Sys2Proof.Machine
end

