-- ==== Sys2Proof/Machine/Placer.lean ====
section
/-!
DEFINITION. Edge placers and the time base (02): queueing and driving edges (R61–R64), PPS_OUT (R66), snapshots (R56),
calibration (R43) and the discipline of the domains (R49–R55, R68, R69, R540).
-/

namespace Sys2Proof.Machine

/-! ### Edge placers -/

/-- R62: a target rounded to the nearest multiple of 4 LSB, a tie going later. -/
def round4 (t : T64) : T64 :=
  match t.toNat % 4 with
  | 0 => t
  | 1 => t - 1
  | 2 => t + 2
  | _ => t + 1

/-- R63, R64: 60 ns. -/
def lateLsb : Nat := 960

/-- R64, R302, R362: the minimum pulse width of a placer in LSB. -/
def minWidth (s : State) (p : Nat) : Nat :=
  if p < 6 then max 2 (regF s 0x9010 7 0) * 160
  else if p < 10 then max 2 (regF s (pinBase (p - 6)) 11 4) * 160
  else 320

/-- The D0 instant of an edge's rounded target, at the present rate. -/
def edgeD0 (s : State) (e : Edge) : Int := toD0 s ⟨e.dom, round4 e.target⟩

/-- R63: the D0 instant at which an edge is driven: its target, or the instant its placer took for a late edge. -/
def edgeDue (s : State) (e : Edge) : Int := if e.late then (e.placed : Int) else edgeD0 s e

/-- A placer changed. -/
def modPlacer (s : State) (p : Fin 12) (f : Placer → Placer) : State :=
  { s with time := { s.time with placers := upd s.time.placers p f } }

/-- R63, R70: an edge driven late: counted and reported with target and placed stamp. -/
def reportLate (p : Fin 12) (target : Stamp) (placed : Int) (s : State) : State :=
  let s := { s with time := { s.time with placerLate := s.time.placerLate + 1 } }
  let d := evtDomain s
  emit { source := 40, sev := .warning, idx := p
         payload := b1 p ++ leBytes 4 (t32 (restamp s d target).t).toNat
           ++ leBytes 4 (t32 (stampIn s d placed).t).toNat } s

/-- R64: a pulse dropped, reported at most once a millisecond per placer. -/
def reportSuppressed (p : Fin 12) (s : State) : State :=
  let s := { s with time := { s.time with placerSupp := s.time.placerSupp + 1 } }
  emitLim msLsb p (fun held => { source := 41, sev := .note, idx := p, payload := b1 p ++ cnt1 (held + 1) }) s

/-- R63: the edges a placer's queue holds. -/
def queueMax : Nat := 8

/-- R61, R64: by how much an edge's rounded target follows another's, in their domain, or in D0 where they differ. -/
def edgeGap (s : State) (a b : Edge) : Int :=
  if a.dom = b.dom then diff64 (round4 b.target) (round4 a.target) else edgeD0 s b - edgeD0 s a

/-- R64: whether two edges of a queue make a pulse that is too narrow. -/
def tooNarrow (s : State) (p : Fin 12) (a b : Edge) : Bool :=
  a.level != b.level && decide ((edgeGap s a b).natAbs < minWidth s p)

/-- R63, R64: an edge takes its place in a queue, in order of target; with a neighbour that makes too narrow a pulse it
is dropped. -/
def enterQueue (p : Fin 12) (e : Edge) (s : State) : State :=
  let q := s.time.placers[p].queue
  let before := q.filter (fun x => decide (0 ≤ edgeGap s x e))
  let after := q.filter (fun x => !decide (0 ≤ edgeGap s x e))
  let put (q : List Edge) : State := modPlacer s p (fun pl => { pl with queue := q })
  let narrow (x : Option Edge) : Bool := match x with
    | some x => tooNarrow s p x e
    | none => false
  if narrow before.getLast? then reportSuppressed p (put (before.dropLast ++ after))
  else if narrow after.head? then reportSuppressed p (put (before ++ after.tail))
  else put (before ++ e :: after)

/-- R63: an edge that enters now, late or not: a late one is driven at most 60 ns after its request, a free value. -/
def enterNow (p : Fin 12) (e : Edge) (late : Bool) (s : State) : State × Edge :=
  let (x, s) := if late then takeFree s else (0, s)
  let e := { e with late := late, placed := s.time.now + x % (lateLsb - (s.time.now - e.asked) + 1) }
  (enterQueue p e s, e)

/-- R63: whether an edge that enters at a D0 instant is late. -/
def lateAt (s : State) (e : Edge) (t : Int) : Bool := decide (edgeD0 s e - t < lateLsb)

/-- R63: the D0 instant at which the next waiting edge finds room. -/
def roomAt (s : State) (p : Fin 12) : Int :=
  match s.time.placers[p].queue[s.time.placers[p].waiting.length]? with
  | some x => max s.time.now (edgeDue s x)
  | none => match s.time.placers[p].queue.getLast? with
    | some x => max s.time.now (edgeDue s x)
    | none => s.time.now

/-- R61, R63, R64: an edge is offered to a placer; one that finds the queue full waits. `ahead`: it is queued a deadline
guard ahead. A placer that is isolated (R22) places nothing. Answers whether it is late, and the D0 instant it will be driven at. -/
def queueEdge (p : Fin 12) (e : Edge) (ahead : Bool) (s : State) : State × Bool × Int :=
  let e := { e with asked := s.time.now }
  let pl := s.time.placers[p]
  if isolated s (.placer p) then (s, false, edgeD0 s e)
  else if pl.queue.length < queueMax ∧ pl.waiting = [] then
    let (s, e) := enterNow p e (!ahead && lateAt s e s.time.now) s
    (s, e.late, edgeDue s e)
  else
    let r := roomAt s p
    (modPlacer s p (fun pl => { pl with waiting := pl.waiting ++ [e] }), lateAt s e r, if lateAt s e r then r else edgeD0 s e)

/-- An edge queued whose lateness its owner does not record. -/
def putEdge (p : Fin 12) (e : Edge) (ahead : Bool) (s : State) : State := (queueEdge p e ahead s).1

/-- R63: the edges that wait enter while there is room, in order of request. -/
def admitEdges (p : Fin 12) : Nat → State → State
  | 0, s => s
  | n + 1, s =>
    match s.time.placers[p].waiting with
    | [] => s
    | e :: rest =>
      if s.time.placers[p].queue.length < queueMax then
        admitEdges p n (enterNow p e (lateAt s e s.time.now) (modPlacer s p (fun pl => { pl with waiting := rest }))).1
      else s

/-- R286, R357: a placer's edges that a test picks are withdrawn, those that wait too. -/
def keepEdges (p : Fin 12) (keep : Edge → Bool) (s : State) : State :=
  modPlacer s p (fun pl => { pl with queue := pl.queue.filter keep, waiting := pl.waiting.filter keep })

/-- The last edge a placer has been given. -/
def lastEdgeOf (s : State) (p : Fin 12) : Option Edge :=
  match s.time.placers[p].waiting.getLast? with
  | some e => some e
  | none => s.time.placers[p].queue.getLast?

/-- R61: the level driven at a ball. -/
def drive (p : Fin 12) (level : Bool) (target : Stamp) (late : Bool) (s : State) : State :=
  let now : Stamp := ⟨.d0, BitVec.ofNat 64 s.time.now⟩
  let s := modPlacer s p (fun pl => { pl with
    level := level, lastEdge := some s.time.now, lastAt := some (if late then now else ⟨target.dom, round4 target.t⟩)
    lastOn := if level then some s.time.now else pl.lastOn })
  { s with out := s.out ++ [.edge p level target.t now.t late] }

/-- R61: a level driven at once, without an edge in the queue. -/
def driveNow (p : Fin 12) (level : Bool) (s : State) : State :=
  drive p level ⟨.d0, BitVec.ofNat 64 s.time.now⟩ false s

/-- R359: a gate's turn-off edge has been driven late: the opposite gate's next turn-on follows it by the dead time. -/
def delayOpposite (p : Fin 12) (s : State) : State :=
  let c : Fin 3 := Fin.ofNat 3 (p.val / 2)
  let dead : Int := (4 * (if p.val % 2 = 0 then s.power.ch[c].hl.d else s.power.ch[c].lh.d) : Nat)
  modPlacer s (Fin.ofNat 12 (p.val ^^^ 1)) (fun pl => { pl with queue := match pl.queue with
    | e :: rest => if e.level then { e with target := e.target + BitVec.ofInt 64 (max 0 (s.time.now + dead - edgeDue s e)) } :: rest
        else e :: rest
    | [] => [] })

/-- R63, R359: a late edge is driven and reported; a gate's late turn-on edge is dropped, its late turn-off edge delays
the other gate. -/
def driveLate (p : Fin 12) (e : Edge) (s : State) : State :=
  let s := reportLate p ⟨e.dom, e.target⟩ s.time.now s
  if p.val < 6 then (if e.level then s else delayOpposite p (drive p false ⟨e.dom, e.target⟩ true s))
  else drive p e.level ⟨e.dom, e.target⟩ true s

/-- R64: whether an edge's rounded target lies less than the minimum width after the edge driven last. -/
def heldBack (s : State) (p : Fin 12) (e : Edge) : Bool :=
  match s.time.placers[p].lastAt with
  | some a =>
    if a.dom = e.dom then decide (diff64 (round4 e.target) a.t < minWidth s p)
    else decide (edgeD0 s e < toD0 s a + minWidth s p)
  | none => false

/-- R61–R64: a placer drives its next edge once it is due. An edge that would make too narrow a pulse after the last
driven edge is held for the minimum width and is then late. -/
def placerEdgeEff (p : Fin 12) (s : State) : State :=
  match s.time.placers[p].queue with
  | [] => s
  | e :: rest =>
    let s' := modPlacer s p (fun pl => { pl with queue := rest })
    if decide ((s.time.now : Int) < edgeDue s e) then s
    else if e.level = s.time.placers[p].level then s'
    else if heldBack s p e then
      (if decide (s.time.now < s.time.placers[p].lastEdge.getD 0 + minWidth s p) then s else driveLate p e s')
    else if e.late then driveLate p e s'
    else drive p e.level ⟨e.dom, e.target⟩ false s'

/-! ### Time base -/

/-- The TIME region changed. -/
def modTime (s : State) (f : TimeSt → TimeSt) : State := { s with time := f s.time }

/-- R43: a calibration of the delay line. -/
def dlineEff (taps : Byte) (inRange : Bool) (s : State) : State :=
  let s := modTime s (fun t => { t with dlineOk := inRange })
  if inRange then s else emit { source := 34, sev := .warning, payload := [taps] } s

/-- R42, R67: the reference locks. -/
def refLockEff (s : State) : State := modTime s (fun t => { t with refLocked := true, xtalOk := true })

/-- R66: a PPS period in LSB. -/
def ppsPeriod (s : State) : Nat :=
  match regF s 0x2200 5 4 with
  | 0 => 16000000000
  | 1 => 1600000000
  | 2 => 160000000
  | _ => 16000000

/-- R66: the pulse width in LSB. -/
def ppsWidth (s : State) : Nat := min (max 1 (regF s 0x2200 31 12) * usLsb) (ppsPeriod s / 2)

/-- R66: the domain time reaches a multiple of the period: both edges are queued. -/
def ppsEff (s : State) : State :=
  let d := domOf (regF s 0x2200 2 1)
  let t := (domNow s d).toNat
  let into := t % ppsPeriod s
  if !regB s 0x2200 0 || unset s d || decide (40 ≤ into) then s
  else
    let lead : T64 := BitVec.ofNat 64 (t - into)
    let level := !regB s 0x2200 3
    let s := putEdge 11 { target := lead, dom := d, level := level, owner := .pps } true s
    putEdge 11 { target := lead + BitVec.ofNat 64 (ppsWidth s), dom := d, level := !level, owner := .pps } true s

/-- R66: without a pulse PPS_OUT is at its inactive level. -/
def ppsLevel (s : State) : State :=
  let pl := s.time.placers[(11 : Fin 12)]
  if pl.queue.isEmpty && pl.waiting.isEmpty && pl.level != regB s 0x2200 3 then driveNow 11 (regB s 0x2200 3) s else s

/-- R63, R66: what follows at once at the placers: waiting edges enter, and PPS_OUT rests at its inactive level. -/
def settlePlacers (s : State) : State :=
  ppsLevel ((List.finRange 12).foldl (fun s p => admitEdges p s.time.placers[p].waiting.length s) s)

/-- R56: the words of a snapshot of the four domains. -/
def xsnapWords (s : State) : List (Nat × Word) :=
  let ds := [Dom.d0, .d1, .d2, .d3]
  let lo := ds.map (fun d => (0x2020 + 8 * domCode d, (domNow s d).setWidth 32))
  let hi := ds.map (fun d => (0x2024 + 8 * domCode d, ((domNow s d) >>> 32).setWidth 32))
  let st := (0x2040, BitVec.ofNat 32 (word [(1, 0, 3), (domStateCode s.time.d1.state, 4, 3),
    (domStateCode s.time.d2.state, 8, 3), (domStateCode s.time.d3.state, 12, 3)]))
  let rates := [(0x2044, BitVec.ofInt 32 (rateOf s .d1)), (0x2048, BitVec.ofInt 32 (rateOf s .d2)),
    (0x204C, BitVec.ofInt 32 (rateOf s .d3))]
  lo ++ hi ++ [st] ++ rates

/-- R56: a snapshot is taken; a write while one is being taken is ignored. -/
def xsnapEff (s : State) : State :=
  if s.time.xsnapBusy then s
  else
    let w := xsnapWords s
    modTime s (fun t => { t with xsnapBusy := true, xsnap := w })

/-- R56: the snapshot completes. -/
def xsnapTakenEff (s : State) : State :=
  if s.time.xsnapBusy then
    let s := modTime s (fun t => { t with xsnapBusy := false, xsnapSeq := t.xsnapSeq + 1 })
    emit { source := 42, sev := .note, payload := [s.time.xsnapSeq] } s
  else s

/-! ### Domains -/

/-- R47: the controller whose scheduled class disciplines D2: the lower one that runs it. -/
def cantCtl (s : State) : Fin 2 := if !regB s (canBase 0 + 0x30) 0 && regB s (canBase 1 + 0x30) 0 then 1 else 0

/-- R403: D2 is free while its controller is the master and follows no domain. -/
def cantFree (s : State) : Bool :=
  let src := regF s (canBase (cantCtl s) + 0x30) 6 5
  s.can[cantCtl s].isMaster && (src == 0 || src == 3)

/-- R374: the keeper's D1 has no master while keeper_src is 0. -/
def keeperFree (s : State) : Bool := s.norrak.isKeeper && !regB s 0xA000 1

/-- R49: a domain follows its master. -/
def disciplined (s : State) (d : Dom) : Bool :=
  d != .d0 && regB s (domBase (domCode d)) 0 && !(d == .d2 && cantFree s) && !(d == .d1 && keeperFree s)

/-- R53, R67: slew_ppm as it acts. -/
def cfgPpm (s : State) (d : Dom) : Nat := max 1 (min 100 (regF s (domBase (domCode d)) 15 8))

/-- R47: the nominal update interval of a domain, in LSB. -/
def updInterval (s : State) (d : Dom) : Nat :=
  match d with
  | .d2 => max 100 (regF s (canBase (cantCtl s) + 0x30) 23 8) * usLsb
  | .d3 => match regF s 0x1000 4 2 with
    | 0 => msLsb
    | 1 => 2 * msLsb
    | 2 => 5 * msLsb
    | 3 => 10 * msLsb
    | _ => 100 * msLsb
  | _ => msLsb

/-- R50: a domain's state set, and the change raised. -/
def setDomState (d : Dom) (st : DomState) (s : State) : State :=
  let old := (domRec s.time d).state
  if old = st then s
  else
    let s := setDom s d (fun r => { r with state := st })
    emit { source := 35, sev := if st = .holdover then .warning else .note, idx := domCode d
           payload := b1 (domCode d) ++ b1 (domStateCode old) ++ b1 (domStateCode st)
             ++ sgnBytes 2 (domRec s.time d).phaseErr } s

/-- The domain steps by a number of LSB. -/
def stepDom (d : Dom) (by' : Int) (s : State) : State :=
  setDom s d (fun r => { r with offset := r.offset + BitVec.ofInt 104 (by' * 2 ^ 40) })

/-- R54, R68: a step reported. -/
def reportStep (d : Dom) (by' : Int) (s : State) : State :=
  emit { source := 39, sev := .note, idx := domCode d, payload := b1 (domCode d) ++ sgnBytes 8 by' } s

/-- The TIME_SLEW whose slew runs on a domain. -/
def runningSlew (s : State) (d : Dom) : Option InFlight :=
  s.host.flight.find? (fun f => f.opcode == 0x91 && f.applied.isSome && f.payload.toNat % 256 == domCode d)

/-- R69: what a slew has absorbed, in LSB. -/
def absorbed (r : Domain) : Int := r.slewTotal - slewLeftLsb r

/-- R70: the end of a slew is raised with what it absorbed. -/
def slewEnded (d : Dom) (total : Int) (s : State) : State :=
  emit { source := 38, sev := .note, idx := domCode d, payload := b1 (domCode d) ++ sgnBytes 8 total } s

/-- R51, R68–R70: the slew under way ends and its remainder is discarded; its descriptor completes with SUPERSEDED. -/
def endSlew (d : Dom) (s : State) : State :=
  let r := domRec s.time d
  let s := match runningSlew s d with
    | some f => complete f.id stSuperseded (satS 32 (absorbed r)) 0 f.applied s
    | none => s
  let s := setDom s d (fun r => { r with slewLeft := 0, slewing := false, slewTotal := 0 })
  if r.slewing then slewEnded d (absorbed r) s else s

/-- R55, R67: the rate a domain needs, and whether it is held at the clamp for its master. -/
def rateNeed (r : Domain) : Int := r.freq + sgn r.slewLeft * ppm r.slewPpm
def rateHeld (r : Domain) : Bool := r.rateClamped && decide (rateClamp < (rateNeed r).natAbs)

/-- R540: the state after an update, from the phase error and the consecutive good ones. -/
def afterUpdate (good : Nat) (clamped : Bool) : DomState := if 8 ≤ good ∧ ¬ clamped then .locked else .acquiring

/-- R54: whether an update steps the domain. -/
def mayStep (s : State) (d : Dom) (theta : Int) : Bool :=
  !inUse s d && regB s (domBase (domCode d)) 1 && decide (16000 < theta.natAbs)
    && ((domRec s.time d).state != .locked || decide (1600 < theta.natAbs))

/-- R540: the frequency estimate after an update. -/
def newFreq (s : State) (d : Dom) (theta : Int) : Int :=
  let r := domRec s.time d
  let tu := match r.lastUpdate with
    | some t => max 1 (s.time.now - t)
    | none => updInterval s d
  clampI (-(2 ^ 31)) (2 ^ 31 - 1) (r.freq + clampI (-ppm 1) (ppm 1) (roundDiv (theta * 2 ^ 40) (16 * tu)))

/-- R50–R55, R540: a master update of a disciplined domain. The one that sets an UNSET domain counts as the first good one,
with the phase error 0, and a slew keeps the slew_ppm it started with (log 47). -/
def masterUpdateEff (d : Dom) (master : T64) (s : State) : State :=
  if !disciplined s d then s
  else
    let r := domRec s.time d
    let theta := diff64 master (domNow s d)
    let seen (r : Domain) : Domain := { r with
      lastUpdate := some s.time.now, seen := s.time.now, master := true }
    if r.state = .unset then
      let s := stepDom d theta s
      let s := setDom s d (fun r => { seen r with good := 1, phaseErr := 0 })
      setDomState d .acquiring s
    else
      let s := if (runningSlew s d).isSome then endSlew d s else s
      let fresh := r.state = .free || r.state = .holdover
      let good := if theta.natAbs ≤ 1600 then min 8 ((if fresh then 0 else r.good) + 1) else 0
      let s := setDom s d (fun r => { r with phaseErr := satS 16 theta |> max (-32767) })
      if mayStep s d theta then
        let s := stepDom d theta (if r.slewing then endSlew d s else s)
        let s := setDom s d (fun r => { seen r with good := 0, slewLeft := 0, slewing := false, rateClamped := false })
        reportStep d theta (setDomState d .acquiring s)
      else
        let freq := newFreq s d theta
        let need := freq + sgn theta * ppm (cfgPpm s d)
        let clamped := decide (rateClamp < need.natAbs)
        let was := rateHeld r
        let s := setDom s d (fun r => { seen r with
          good := good, freq := freq, slewLeft := theta * 2 ^ 40, slewPpm := cfgPpm s d, slewTotal := theta
          slewing := theta != 0, rateClamped := clamped })
        let s := setDomState d (afterUpdate good clamped) s
        if clamped && !was then
          emit { source := 37, sev := .warning, idx := domCode d
                 payload := b1 (domCode d) ++ sgnBytes 4 need } s
        else s

/-- R51: the master is missing. -/
def holdoverEff (d : Dom) (s : State) : State :=
  let r := domRec s.time d
  let loss := max 1 (regF s (domBase (domCode d)) 7 4)
  if disciplined s d && (r.state == .acquiring || r.state == .locked)
      && decide (r.seen + loss * updInterval s d ≤ s.time.now) then
    let s := setDom (endSlew d s) d (fun r => { r with
      master := false, lastUpdate := none, good := 0, rateClamped := false
      holdSince := s.time.now, holdReported := false })
    setDomState d .holdover s
  else s

/-- R67: TIME_Dn_HOLD_MS. -/
def holdMs (s : State) (d : Dom) : Nat :=
  let r := domRec s.time d
  if r.state = .holdover then min ((s.time.now - r.holdSince) / msLsb) (2 ^ 32 - 1) else 0

/-- R51: HOLDOVER has lasted holdover_limit. -/
def holdoverLimitEff (d : Dom) (s : State) : State :=
  let r := domRec s.time d
  let lim := regF s (domBase (domCode d)) 31 16
  if d != .d0 && r.state == .holdover && !r.holdReported && lim != 0
      && decide (r.holdSince + lim * 100 * msLsb ≤ s.time.now) then
    let s := setDom s d (fun r => { r with holdReported := true })
    emit { source := 36, sev := .warning, idx := domCode d
           payload := b1 (domCode d) ++ leBytes 4 (holdMs s d) } s
  else s

/-- R69, R70: a slew has absorbed its correction. -/
def slewDoneEff (d : Dom) (s : State) : State :=
  let r := domRec s.time d
  if r.slewing && r.slewLeft == 0 then
    let total := r.slewTotal
    let s := match runningSlew s d with
      | some f => complete f.id stOK (satS 32 total) 0 f.applied s
      | none => s
    slewEnded d total (setDom s d (fun r => { r with slewing := false }))
  else s

/-- R50, R51: a domain that followed its master runs on at its last frequency estimate. -/
def freeDom (d : Dom) (s : State) : State :=
  let st := (domRec s.time d).state
  if st = .acquiring ∨ st = .locked ∨ st = .holdover then
    let s := setDom (endSlew d s) d (fun r => { r with master := false, rateClamped := false })
    setDomState d .free s
  else s

/-- R49, R51: a domain begins, or ceases, to follow a master. `was`: it followed one before. -/
def reDiscipline (d : Dom) (was : Bool) (s : State) : State :=
  let is' := disciplined s d
  if is' && !was then
    let s := if (domRec s.time d).slewing then endSlew d s else s
    setDom s d (fun r => { r with master := false, lastUpdate := none, good := 0 })
  else if was && !is' then freeDom d s
  else s

/-- R50, R51, R69: a write of TIME_Dn_CFG. -/
def disciplineWriteEff (d : Dom) (value : Word) (s : State) : State :=
  if d = .d0 then s
  else
    let was := disciplined s d
    reDiscipline d was (writeRw s (domBase (domCode d)) value.toNat)

end Sys2Proof.Machine
end

