-- ==== Sys2Proof/Machine/Desc.lean ====
section
/-!
DEFINITION. What every descriptor shares: the fields of its payload, the order of its checks (R88), the choice of its
sample (R57, R60) and of its update point (R89); and TIME_SET and TIME_SLEW (R68, R69).
-/

namespace Sys2Proof.Machine

/-! ### Payload fields (R86: the payload is bytes 16 to 63) -/

/-- The `n` bytes at descriptor offset `off`. -/
def pU (p : BitVec 384) (off n : Nat) : Nat := bits p.toNat (8 * (off - 16 + n) - 1) (8 * (off - 16))

/-- The `n` bytes at descriptor offset `off`, signed. -/
def pS (p : BitVec 384) (off n : Nat) : Int := sext (8 * n) (pU p off n)

/-- The bytes at descriptor offset `off`. -/
def pBytes (p : BitVec 384) (off n : Nat) : List Byte := leBytes n (pU p off n)

/-- R88: a check and the rejection it gives: whether it fails, status and detail. -/
abbrev Check := Bool × Nat × Int

/-- R88: the first check that fails sets the status. R94: the detail of a bad payload field is the first such byte, whatever
the order of the checks. -/
def firstFail (cs : List Check) : Option (Nat × Int) :=
  match cs.filter (fun c => c.1) with
  | [] => none
  | (_, st, d) :: rest =>
    if st = stPayload ∨ st = stReserved then
      some (st, (rest.takeWhile (fun c => c.2.1 == st)).foldl (fun m c => min m c.2.2) d)
    else some (st, d)

/-- R88: a payload field outside its range, with the offset of its first byte. -/
def inval (failed : Bool) (off : Nat) : Check := (failed, stPayload, off)

/-- R94: reserved payload bytes `lo` to `hi` must be zero; the detail is the first that is not. -/
def resv (p : BitVec 384) (lo hi : Nat) : Check :=
  match (List.range (hi + 1 - lo)).find? (fun i => pU p (lo + i) 1 != 0) with
  | some i => (true, stReserved, lo + i)
  | none => (false, stReserved, 0)

/-- R94: a state of the target that does not permit the opcode. -/
def denied (failed : Bool) (detail : Int) : Check := (failed, stState, detail)

/-- R91: the bytes of a host buffer that arrived. -/
def bufData (f : InFlight) : List Byte := f.buf.data

/-- R91: the transfer of the host buffer failed. -/
def bufFailed (f : InFlight) (len : Nat) : Check := (!f.buf.ok || decide (f.buf.data.length < len), stBufferDma,
  min f.buf.data.length len)

/-- R124: bytes written to the service data area from an offset of space 1 on. -/
def svcPut (a : Nat) (bs : List Byte) (s : State) : State :=
  { s with svc := { s.svc with data := (bs.zipIdx).foldl (fun d (b, i) =>
      let o := a - 0x1000 + i
      cellPut zero0 d (o / 4) (putBits (cellGet zero0 d (o / 4)) (8 * (o % 4) + 7) (8 * (o % 4)) b.toNat)) s.svc.data } }

/-- R383: bytes written into a data area of fixed length from an offset on. -/
def areaPut (area : List Byte) (a : Nat) (bs : List Byte) : List Byte :=
  if area.length ≤ a then area else (area.take a ++ bs ++ area.drop (a + bs.length)).take area.length

/-- R91, R124, R383: bytes written to the host buffer of a descriptor; of a service descriptor, to the service data area; of an inner
descriptor, to the data area of its tunnel. -/
def hostWrite (f : InFlight) (addr : Nat) (bs : List Byte) (s : State) : State :=
  match f.src with
  | .svc => svcPut addr bs s
  | .tunnel => { s with norrak := { s.norrak with tunnelsIn := s.norrak.tunnelsIn.map (fun t =>
      if t.ids.contains f.id then { t with data := areaPut t.data addr bs } else t) } }
  | .sq _ => { s with out := s.out ++ [.buffer (BitVec.ofNat 64 addr) bs] }

/-! ### Samples and update points -/

/-- R57: the first instant at or after `t` on the grid of period `P` and phase `φ`, domain times being read unsigned: the
grid starts again where the domain rolls over. -/
def gridAt (P φ : Nat) (t : T64) : T64 :=
  let x : Int := t.toNat + ((φ : Int) - t.toNat) % (max 1 P : Nat)
  if x < 2 ^ 64 then BitVec.ofInt 64 x else BitVec.ofNat 64 φ

/-- R57: of the instants `next + k·P`, the first at or after `t`. -/
def sampleFrom (next : T64) (P : Nat) (t : T64) : T64 :=
  let d := diff64 t next
  if d ≤ 0 then next else next + BitVec.ofNat 64 ((d.toNat + P - 1) / P * P)

/-- The later of two instants of a domain (R60). -/
def laterT (a b : T64) : T64 := if diff64 a b < 0 then b else a

/-- R60, R89: 2.0 µs. -/
def guard2 : Nat := 32000

/-- R60: the first instant of a domain at which a descriptor accepted now may take effect. -/
def earliest (s : State) (d : Dom) (apply : Option Stamp) : T64 :=
  let g := fromD0 s d ((s.time.now + guard2 : Nat) : Int)
  match apply with
  | none => g
  | some a => if a.t = 0 then g else laterT (if a.dom = d then a.t else fromD0 s d (toD0 s a)) g

/-- R89: whether a descriptor that waits for an update point may take effect now. -/
def updateReady (s : State) (f : InFlight) : Bool :=
  f.applied.isNone && (match f.due with
    | .update a nb => decide (nb ≤ s.time.now) && (match a with
        | some x => x.t == 0 || reached s x
        | none => true)
    | _ => false)

/-- R97: the descriptors that a test picks and that may take effect at this update point, by acceptance. -/
def readyNow (s : State) (p : InFlight → Bool) : List InFlight :=
  s.host.flight.filter (fun f => updateReady s f && p f)

/-- The D0 instant of now as a stamp. -/
def nowStamp (s : State) : Stamp := ⟨.d0, BitVec.ofNat 64 s.time.now⟩

/-! ### Pair groups where they take effect (R98) -/

/-- R98: the rejection that one step gave a descriptor; a failed transfer and a memory error reject nothing. -/
def rejection (s : State) (id : Nat) : Option (Nat × Int) :=
  match s.host.done.find? (fun c => c.id == id) with
  | some c =>
    let st := c.status.toNat
    if 0x20 ≤ st ∧ st ≠ stBufferDma ∧ st ≠ stUncorrectable then some (st, c.detail.toInt) else none
  | none => none

/-- One descriptor takes effect, while it is still in flight. -/
def takeOne (now : InFlight → State → State) (s : State) (f : InFlight) : State :=
  match flightOf s f.id with
  | some g => now g s
  | none => s

/-- R98: the members of a group break: the failing member is rejected, every other one completes with PAIR_BROKEN. -/
def breakGroup (ms : List InFlight) (bad i status : Nat) (detail : Int) (s : State) : State :=
  ms.foldl (fun s m => if m.id = bad then reject m.id status detail s else reject m.id stPairBroken i s) s

/-- R98: the members of a group take effect together, or none does. -/
def takeGroup (now : InFlight → State → State) (ms : List InFlight) (s : State) : State :=
  let t := ms.foldl (takeOne now) s
  let bad := (ms.zipIdx).find? (fun (m, _) => (rejection t m.id).isSome)
  match bad with
  | none => t
  | some (m, i) =>
    match rejection t m.id with
    | some (st, d) => if ms.length ≤ 1 then t else breakGroup ms m.id ((m.group.map (fun g => g.2)).getD i) st d s
    | none => t

/-- R89: whether a descriptor may take effect at an update point that lies at a D0 instant. -/
def updateReadyAt (s : State) (at' : Int) (f : InFlight) : Bool :=
  f.applied.isNone && (match f.due with
    | .update a nb => decide ((nb : Int) ≤ at') && (match a with
        | some x => x.t == 0 || decide (toD0 s x ≤ at')
        | none => true)
    | _ => false)

/-- R97, R98: descriptors that take effect at one instant, in order of acceptance, groups as one. -/
def takeAllN (now : InFlight → State → State) : Nat → List InFlight → State → State
  | 0, _, s => s
  | _, [], s => s
  | n + 1, f :: fs, s =>
    match f.group with
    | none => takeAllN now n fs (takeOne now s f)
    | some (g, _) =>
      let mine (x : InFlight) : Bool := (x.group.map (fun y => y.1)) == some g
      takeAllN now n (fs.filter (fun x => !mine x)) (takeGroup now (f :: fs.filter mine) s)

/-- R97, R98: the descriptors of a list take effect. -/
def takeAll (now : InFlight → State → State) (fs : List InFlight) (s : State) : State := takeAllN now fs.length fs s

/-- R92: a descriptor has taken effect at an instant and its completion comes later. -/
def takesEffect (id : Nat) (at' : Stamp) (s : State) : State :=
  modFlight s id (fun f => { f with applied := some at', due := .running })

/-! ### TIME_SET and TIME_SLEW (R68, R69) -/

/-- The domain a TIME_SET or TIME_SLEW names. -/
def timeTarget (f : InFlight) : Dom := domOf (pU f.payload 16 1)

/-- R68, R69: the checks both share. -/
def timeFieldChecks (p : BitVec 384) : List Check :=
  [resv p 18 23, resv p 37 63, inval (decide (3 < pU p 16 1)) 16]

/-- R68: the checks of TIME_SET. -/
def timeSetCheck (f : InFlight) (s : State) : Option (Nat × Int) :=
  let p := f.payload
  let d := timeTarget f
  firstFail (timeFieldChecks p ++ [inval (decide (1 < pU p 17 1)) 17, inval (decide (1 < pU p 36 1)) 36,
    (d == .d0, stDomFixed, 0), (disciplined s d, stDomDisc, domCode d), (inUse s d, stDomInUse, domCode d)])

/-- R68: TIME_SET takes effect on its domain. -/
def timeSetNow (f : InFlight) (s : State) : State :=
  let p := f.payload
  let d := timeTarget f
  let v := pU p 24 8
  let by' := if pU p 17 1 = 1 then sext 64 v else diff64 (BitVec.ofNat 64 v) (domNow s d)
  let s := endSlew d s
  let s := stepDom d by' s
  let s := if bit (pU p 36 1) 0 then setDom s d (fun r => { r with freq := pS p 32 4 }) else s
  let s := if (domRec s.time d).state = .unset then setDomState d .free s else s
  let s := reportStep d by' s
  completeOk f.id (some (nowStamp s)) s

/-- R68: at the apply time the conditions are checked again. -/
def timeSetApplyOne (f : InFlight) (s : State) : State :=
  let d := timeTarget f
  if disciplined s d then complete f.id stDomDisc 0 (domCode d) none s
  else if inUse s d then complete f.id stDomInUse 0 (domCode d) none s
  else timeSetNow f s


/-- R69: the checks of TIME_SLEW. -/
def timeSlewCheck (f : InFlight) (s : State) : Option (Nat × Int) :=
  let p := f.payload
  let d := timeTarget f
  let step := (pS p 32 4 - rateOf s d).natAbs
  firstFail (timeFieldChecks p ++ [inval (decide (100 < pU p 17 1)) 17, inval (decide (1 < pU p 36 1)) 36,
    (d == .d0, stDomFixed, 0), (disciplined s d, stDomDisc, domCode d),
    (inUse s d && bit (pU p 36 1) 0 && decide (ppm 10 < step), stRateStep, 0)])

/-- R69: a TIME_SLEW starts slewing and replaces what remains of an earlier slew; on a domain that has come to be
disciplined it is rejected, as a TIME_SET is. -/
def timeSlewNow (f : InFlight) (s : State) : State :=
  if disciplined s (timeTarget f) then complete f.id stDomDisc 0 (domCode (timeTarget f)) none s else
  let p := f.payload
  let d := timeTarget f
  let s := endSlew d s
  let ppm' := if pU p 17 1 = 0 then cfgPpm s d else pU p 17 1
  let c := pS p 24 8
  let s := setDom s d (fun r => { r with
    freq := if bit (pU p 36 1) 0 then pS p 32 4 else r.freq
    slewLeft := c * 2 ^ 40, slewPpm := ppm', slewing := true, slewTotal := c })
  takesEffect f.id (nowStamp s) s

/-- R68, R69: a TIME_SET or TIME_SLEW whose apply time has come. -/
def timeNow (f : InFlight) (s : State) : State := if f.opcode = 0x90 then timeSetApplyOne f s else timeSlewNow f s

/-- R68, R69, R98: the descriptors of an opcode on a domain whose apply time has come, with the TIME_SETs and TIME_SLEWs that form
groups with them. -/
def timeReady (op : Byte) (d : Dom) (s : State) : List InFlight :=
  let picked (f : InFlight) : Bool := f.opcode == op && timeTarget f == d
  let groups := ((readyNow s picked).filterMap (fun f => f.group)).map (fun g => g.1)
  readyNow s (fun f => (f.opcode == 0x90 || f.opcode == 0x91)
    && (picked f || (f.group.map (fun g => groups.contains g.1)).getD false))

/-- R68: the TIME_SETs of a domain whose apply time has come. -/
def timeSetApplyEff (d : Dom) (s : State) : State := takeAll timeNow (timeReady 0x90 d s) s

/-- R69: the TIME_SLEWs of a domain whose apply time has come. -/
def timeSlewApplyEff (d : Dom) (s : State) : State := takeAll timeNow (timeReady 0x91 d s) s

end Sys2Proof.Machine
end

