-- ==== Sys2Proof/Machine/Check.lean ====
section
/-!
DEFINITION. The general check-value units (16): the computation (R432), what they do to the blocks of the streams they serve
(R433–R436), and CHECK_CONTEXT (R437).
-/

namespace Sys2Proof.Machine

/-- The lowest `w` bits of a value, mirrored. -/
def reflect (w x : Nat) : Nat := (List.range w).foldl (fun acc i => acc * 2 + x / 2 ^ i % 2) 0

/-- R432: one byte of a block. -/
def checkByte (w poly : Nat) (refin : Bool) (r : Nat) (b : Byte) : Nat :=
  let b := if refin then reflect 8 b.toNat else b.toNat
  [7, 6, 5, 4, 3, 2, 1, 0].foldl (fun r i =>
    let top := (r / 2 ^ (w - 1) + b / 2 ^ i) % 2
    let r := r * 2 % 2 ^ w
    if top = 1 then r ^^^ poly else r) r

/-- R432: the running value at the end of a block, from the one at its start. -/
def checkRun (w poly : Nat) (refin : Bool) (r : Nat) (bs : List Byte) : Nat := bs.foldl (checkByte w poly refin) r

/-- R439: fields of a unit's configuration. -/
def chkOn (s : State) (u : Fin 8) : Bool := regB s (chkBase u) 0
def chkWidth (s : State) (u : Fin 8) : Nat := regF s (chkBase u) 5 1 + 1
def chkMode (cfg : Nat) : Nat := if bits cfg 17 16 = 3 then 0 else bits cfg 17 16

/-- R434: the length of the check field. -/
def chkLen (s : State) (u : Fin 8) : Nat := (chkWidth s u + 7) / 8

/-- A unit changed. -/
def modCheck (s : State) (u : Fin 8) (f : CheckUnit → CheckUnit) : State := { s with check := upd s.check u f }

/-- R432: a block over its bytes: the result is stored and answered. -/
def chkBlock (u : Fin 8) (bs : List Byte) (s : State) : Nat × State :=
  let b := chkBase u
  let w := chkWidth s u
  let m := 2 ^ w
  let start := if regB s b 18 then reg s (b + 0x10) % m else reg s (b + 8) % m
  let r := checkRun w (reg s (b + 4) % m) (regB s b 6) start bs
  let result := (if regB s b 7 then reflect w r else r) ^^^ (reg s (b + 0xC) % m)
  let s := setReg s (b + 0x10) r
  (result, modCheck s u (fun x => { x with last := BitVec.ofNat 32 result, blocks := x.blocks + 1 }))

/-- R22, R433: the units in service enabled on a stream and direction. -/
def chkUnits (s : State) (source index dir : Nat) : List (Fin 8) :=
  (List.finRange 8).filter (fun u =>
    let b := chkBase u
    chkOn s u && !isolated s (.check u) && regF s b 10 8 == source && regF s b 14 11 == index && regF s b 15 15 == dir)

/-- R433, R434: the observing units of a stream take a block. -/
def chkObserve (source index dir : Nat) (bs : List Byte) (s : State) : State :=
  (chkUnits s source index dir).foldl (fun s (u : Fin 8) =>
    if chkMode (reg s (chkBase u)) = 0 then (chkBlock u bs s).2 else s) s

/-- R436: the unit that serves a stream in append or check mode. -/
def chkServes (s : State) (source index dir : Nat) : Option (Fin 8) :=
  (chkUnits s source index dir).find? (fun u => chkMode (reg s (chkBase u)) != 0)

/-- R434: the check field of a result. -/
def chkField (s : State) (u : Fin 8) (result : Nat) : List Byte :=
  let f := leBytes (chkLen s u) result
  if regB s (chkBase u) 19 then f else f.reverse

/-- R434: the bytes that a check field adds to an outgoing block of a signature link. -/
def appendLen (s : State) (source index : Nat) : Nat := ((chkServes s source index 0).map (chkLen s)).getD 0

/-- R434: an outgoing block of a signature link, with the check field after it where a unit appends one. -/
def chkOutgoing (index : Nat) (bs : List Byte) (s : State) : List Byte × State :=
  let s := chkObserve 2 index 0 bs s
  match chkServes s 2 index 0 with
  | some u =>
    let (r, s) := chkBlock u bs s
    (bs ++ chkField s u r, s)
  | none => (bs, s)

/-- R434: an outgoing data field of a CAN controller, its last bytes overwritten where a unit appends. -/
def chkOutgoingCan (index : Nat) (bs : List Byte) (s : State) : List Byte × State :=
  let (bs, s) := match chkServes s 4 index 0 with
    | some u =>
      let n := bs.length - chkLen s u
      let (r, s) := chkBlock u (bs.take n) s
      ((bs.take n ++ chkField s u r).take bs.length, s)
    | none => (bs, s)
  (bs, chkObserve 4 index 0 bs s)

/-- R434, R435: an incoming block: the unit whose comparison failed, and the length of its check field. -/
def chkIncoming (source index : Nat) (bs : List Byte) (s : State) : Option (Fin 8) × Nat × State :=
  let s := chkObserve source index 1 bs s
  match chkServes s source index 1 with
  | some u =>
    let k := chkLen s u
    let n := bs.length - k
    let (r, s) := chkBlock u (bs.take n) s
    let got := bs.drop n
    if k ≤ bs.length && got == chkField s u r then (none, k, s)
    else
      let field := if regB s (chkBase u) 19 then ofLe got else ofBe got
      let s := modCheck s u (fun x => { x with mismatch := x.mismatch + 1 })
      (some u, k, emitLim msLsb 0 (fun held => { source := 208 + u.val, sev := .warning, code := 1, idx := source
                                                 payload := b1 1 ++ b1 source ++ b1 index ++ leBytes 4 r
                                                   ++ leBytes 4 field ++ cnt1 held }) s)
  | none => (none, 0, s)

/-! ### Set-up (R436, R439) -/

/-- R433, R436: the range of the index of a source. -/
def chkIndexOk (source index : Nat) : Bool :=
  match source with
  | 1 | 5 | 6 => index == 0
  | 2 => decide (index < 12)
  | 3 | 4 => decide (index < 2)
  | _ => false

/-- R436: whether a configuration cannot be enabled. -/
def chkBad (s : State) (u : Fin 8) (cfg : Nat) : Bool :=
  let source := bits cfg 10 8
  let index := bits cfg 14 11
  let dir := bits cfg 15 15
  let mode := chkMode cfg
  !chkIndexOk source index
    || (mode == 1 && !((source == 2 || source == 4) && dir == 0))
    || (mode == 2 && !((source == 2 || source == 4) && dir == 1))
    || (mode != 0 && (match chkServes s source index dir with
      | some v => v != u
      | none => false))

/-- R436, R439: a write of CHK_u_CFG. -/
def chkCfgWrite (u : Fin 8) (v : Nat) (s : State) : State :=
  let b := chkBase u
  if chkOn s u then
    if bit v 0 then s else modCheck (setReg s b (putBits (reg s b) 0 0 0)) u (fun x => { x with cfgBad := false })
  else if bit v 0 && chkBad s u v then
    let s := modCheck (writeRw s b (putBits v 0 0 0)) u (fun x => { x with cfgBad := true })
    emit { source := 208 + u.val, sev := .warning, code := 2, payload := b1 2 ++ leBytes 4 v } s
  else modCheck (writeRw s b v) u (fun x => { x with cfgBad := false })

/-- R439: a write of a register of unit `u` at relative offset `r`. -/
def chkRegWrite (u : Fin 8) (r v : Nat) (s : State) : State :=
  if r = 0 then chkCfgWrite u v s
  else if chkOn s u then s
  else writeRw s (chkBase u + r) v

/-! ### CHECK_CONTEXT (R437) -/

/-- The unit a descriptor names. -/
def chkT (f : InFlight) : Fin 8 := Fin.ofNat 8 f.target.idx

/-- R437: the checks of CHECK_CONTEXT. -/
def contextCheck (f : InFlight) (s : State) : Option (Nat × Int) :=
  let p := f.payload
  let op := pU p 16 1
  firstFail [resv p 17 19, resv p 24 63, inval (decide (2 < op)) 16,
    inval (op != 0 && decide (2 ^ chkWidth s (chkT f) ≤ pU p 20 4)) 20]

/-- R437: CHECK_CONTEXT: the result is the running value before it. -/
def contextNow (f : InFlight) (s : State) : State :=
  let u := chkT f
  let o := chkBase u + 0x10
  let old := reg s o
  let s := if pU f.payload 16 1 = 0 then s else setReg s o (pU f.payload 20 4)
  complete f.id stOK old 0 (some (nowStamp s)) s

end Sys2Proof.Machine
end

