-- ==== Sys2Proof/Machine/Crc.lean ====
section
/-!
DEFINITION. Packed words, and the reflected 32-bit check values: CRC-32C of the Norrak ring (R366) and CRC-32 of the stored records (R438).
-/

namespace Sys2Proof.Machine

/-- A word made of fields, each its highest bit, its lowest bit and its value. -/
def packBits (fields : List (Nat × Nat × Nat)) : Nat :=
  fields.foldl (fun acc f => acc + f.2.2 % 2 ^ (f.1 + 1 - f.2.1) * 2 ^ f.2.1) 0

/-- One byte of a reflected 32-bit CRC; `poly` is the polynomial with its bits reversed. -/
def crcLow (poly c : Nat) (b : Byte) : Nat :=
  (List.range 8).foldl (fun c _ => if c % 2 = 1 then c / 2 ^^^ poly else c / 2) (c ^^^ b.toNat)

/-- A reflected 32-bit CRC with initial value and final XOR of all ones. -/
def crc32r (poly : Nat) (bs : List Byte) : Nat := bs.foldl (crcLow poly) 0xFFFFFFFF ^^^ 0xFFFFFFFF

/-- R366: CRC-32C, polynomial 0x1EDC6F41. -/
def crc32c (bs : List Byte) : Nat := crc32r 0x82F63B78 bs

/-- R438: CRC-32, polynomial 0x04C11DB7. -/
def crc32 (bs : List Byte) : Nat := crc32r 0xEDB88320 bs

end Sys2Proof.Machine
end

