-- ==== Sys2Proof/Machine/Power.lean ====
section
/-!
DEFINITION. Local power outputs (12): carriers and reloads (R348–R350), shadow writes (R352), POWER_SET and POWER_FORCE
(R353, R354, R358), adaptive dead time (R355), bootstrap refresh (R356), trips (R357) and Hall block commutation
(R360, R361).
-/

namespace Sys2Proof.Machine

/-- The POWER block changed. -/
def modPower (s : State) (f : PowerSt → PowerSt) : State := { s with power := f s.power }

/-- A channel changed. -/
def modCh (s : State) (c : Fin 3) (f : Channel → Channel) : State :=
  modPower s (fun p => { p with ch := upd p.ch c f })

/-- A trip changed. -/
def modTrip (s : State) (t : Fin 2) (f : TripSt → TripSt) : State :=
  modPower s (fun p => { p with trips := upd p.trips t f })

/-! ### Set-up -/

/-- R348, R362: POWER_CFG.mode as it acts. -/
def powMode (s : State) : Nat := let m := regF s 0x9000 1 0; if m = 3 then 0 else m

/-- R362: the carrier domain. -/
def powDom (s : State) : Dom := domOf (regF s 0x9000 4 3)

/-- R351: the band slot to which a channel is bound. -/
def boundSlot (s : State) (c : Fin 3) : Option (Fin 32) :=
  (List.finRange 32).find? (fun n =>
    match s.axis.slots[n].bind with
    | some b => b.kind == .band && (b.bandDst == 0 || b.bandDst == c.val + 1)
    | none => false)

/-- R351: whether a channel is enabled. -/
def chEnabled (s : State) (c : Fin 3) : Bool :=
  match boundSlot s c with
  | some n => s.axis.slots[n].mode != .off
  | none => s.power.ch[c].enabled

/-- R349: the period in force of a channel's carrier. -/
def chPeriod (s : State) (c : Fin 3) : Nat :=
  if powMode s = 0 then s.power.ch[c].period else s.power.ch[0].period

/-- R349: the phase of a channel's carrier. -/
def chPhase (s : State) (c : Fin 3) : Nat :=
  if powMode s = 0 then s.power.ch[c].phase else s.power.ch[0].phase

/-- The placers of a channel's gates. -/
def gateH (c : Fin 3) : Fin 12 := ⟨2 * c.val, by omega⟩
def gateL (c : Fin 3) : Fin 12 := ⟨2 * c.val + 1, by omega⟩

/-- R355: the dead times of a channel in LSB: units of 250 ps are 4 LSB. -/
def dtLsb (d : DeadTime) : Nat := 4 * d.d

/-- R357: whether a trip holds a gate low. -/
def tripHolds (s : State) (gate : Nat) : Bool :=
  (List.finRange 2).any (fun t => s.power.trips[t].holding && regB s (0x9020 + 4 * t) gate)

/-! ### The gates of a period -/

/-- R360: what a phase does in block commutation. -/
inductive PhaseRole where
  | pwm | low | floating
  deriving DecidableEq, Repr

/-- R360: the pattern index. -/
def commIndex (s : State) (sector : Fin 6) : Nat :=
  let off := min 5 (regF s 0x9000 7 5)
  (sector.val + off + (if regB s 0x9000 8 then 3 else 0)) % 6

/-- R360: the PWM and the low phase of a pattern. -/
def commPhases (i : Nat) : Nat × Nat :=
  match i with
  | 0 => (0, 1) | 1 => (0, 2) | 2 => (1, 2) | 3 => (1, 0) | 4 => (2, 0) | _ => (2, 1)

/-- R360: the role of a channel. -/
def roleOf (s : State) (c : Fin 3) : PhaseRole :=
  if powMode s ≠ 2 then .pwm
  else if s.power.hallLost then .floating
  else match s.power.sector with
    | some k =>
      let (p, l) := commPhases (commIndex s k)
      if c.val = p then .pwm else if c.val = l then .low else .floating
    | none => .floating

/-- The edges of a gate as offsets from the reload, in order. -/
abbrev Wave := List (Int × Bool)

/-- R350: the PWM edges of a channel for a period: of the high and of the low gate. `refresh`: R356. -/
def pwmWave (P duty : Nat) (centre refresh : Bool) (bootLsb lh hl : Int) : Wave × Wave :=
  if duty = 0 then ([(0, false)], [(hl, true)])
  else if duty = 0xFFFF then
    if refresh then ([(0, false), (bootLsb + lh, true)], [(hl, true), (bootLsb, false)])
    else ([(lh, true)], [(0, false)])
  else
    let rise : Int := if centre then (65536 - duty) * P / 131072 else 0
    let fall : Int := if centre then (65536 + duty) * P / 131072 else duty * P / 65536
    let high : Wave := (if rise + lh < fall then [(rise + lh, true)] else []) ++ [(fall, false)]
    ((if centre then (0, false) :: high else high),
      (if centre then [(hl, true), (rise, false), (fall + hl, true)] else [(rise, false), (fall + hl, true)]))

/-- R358: forces over commutation and PWM, and trips and disabling over forces. -/
def chanWave (s : State) (c : Fin 3) (refresh : Bool) : Wave × Wave :=
  let ch := s.power.ch[c]
  let lh : Int := dtLsb ch.lh
  let hl : Int := dtLsb ch.hl
  let duty := if powMode s = 2 then s.power.ch[0].duty else ch.duty
  let boot : Int := (max 100 (min 5000 (regF s 0x900C 20 8)) * nsLsb : Nat)
  let off : Wave := [(0, false)]
  let (h, l) := match roleOf s c with
    | .pwm => pwmWave (chPeriod s c) duty (regB s 0x9000 2) refresh boot lh hl
    | .low => (off, [(hl, true)])
    | .floating => (off, off)
  let l := if powMode s = 2 ∧ roleOf s c = .pwm ∧ ¬ regB s 0x9000 9 ∧ ¬ refresh then off else l
  let (h, l) := match ch.forceH with
    | .none => (h, l)
    | .low => (off, l)
    | .high => ([(lh, true)], off)
  let (h, l) := match ch.forceL with
    | .none => (h, l)
    | .low => (h, off)
    | .high => (off, [(hl, true)])
  let on := chEnabled s c
  (if on && !tripHolds s (2 * c) then h else off, if on && !tripHolds s (2 * c + 1) then l else off)

/-- The level a placer will have after its queue. -/
def finalLevel (s : State) (p : Fin 12) : Bool :=
  match lastEdgeOf s p with
  | some e => e.level
  | none => s.time.placers[p].level

/-- A gate edge, unless the gate has that level already. A turn-off edge withdraws the turn-on edges due from it on: the
gate is to be off by then (R350, R358). -/
def putGate (c : Fin 3) (p : Fin 12) (d : Dom) (tr : T64) (e : Int × Bool) (s : State) : State :=
  let t0 := toD0 s ⟨d, tr⟩ + e.1
  let s := if e.2 then s else keepEdges p (fun x => !(x.level && decide (t0 ≤ edgeDue s x))) s
  if finalLevel s p = e.2 then s
  else putEdge p { target := tr + BitVec.ofInt 64 e.1, dom := d, level := e.2, owner := .power c } true s

/-- R355: a turn-off edge awaits its node crossing; one that has had none counts as without a sample. -/
def awaitCross (tOff : Nat) (init : Nat) (d : DeadTime) : DeadTime :=
  let d := match d.tOff with
    | some _ => { d with without := d.without + 1 }
    | none => d
  let d := if 64 < d.without ∧ (d.without - 64) % 8 = 0 then
      { d with d := if d.d < init then min init (d.d + 4) else max init (d.d - 4) }
    else d
  { d with tOff := some tOff }

/-- The first edge of a wave at which a gate turns off, from the level it has before it. -/
def turnOff : Bool → Wave → Option Int
  | _, [] => none
  | level, (t, on) :: w => if level ∧ ¬ on then some t else turnOff on w

/-- The gate edges of a period queued (R350, R359), and the turn-off edges noted for the dead times (R355). -/
def queuePeriod (c : Fin 3) (tr : T64) (refresh : Bool) (s : State) : State :=
  let d := powDom s
  let (h, l) := chanWave s c refresh
  let init := regF s (chBase c + 0x0C) 29 20
  let t0 := toD0 s ⟨d, tr⟩
  let offL := turnOff (finalLevel s (gateL c)) l
  let offH := turnOff (finalLevel s (gateH c)) h
  let s := l.foldl (fun s e => putGate c (gateL c) d tr e s) s
  let s := h.foldl (fun s e => putGate c (gateH c) d tr e s) s
  let rises := h.any (fun e => e.2)
  let falls := l.any (fun e => e.2)
  let s := match offL with
    | some t => if rises then modCh s c (fun ch => { ch with lh := awaitCross (t0 + t).toNat init ch.lh }) else s
    | none => s
  match offH with
    | some t => if falls then modCh s c (fun ch => { ch with hl := awaitCross (t0 + t).toNat init ch.hl }) else s
    | none => s

/-- Both gates of a channel low at once, and nothing more queued. -/
def gatesLow (c : Fin 3) (s : State) : State :=
  [gateH c, gateL c].foldl (fun s p =>
    let s := keepEdges p (fun _ => false) s
    if s.time.placers[p].level then driveNow p false s else s) s

/-! ### Force codes -/

/-- R358: a force code. -/
def forceOf (c : Nat) : Force := match c with
  | 1 => .low | 2 => .high | _ => .none

def forceCode : Force → Nat
  | .none => 0 | .low => 1 | .high => 2

/-- The twelve bits of the force codes in force. -/
def forceBits (s : State) : Nat :=
  word ((List.finRange 3).flatMap (fun c =>
    [(forceCode s.power.ch[c].forceH, 4 * c.val, 2), (forceCode s.power.ch[c].forceL, 4 * c.val + 2, 2)]))

/-- R358: a write of POWER_FORCE: code 3 leaves a code, and 2 on both gates of a channel changes nothing. -/
def powerForceWriteEff (value : Word) (s : State) : State :=
  (List.finRange 3).foldl (fun s (c : Fin 3) =>
    let now := reg s 0x9008
    let pick (i : Nat) : Nat := let v := bits value.toNat (i + 1) i; if v = 3 then bits now (i + 1) i else v
    let h := pick (4 * c)
    let l := pick (4 * c + 2)
    if h = 2 ∧ l = 2 then emit { source := 149, sev := .warning, idx := c, payload := b1 c } s
    else
      let s := setReg s 0x9008 (putBits (putBits now (4 * c + 1) (4 * c) h) (4 * c + 3) (4 * c + 2) l)
      modCh s c (fun ch => { ch with
        shadow := ch.shadow ++ [{ stamp := s.time.now, forceH := some (forceOf h), forceL := some (forceOf l) }] })) s

/-! ### Trips -/

/-- R357: a trip acts: its gates go low and their turn-on edges are withdrawn. -/
def tripActs (t : Fin 2) (stamp : Nat) (s : State) : State :=
  let map := regF s (0x9020 + 4 * t) 5 0
  let s := modTrip s t (fun x => { x with
    holding := true, latched := x.latched || !regB s (0x9020 + 4 * t) 6, waiting := none, clearing := false })
  let s := (maskBits 6 map).foldl (fun s g =>
    let p : Fin 12 := Fin.ofNat 12 g
    let s := keepEdges p (fun _ => false) s
    if s.time.placers[p].level then driveNow p false s else s) s
  let s := modPower s (fun p => { p with tripCount := satU 16 (p.tripCount + 1) })
  emit { source := 144, sev := .warning, idx := t
         payload := b1 t ++ b1 map ++ leBytes 4 (t32 (stampIn s (evtDomain s) stamp).t).toNat } s

/-- R357: the end of the blanking window that is open now, if one is. -/
def blankUntil (s : State) (t : Fin 2) : Option Nat :=
  let blank := min 200 (regF s (0x9020 + 4 * t) 15 8) * 160
  (maskBits 6 (regF s (0x9020 + 4 * t) 5 0)).foldl (fun acc g =>
    let p := s.time.placers[Fin.ofNat 12 g]
    match p.lastOn with
    | some l => if s.time.now < l + blank then some (max (acc.getD 0) (l + blank)) else acc
    | none => acc) none

/-- R357: a trip input becomes active. -/
def tripEff (t : Fin 2) (s : State) : State :=
  let s := modTrip s t (fun x => { x with active := true })
  if !regB s (0x9020 + 4 * t) 7 then s
  else match blankUntil s t with
    | some e => modTrip s t (fun x => { x with waiting := some s.time.now, blankEnd := some e })
    | none => tripActs t s.time.now s

/-- R357: a write of a trip's set-up: a trip enabled while its input is active acts. -/
def tripCfgWrite (t : Fin 2) (value : Nat) (s : State) : State :=
  let was := regB s (0x9020 + 4 * t) 7
  let s := writeRw s (0x9020 + 4 * t) value
  if regB s (0x9020 + 4 * t) 7 && !was && s.power.trips[t].active then tripEff t s else s

/-- R355: a write of a channel's dead times: without adaptation they are dt_init. -/
def deadTimeWrite (c : Fin 3) (value : Nat) (s : State) : State :=
  let o := chBase c + 0x0C
  let s := writeRw s o value
  let fixed (x : DeadTime) : DeadTime := { x with d := regF s o 29 20, tOff := none, samples := [], without := 0 }
  if regB s o 30 then s else modCh s c (fun ch => { ch with lh := fixed ch.lh, hl := fixed ch.hl })

/-- R357: a blanking window closes. -/
def blankEndEff (t : Fin 2) (active : Bool) (s : State) : State :=
  match s.power.trips[t].waiting, s.power.trips[t].blankEnd with
  | some stamp, some e =>
    if s.time.now < e then s
    else
      let s := modTrip s t (fun x => { x with active := active, waiting := none, blankEnd := none })
      if active then tripActs t stamp s else s
  | _, _ => s

/-- R357: a latched trip is cleared while its input is inactive. -/
def clearTrip (t : Fin 2) (active : Bool) (s : State) : State :=
  let s := modTrip s t (fun x => { x with active := active })
  if s.power.trips[t].latched && !active then modTrip s t (fun x => { x with latched := false, clearing := true })
  else s

/-- R357, R362: a write of POWER_TRIP_STATUS. -/
def tripClearEff (value : Word) (active : BitVec 2) (s : State) : State :=
  (List.finRange 2).foldl (fun s (t : Fin 2) =>
    let a := active.getLsbD t.val
    if bit value.toNat t then clearTrip t a s else modTrip s t (fun x => { x with active := a })) s

/-- R357: at a reload the gates of a cleared trip, or of a cycle-mode trip whose input is inactive, resume. -/
def resumeTrips (inputs : BitVec 2) (s : State) : State :=
  (List.finRange 2).foldl (fun s (t : Fin 2) =>
    let a := inputs.getLsbD t.val
    let s := modTrip s t (fun x => { x with active := a })
    let x := s.power.trips[t]
    if x.clearing then
      let s := modTrip s t (fun x => { x with clearing := false, holding := false })
      emit { source := 145, sev := .note, idx := t, payload := b1 t } s
    else if x.holding && !x.latched && !a then modTrip s t (fun x => { x with holding := false })
    else s) s

/-! ### POWER_SET and POWER_FORCE -/

/-- R353: the mask of channels of a POWER_SET as its reloads count; one that names none acts with channel A. -/
def powMask (p : BitVec 384) : Nat := if pU p 17 1 % 8 = 0 then 1 else pU p 17 1 % 8

/-- R353: the checks of POWER_SET. -/
def powerSetCheck (f : InFlight) (s : State) : Option (Nat × Int) :=
  let p := f.payload
  let fields := pU p 16 1
  let mask := pU p 17 1
  let period := pU p 20 4
  let hasP := bit fields 0
  let hasD := bit fields 1
  let hasE := bit fields 2
  let m := powMode s
  let bound := (List.finRange 3).any (fun (c : Fin 3) => bit mask c && (boundSlot s c).isSome)
  firstFail [resv p 19 19, resv p 30 63, inval (fields == 0 || decide (15 < fields)) 16,
    inval (decide (7 < mask) || (hasP && m != 0 && decide (2 ≤ mask)) || (hasD && m == 2 && decide (2 ≤ mask))) 17,
    inval (decide (7 < pU p 18 1)) 18,
    inval (hasP && (decide (period < 80000) || decide (16000000 < period) || period % 4 != 0)) 20,
    denied ((hasD || hasE) && bound) 0x40]

/-- R358: the checks of POWER_FORCE. -/
def powerForceCheck (f : InFlight) (_ : State) : Option (Nat × Int) :=
  let p := f.payload
  let code (i : Nat) : Nat := pU p (16 + i) 1
  firstFail ([resv p 22 63] ++ (List.range 6).map (fun i =>
    inval (decide (2 < code i) || (i % 2 == 1 && code i == 2 && code (i - 1) == 2)) (16 + i)))

/-- The key of a descriptor for R354: its pair group or itself. -/
def pairKey (f : InFlight) : Nat := (f.group.map (fun g => g.1)).getD f.id

/-- R352: the shadow writes that the descriptors of the group make to a channel for the reload at hand. -/
def descWrites (c : Fin 3) (stamp : Nat) (f : InFlight) : List ShadowWrite :=
  let p := f.payload
  if f.opcode = 0x60 then
    if !bit (powMask p) c then [] else
    let fields := pU p 16 1
    let named := bit (pU p 17 1) c
    [{ stamp := stamp, desc := some f.id, pair := some (pairKey f)
       period := if bit fields 0 && named then some (pU p 20 4) else none
       duty := if bit fields 1 && named then some (pU p (24 + 2 * c) 2) else none
       enable := if bit fields 2 && named then some (bit (pU p 18 1) c) else none }]
  else
    [{ stamp := stamp, desc := some f.id, pair := some (pairKey f)
       forceH := some (forceOf (pU p (16 + 2 * c) 1)), forceL := some (forceOf (pU p (17 + 2 * c) 1)) }]

/-- The channels whose reloads a power descriptor waits for. -/
def powTargets (f : InFlight) : Nat := if f.opcode = 0x60 then powMask f.payload else 7

/-- R89: whether a power descriptor takes effect at a reload of a channel that lies at a D0 instant; one that a reload of another
channel has taken is due at the next of this one. -/
def powReady (s : State) (c : Fin 3) (at' : Int) (f : InFlight) : Bool :=
  (f.opcode == 0x60 || f.opcode == 0x61) && bit (powTargets f) c && !bit f.res.toNat c
    && updateReadyAt s at' { f with applied := none }

/-- R352: a reload has taken a descriptor's fields of a channel; it completes once all its channels have. -/
def powTaken (c : Fin 3) (tr : Stamp) (inputs : BitVec 2) (f : InFlight) (s : State) : State :=
  let first := f.res = 0
  let lowest := !(List.range c.val).any (fun i => bit (powTargets f) i)
  let s := if f.opcode = 0x60 ∧ first ∧ bit (pU f.payload 16 1) 3 then
      (List.finRange 2).foldl (fun s (t : Fin 2) => clearTrip t (inputs.getLsbD t.val) s) s
    else s
  let done := f.res.toNat + 2 ^ c.val
  let s := modFlight s f.id (fun f => { f with
    res := done, applied := if lowest || f.applied.isNone then some tr else f.applied })
  if done = powTargets f then
    match flightOf s f.id with
    | some f => completeAs f stOK 0 0 f.applied s.time.now s
    | none => s
  else s

/-! ### Reloads -/

/-- R354: a change of period or duty from a descriptor, and the unpaired pair reported. -/
def notePair (c : Fin 3) (tr : Nat) (isPeriod : Bool) (key : Option Nat) (s : State) : State :=
  match key with
  | none => s
  | some k =>
    let ch := s.power.ch[c]
    let other := if isPeriod then ch.lastDuty else ch.lastPeriod
    let s := modCh s c (fun ch => if isPeriod then { ch with lastPeriod := some (tr, some k) }
      else { ch with lastDuty := some (tr, some k) })
    match other with
    | some (t, some k') =>
      if k ≠ k' ∧ tr - t < 2 * ch.period then
        emit { source := 146, sev := .note, idx := c
               payload := b1 c ++ leBytes 4 ch.oldPeriod ++ leBytes 4 ch.period } s
      else s
    | _ => s

/-- R349, R352: a shadow write taken at a reload. -/
def takeShadow (c : Fin 3) (tr : Nat) (w : ShadowWrite) (s : State) : State :=
  let s := match w.period with
    | some P =>
      let s := modCh s c (fun ch => { ch with period := P, oldPeriod := ch.period, phase := tr % P })
      notePair c tr true w.pair s
    | none => s
  let s := match w.duty with
    | some d => notePair c tr false w.pair (modCh s c (fun ch => { ch with duty := d }))
    | none => s
  let s := match w.enable with
    | some e => modCh s c (fun ch => { ch with enabled := e })
    | none => s
  match w.forceH, w.forceL with
  | some h, some l =>
    let was := forceBits s
    let s := modCh s c (fun ch => { ch with forceH := h, forceL := l })
    let s := if w.desc.isSome then
        setReg s 0x9008 (putBits (reg s 0x9008) (4 * c + 3) (4 * c) (forceCode h + 4 * forceCode l))
      else s
    if forceBits s = was then s else emit { source := 148, sev := .note, payload := leBytes 2 (forceBits s) } s
  | _, _ => s

/-- R356, R358: whether the high side stays on through the period that starts, and whether a refresh falls in it; a force
outranks the refresh. -/
def bootStep (s : State) (c : Fin 3) : Bool × Bool :=
  let ch := s.power.ch[c]
  let duty := if powMode s = 2 then s.power.ch[0].duty else ch.duty
  let unforced := ch.forceH = .none ∧ ch.forceL ≠ .high
  let full := (ch.forceH = .high ∨ (unforced ∧ duty = 0xFFFF ∧ roleOf s c = .pwm)) ∧ chEnabled s c ∧ ¬ tripHolds s (2 * c)
  let n := regF s 0x900C 7 0
  (decide full, decide (full ∧ unforced ∧ n ≠ 0 ∧ ch.onPeriods ≠ 0 ∧ ch.onPeriods % max 2 n = 0))

/-- R349–R356: a carrier reload of a channel, with the levels of the trip inputs. -/
def powerReloadEff (c : Fin 3) (inputs : BitVec 2) (s : State) : State :=
  let d := powDom s
  let now := (domNow s d).toNat
  let P := max 1 (chPeriod s c)
  let into := ((now : Int) - chPhase s c) % P
  let tr : T64 := BitVec.ofInt 64 (now - into)
  let fresh := match s.power.ch[c].last with
    | some x => decide (0 < diff64 tr x)
    | none => true
  if !fresh then s
  else
    let tr0 := toD0 s ⟨d, tr⟩
    let ready := s.host.flight.filter (powReady s c tr0)
    let commits := ready.flatMap (descWrites c (tr0 - 16000).toNat)
    let all := sortBy (fun (a b : ShadowWrite) => decide (a.stamp ≤ b.stamp)) (s.power.ch[c].shadow ++ commits)
    let taken := all.filter (fun w => decide ((w.stamp : Int) < tr0 - 32))
    let s := modCh s c (fun ch => { ch with shadow := all.filter (fun w => !decide ((w.stamp : Int) < tr0 - 32)) })
    let s := taken.foldl (fun s w => takeShadow c tr.toNat w s) s
    let s := ready.foldl (fun s f => powTaken c ⟨d, tr⟩ inputs f s) s
    let s := resumeTrips inputs s
    let s := if s.power.hallLost && s.power.invalidSince.isNone then modPower s (fun p => { p with hallLost := false })
      else s
    let (full, refresh) := bootStep s c
    let s := modCh s c (fun ch => { ch with
      onPeriods := if full then ch.onPeriods + 1 else 0, refreshing := refresh
      boots := if refresh then ch.boots + 1 else ch.boots
      last := some tr })
    queuePeriod c tr refresh s

/-- R355: a node crossing. -/
def swnCrossingEff (c : Fin 3) (e : EdgeType) (s : State) : State :=
  let dt := match e with
    | .lh => s.power.ch[c].lh
    | .hl => s.power.ch[c].hl
  let put (s : State) (d : DeadTime) : State := modCh s c (fun ch => match e with
    | .lh => { ch with lh := d }
    | .hl => { ch with hl := d })
  let cfg := chBase c + 0x0C
  if !regB s cfg 30 then put s { dt with tOff := none, d := regF s cfg 29 20 }
  else match dt.tOff with
  | none => s
  | some t =>
    if s.time.now < t ∨ t + dtLsb dt < s.time.now then s
    else
      let samples := dt.samples ++ [s.time.now - t]
      let dt := { dt with tOff := none, without := 0, samples := samples }
      if samples.length < 8 then put s dt
      else
        let target := roundDiv (samples.foldl (fun (a : Int) x => a + x) 0) 32 + (regF s (chBase c + 0x10) 17 8 : Int)
        let lo := regF s cfg 9 0
        let hi := max lo (regF s cfg 19 10)
        let moved : Int := if target < dt.d then max target (dt.d - 4) else min target (dt.d + 4)
        let limit := decide (target < lo) || decide ((hi : Int) < target)
        let s := put s { dt with samples := [], d := (clampI lo hi moved).toNat, limit := limit }
        if limit then
          let key := 2 * c.val + (match e with | .lh => 0 | .hl => 1)
          let h : Hap := { source := 147, sev := .warning, idx := c
                           payload := b1 c ++ b1 (key % 2) ++ sgnBytes 2 target }
          emitLim secLsb c (fun _ => h) s
        else s

/-! ### Hall commutation -/

/-- R361: the sector of the Hall port changes: outgoing gates turn off and incoming gates turn on after their dead
time, on the carrier grid of the period under way; a phase that keeps its part keeps its edges. -/
def hallSectorEff (sector : Fin 6) (s : State) : State :=
  let was := roleOf s
  let s := modPower s (fun p => { p with sector := some sector, invalidSince := none })
  if powMode s ≠ 2 then s
  else
    let d := powDom s
    let nowT := domNow s d
    let react : Int := 1600
    ((List.finRange 3).filter (fun c => was c != roleOf s c)).foldl (fun s (c : Fin 3) =>
      let tr := s.power.ch[c].last.getD nowT
      let into : Int := diff64 nowT tr + react
      let (h, l) := chanWave s c false
      let levelAt (w : Wave) : Bool := w.foldl (fun acc e => if e.1 ≤ into then e.2 else acc) false
      let keep (p : Fin 12) (s : State) : State :=
        keepEdges p (fun e => decide (edgeD0 s e ≤ s.time.now)) s
      let one (p : Fin 12) (w : Wave) (dead : Int) (s : State) : State :=
        let s := keep p s
        let want := levelAt w
        let s := putGate c p d tr (if want then into + dead else into, want) s
        (w.filter (fun e => decide (into < e.1))).foldl (fun s e =>
          putGate c p d tr (if e.2 then max e.1 (into + dead) else e.1, e.2) s) s
      let ch := s.power.ch[c]
      one (gateH c) h (dtLsb ch.lh) (one (gateL c) l (dtLsb ch.hl) s)) s

/-- R361: the Hall state has become impossible. -/
def hallInvalidNow (s : State) : State :=
  modPower s (fun p => { p with invalidSince := some (p.invalidSince.getD s.time.now) })

/-- R361: the Hall state has been invalid for hall_hold. -/
def hallHoldEff (s : State) : State :=
  match s.power.invalidSince with
  | some t =>
    if powMode s = 2 ∧ ¬ s.power.hallLost ∧ t + max 1 (regF s 0x9000 19 16) * msLsb ≤ s.time.now then
      let s := modPower s (fun p => { p with hallLost := true })
      let s := (List.finRange 3).foldl (fun s (c : Fin 3) => gatesLow c s) s
      emit { source := 150, sev := .fault, payload := b1 ((s.power.sector.map (fun k => k.val)).getD 7)
        ++ b1 s.axis.ports[2].lines.toNat } s
    else s
  | none => s

end Sys2Proof.Machine
end

