-- ==== Sys2Proof/Machine/Slots.lean ====
section
/-!
DEFINITION. Operations on slots, stop groups, time pins and lattices that several chapters share: their events, taking
a slot out of service, and who owns a pin (R217, R251, R276, R286, R300, R301).
-/

namespace Sys2Proof.Machine

/-! ### Access -/

/-- A slot changed. -/
def modSlot (s : State) (n : Fin 32) (f : Slot → Slot) : State :=
  { s with axis := { s.axis with slots := upd s.axis.slots n f } }

/-- A stop group changed. -/
def modGroup (s : State) (g : Fin 8) (f : Group → Group) : State :=
  { s with axis := { s.axis with groups := upd s.axis.groups g f } }

/-- A path group changed. -/
def modPath (s : State) (g : Fin 4) (f : PathGroup → PathGroup) : State :=
  { s with axis := { s.axis with paths := upd s.axis.paths g f } }

/-- A feedback port changed. -/
def modPort (s : State) (p : Fin 3) (f : Port → Port) : State :=
  { s with axis := { s.axis with ports := upd s.axis.ports p f } }

/-- A time pin changed. -/
def modPin (s : State) (k : Fin 4) (f : Pin → Pin) : State :=
  { s with pins := { s.pins with pins := upd s.pins.pins k f } }

/-- A compare unit changed. -/
def modCmp (s : State) (u : Fin 16) (f : Compare → Compare) : State :=
  { s with pins := { s.pins with cmp := upd s.pins.cmp u f } }

/-- A latch unit changed. -/
def modLat (s : State) (u : Fin 16) (f : Latch → Latch) : State :=
  { s with pins := { s.pins with lat := upd s.pins.lat u f } }

/-- A lattice changed. -/
def modLtc (s : State) (n : Fin 4) (f : Lattice → Lattice) : State :=
  { s with pins := { s.pins with ltc := upd s.pins.ltc n f } }

/-- Firebreak changed. -/
def modFb (s : State) (f : FirebreakSt → FirebreakSt) : State := { s with firebreak := f s.firebreak }

/-- The stop group of a slot; none while it is not configured. -/
def groupOf (s : State) (n : Fin 32) : Option (Fin 8) := s.axis.slots[n].bind.map (fun b => b.group)

/-- R214: the slots of a stop group, lowest first. -/
def groupSlots (s : State) (g : Fin 8) : List (Fin 32) := (List.finRange 32).filter (fun n => groupOf s n == some g)

/-- R185: the outer period of a slot in LSB. -/
def outPeriod (b : Binding) : Nat := cadence * 2 ^ b.outCad

/-- R185: the current period of a slot in LSB. -/
def curPeriod (b : Binding) : Nat := cadence * 2 ^ b.curCad

/-- A happening of a slot (R217, R251, R275): the event code leads the payload. -/
def slotHap (n : Fin 32) (sev : Sev) (code : Nat) (rest : List Byte) : Hap :=
  { source := 48 + n, sev := sev, code := code, payload := b1 code ++ rest }

/-- It is raised. -/
def slotEv (n : Fin 32) (sev : Sev) (code : Nat) (rest : List Byte) (s : State) : State := emit (slotHap n sev code rest) s

/-- R206: the code of a mode. -/
def modeCode : Mode → Nat
  | .off => 0 | .manual => 1 | .auto => 2

/-- R206, R217: a slot's mode set, and the change raised. -/
def setMode (n : Fin 32) (m : Mode) (s : State) : State :=
  let old := s.axis.slots[n].mode
  if old = m then s
  else slotEv n .note 0x04 (b1 (modeCode old) ++ b1 (modeCode m)) (modSlot s n (fun sl => { sl with mode := m }))

/-! ### Time pins (R276) -/

/-- R302, R22: a pin's mode: 0 off, 1 output, 2 input. R495: a pin that is off is an input while the park move searches its edge. -/
def pinMode (s : State) (k : Fin 4) : Nat :=
  let m := regF s (pinBase k) 1 0
  if isolated s (.pin k) then 0
  else if m = 1 ∨ m = 2 then m
  else if s.life.runs.any (fun r => r.own && r.entry.method == 2 && r.entry.pin == k && r.phase != .done && r.phase != .failed)
  then 2 else 0

/-- R61: the placer of a time pin. -/
def pinPlacer (k : Fin 4) : Fin 12 := ⟨6 + k.val, by omega⟩

/-- R302: owner_kind and owner. -/
def ownerKind : PinOwner → Nat
  | .compare _ => 1 | .lattice _ => 2 | .step _ => 3

def ownerIndex : PinOwner → Nat
  | .compare u => u | .lattice n => n | .step n => n

/-- R276, R303: whether an owner may claim an output pin. -/
def pinClaims (s : State) (me : PinOwner) (k : Fin 4) : List Check :=
  let other := match s.pins.pins[k].owner with
    | some o => o != me
    | none => false
  let detail : Int := match s.pins.pins[k].owner with
    | some o => ((ownerIndex o + 256 * ownerKind o : Nat) : Int)
    | none => 0
  [(other, 0x0080, detail), denied (pinMode s k != 1) 0x22]

/-- R276: an owner takes a pin. -/
def claimPin (me : PinOwner) (k : Fin 4) (s : State) : State := modPin s k (fun p => { p with owner := some me })

/-- R276: the level out_idle driven after the last edge that remains. -/
def idlePin (k : Fin 4) (s : State) : State :=
  let p := pinPlacer k
  let idle := regB s (pinBase k) 2
  let after : Int := match lastEdgeOf s p with
    | some e => max (edgeDue s e + minWidth s p) (s.time.now + lateLsb : Nat)
    | none => (s.time.now + lateLsb : Nat)
  if finalLevel s p = idle then s
  else putEdge p { target := BitVec.ofInt 64 after, dom := .d0, level := idle, owner := .pin } true s

/-- R276: a pin without an owner drives out_idle. -/
def releasePin (k : Fin 4) (s : State) : State := idlePin k (modPin s k (fun p => { p with owner := none }))

/-- The pins an owner holds. -/
def pinsOf (s : State) (me : PinOwner) : List (Fin 4) :=
  (List.finRange 4).filter (fun k => s.pins.pins[k].owner == some me)

/-- R286: the edges of an owner withdrawn from a D0 instant on; a pulse whose leading edge stands keeps its trailing
edge. `active`: the level of a pulse; `inPulse`: a leading edge stands before the first of these. -/
def withdrawEdges (owner : EdgeOwner) (active : Bool) (pulses : Bool) (from' : Int) (due : Edge → Int) :
    Bool → List Edge → List Edge
  | _, [] => []
  | inPulse, e :: es =>
    if e.owner != owner then e :: withdrawEdges owner active pulses from' due inPulse es
    else if due e < from' ∨ (pulses ∧ inPulse ∧ e.level ≠ active) then
      e :: withdrawEdges owner active pulses from' due (e.level == active) es
    else withdrawEdges owner active pulses from' due inPulse es

/-- R286: an owner's edges of a pin from an instant on are withdrawn. -/
def withdrawPin (k : Fin 4) (owner : EdgeOwner) (active pulses : Bool) (from' : Int) (s : State) : State :=
  let p := pinPlacer k
  modPlacer s p (fun pl => { pl with
    queue := withdrawEdges owner active pulses from' (edgeDue s) (pl.level == active) pl.queue
    waiting := withdrawEdges owner active pulses from' (edgeDue s) (pl.level == active) pl.waiting })

/-! ### Jobs -/

/-- R207: the jobs of an owner are dropped: waiting, running and forming. -/
def dropJobs (o : Owner) (s : State) : State :=
  let s := { s with canopy := { s.canopy with
    queue := s.canopy.queue.filter (fun j => j.owner != o)
    lanes := s.canopy.lanes.map (fun l => match l.run with
      | some r => if r.job.owner = o then { l with run := none } else l
      | none => l) } }
  match o with
  | .slot n => modSlot s n (fun sl => { sl with
      curSched := { sl.curSched with forming := none }, outSched := { sl.outSched with forming := none } })
  | .lattice n => modLtc s n (fun l => { l with sched := { l.sched with forming := none } })

/-! ### Lattices (R300, R301) -/

/-- A happening of a lattice (R304). -/
def ltcHap (n : Fin 4) (sev : Sev) (code : Nat) (rest : List Byte) : Hap :=
  { source := 120 + n, sev := sev, code := code, payload := b1 code ++ rest }

/-- R293: a pass is running. -/
def ltcArmed (l : Lattice) : Bool := l.state == .armed || l.state == .firing

/-- R300, R301: the pass under way ends at a D0 instant; configuration, offsets and pins stay. -/
def endPass (n : Fin 4) (from' : Int) (s : State) : State :=
  let l := s.pins.ltc[n]
  let active := match l.cfg with
    | some c => !c.activeLow
    | none => true
  let s := (pinsOf s (.lattice n)).foldl (fun s k => idlePin k (withdrawPin k (.lattice n) active true from' s)) s
  let s := dropJobs (.lattice n) s
  modLtc s n (fun l => { l with
    state := .idle, orphan := false, undecided := false, passEnd := false, poly := none
    outs := l.outs.map (fun o => { o with next := none, items := [], prov := [] })
    sched := { l.sched with next := none, latch := [] }, passes := l.passes + 1 })

/-- R301: a lattice disarms: cause 1 SS1, 2 orphan policy, 3 stop. -/
def ltcDisarm (n : Fin 4) (cause : Nat) (from' : Int) (s : State) : State :=
  if ltcArmed s.pins.ltc[n] then emit (ltcHap n .warning 0x05 (b1 cause)) (endPass n from' s) else s

/-! ### Path groups -/

/-- R249: the code of a path state. -/
def pathCode : PathState → Nat
  | .undefined => 0 | .idle => 1 | .running => 2 | .holding => 3

/-- R251: a path group's state set, and the change raised on its lowest member. -/
def setPathState (g : Fin 4) (st : PathState) (s : State) : State :=
  let pg := s.axis.paths[g]
  if pg.state = st then s
  else
    let low := (List.finRange 32).find? (fun n => pg.members.contains n)
    let s := modPath s g (fun p => { p with state := st })
    match low with
    | some n => slotEv n .note 0x29 (b1 g ++ b1 (pathCode pg.state) ++ b1 (pathCode st)) s
    | none => s

/-- Every queued segment of a path group completes with a status; the segment under way keeps its applied stamp. -/
def flushPath (g : Fin 4) (status : Nat) (detail : Int) (begunToo : Bool) (s : State) : State :=
  let pg := s.axis.paths[g]
  let (keep, gone) := if begunToo || !pg.begun then ([], pg.queue) else (pg.queue.take 1, pg.queue.drop 1)
  let s := modPath s g (fun p => { p with queue := keep, begun := p.begun && !begunToo })
  gone.foldl (fun s q => match flightOf s q.desc with
    | some f => completeAs f status 0 detail f.applied s.time.now s
    | none => s) s

/-! ### Slots -/

/-- R221: the generator's state from the command of the last sample (R219). -/
def genOfCmd (sl : Slot) : Gen := { p := sext 48 sl.cmdP.toNat * 2 ^ 32, v := sl.cmdV * 2 ^ 32, a := sl.cmdA * 2 ^ 32 }

/-- R225: the goal of the descriptor in force is replaced. -/
def dropGoal (sl : Slot) : Slot :=
  { sl with goal := .none, goalTag := none, reverseTo := none, reversing := false, stopLimits := false
            soft := sl.soft.map (fun x => { x with replaced := true }) }

/-- R226: a hold of the deceleration ends. -/
def endHold (sl : Slot) : Slot := { sl with decelHeld := false, heldDec := 0, heldJerk := 0 }

/-- R228: a SOFT_START that still waits for its sample's measurement completes. -/
def endSoft (n : Fin 32) (s : State) : State :=
  match s.axis.slots[n].soft with
  | some x =>
    let s := modSlot s n (fun sl => { sl with soft := none })
    match x.desc.bind (flightOf s) with
    | some f => completeAs f stOK 0 0 f.applied s.time.now s
    | none => s
  | none => s

/-- R248: a homing in progress is ended by a new course. -/
def endHoming (n : Fin 32) (s : State) : State :=
  match s.axis.slots[n].homing with
  | some h =>
    let s := modSlot s n (fun sl => { sl with homing := none })
    match flightOf s h.desc with
    | some f => completeAs f stSuperseded 0 0 f.applied s.time.now s
    | none => s
  | none => s

/-- R221: the state after one period of `cad` cadences (1/128 ms each) at a jerk. -/
def advance (g : Gen) (j : Int) (cad : Nat) : Gen :=
  { p := g.p + roundDiv (256 * (g.v * cad * 98304 + g.a * cad ^ 2 * 384 + j * cad ^ 3)) 12582912
    v := g.v + roundDiv (g.a * cad * 256 + j * cad ^ 2) 32768
    a := g.a + roundDiv (j * cad) 128 }

/-- R219: where the command of the last sample has come to one period later. -/
def nextGen (sl : Slot) : Gen :=
  advance { p := sl.cubic.p, v := sl.cubic.v, a := sl.cubic.a } sl.cubic.j ((sl.bind.map (fun b => 2 ^ b.outCad)).getD 1)

/-- R219: a slot leaves gearing or a path for PROFILE without a step of the command. -/
def toProfile (sl : Slot) : Slot :=
  if sl.source = .profile then sl else { sl with source := .profile, gen := nextGen sl }

/-- The group is dissolved: its members return to PROFILE; one that the dissolution finds in motion comes to rest (log 34). -/
def dissolvePath (g : Fin 4) (s : State) : State :=
  let ms := s.axis.paths[g].members
  let s := setPathState g .undefined s
  let s := modPath s g (fun _ => {})
  ms.foldl (fun s n => modSlot s n (fun sl => if sl.source = .path then { toProfile sl with goal := .rest } else sl)) s

/-- R242: the accumulator brought to a D0 tick; carries not yet emitted stay above bit 47. -/
def syncStep (now : Nat) (t : StepSt) : StepSt :=
  let k := now / 40
  { t with acc := t.acc + t.inc * ((k : Int) - t.tick), tick := k }

/-- Every band-law loop of a slot changed. -/
def modLoops (f : Loop → Loop) (sl : Slot) : Slot :=
  { sl with cur := { d := f sl.cur.d, q := f sl.cur.q, dc := f sl.cur.dc }
            out := { sl.out with vel := f sl.out.vel, pos := f sl.out.pos, band := f sl.out.band } }

/-- R193: entry to AUTO from MANUAL is a transfer against the output the loop held; from OFF against 0. -/
def transferIn (fromOff : Bool) : Slot → Slot :=
  modLoops (fun l => { l with transfer := true, entryRef := some (if fromOff then 0 else l.u) })

/-- R351: the local channels of a band slot's output. -/
def slotChannels (b : Binding) : List (Fin 3) :=
  if b.kind != .band then [] else if b.bandDst = 0 then [0, 1, 2]
  else if b.bandDst ≤ 3 then [Fin.ofNat 3 (b.bandDst - 1)] else []

/-- R207: a slot goes to OFF: no job runs, outputs are disabled, and what its course depended on ends. -/
def slotOff (n : Fin 32) (s : State) : State :=
  let sl := s.axis.slots[n]
  let s := if sl.source = .path then
      dissolvePath sl.pathGroup (flushPath sl.pathGroup stCancelled 0 true s) else s
  let s := endSoft n (endHoming n s)
  let s := setMode n .off s
  let s := dropJobs (.slot n) s
  let s := modSlot s n (fun sl => { endHold (dropGoal sl) with
    source := .profile, entry := .none, waitMaster := none, ss1 := false, atGoal := false
    gen := genOfCmd { sl with cmdV := 0, cmdA := 0 }, cmdV := 0, cmdA := 0
    cubic := { sl.cubic with p := sext 48 sl.cmdP.toNat * 2 ^ 32, v := 0, a := 0, j := 0 }
    step := { syncStep s.time.now sl.step with inc := 0, coarseIn := [] }
    curSched := { sl.curSched with next := none, latch := [] }
    outSched := { sl.outSched with latch := [] } })
  match sl.bind with
  | some b => (slotChannels b).foldl (fun s c => gatesLow c (modCh s c (fun ch => { ch with shadow := ch.shadow.filter (fun w => w.duty.isNone) }))) s
  | none => s

end Sys2Proof.Machine
end

