-- ==== Sys2Proof/Machine/Stops.lean ====
section
/-!
DEFINITION. Stopping: SS1 of a stop group (R213, R214, R235), the stop's end in STO (R214, R451), and the chip-level
causes (R24, R467, R468).
-/

namespace Sys2Proof.Machine

/-! ### SS1 -/

/-- R87: whether a descriptor targets a slot or lattice of a group, or a path group whose members are in it. -/
def targetsGroup (s : State) (g : Fin 8) (t : Target) : Bool :=
  match t.cls with
  | 0x01 => groupOf s (Fin.ofNat 32 t.idx) == some g
  | 0x02 => s.axis.paths[Fin.ofNat 4 t.idx].members.any (fun n => groupOf s n == some g)
  | 0x05 =>
    match s.pins.ltc[Fin.ofNat 4 t.idx].cfg with
    | some c => groupOf s c.slot == some g
    | none => false
  | _ => false

/-- R214: whether a slot is a geared follower whose master is in the same group. -/
def followsInGroup (s : State) (g : Fin 8) (sl : Slot) : Bool :=
  (sl.source == .gear || sl.source == .cam) && sl.mode == .auto && decide (sl.gear.masterKind ≤ 1)
    && groupOf s (Fin.ofNat 32 sl.gear.masterSlot) == some g

/-- R214, R235: a slot under SS1: a servo or step slot enters AUTO with a transfer (R193) and a cleared disturbance estimate (R203), and
decelerates, as a member of a path group along its path. -/
def ss1Slot (g : Fin 8) (n : Fin 32) (s : State) : State :=
  let sl := s.axis.slots[n]
  match sl.bind with
  | none => s
  | some b =>
    let enter (sl : Slot) : Slot :=
      { modLoops (fun l => { l with transfer := true }) sl with out := { (modLoops (fun l => { l with transfer := true }) sl).out with
          dob := { sl.out.dob with est := 0 } } }
    if sl.mode = .off then s
    else if b.kind = .band || followsInGroup s g sl then
      modSlot s n (fun sl => { sl with ss1 := true })
    else if sl.source = .path then modSlot s n (fun sl => { enter sl with ss1 := true })
    else
      let s := endHoming n s
      let manual := sl.mode = .manual
      let s := setMode n .auto s
      modSlot s n (fun sl =>
        let sl := enter (dropGoal (toProfile sl))
        let sl := if manual then { transferIn false sl with entry := .auto } else sl
        { sl with ss1 := true, goal := .rest, stopLimits := true, moveV := 0, moveA := 0, moveD := 0, moveJ := 0
                  atGoal := false })

/-- R235: the path groups of a stop group stop along their paths. -/
def ss1Paths (g : Fin 8) (s : State) : State :=
  (List.finRange 4).foldl (fun s (p : Fin 4) =>
    if s.axis.paths[p].state != .undefined && s.axis.paths[p].members.any (fun n => groupOf s n == some g) then
      let s := s.axis.paths[p].queue.foldl (fun s q => match flightOf s q.desc with
        | some f => completeAs f stStopped 0 g f.applied s.time.now s
        | none => s) s
      modPath s p (fun pg => { pg with ss1 := true })
    else s) s

/-- R214: the lattices of a stop group disarm. -/
def ss1Lattices (g : Fin 8) (s : State) : State :=
  (List.finRange 4).foldl (fun s (n : Fin 4) =>
    match s.pins.ltc[n].cfg with
    | some c => if groupOf s c.slot = some g then ltcDisarm n 1 s.time.now s else s
    | none => s) s

/-- R457: ss1_ms of the safety record. -/
def ss1Ms (s : State) : Nat := leAt s.firebreak.record 24 2

/-- R472: the handlings that wait for a group's stop end once all their groups have stopped. -/
def settleSs1 (g : Fin 8) (s : State) : State :=
  (allEntries s).foldl (fun s (r, e) =>
    match e.action with
    | some (.ss1 m) =>
      if inProgress e && m.getLsbD g.val then
        let m' := m &&& ~~~(BitVec.ofNat 8 (2 ^ g.val))
        let s := modEntry s r (fun e => { e with action := some (.ss1 m') })
        if m' = 0 then endHandling s r true else s
      else s
    | _ => s) s

/-- R214, R451: a group's slots go to OFF and the group becomes stopped. -/
def stopGroup (g : Fin 8) (s : State) : State :=
  let s := (groupSlots s g).foldl (fun s n => slotOff n s) s
  let s := modGroup s g (fun _ => { ss1 := false, stopped := true })
  let s := { s with fault := { s.fault with chipGroups := s.fault.chipGroups.filter (fun x => x != g) } }
  settleSs1 g s

/-- R213, R214: SS1 of a group is requested. A group under SS1 is left as it is. -/
def requestSs1 (cause : Nat) (parent : Option EntryRef) (g : Fin 8) (s : State) : State :=
  if s.axis.groups[g].ss1 then s
  else
    let s := modGroup s g (fun x => { x with ss1 := true })
    let s := purge (fun f => targetsGroup s g f.target) stStopped (fun _ => g) s
    let s := ss1Paths g s
    let s := (groupSlots s g).foldl (fun s n => ss1Slot g n s) s
    let s := ss1Lattices g s
    let s := match (groupSlots s g).head? with
      | some n => emit { slotHap n .stop 0x08 (b1 g ++ b1 cause) with idx := g, parent := parent, handler := 2 } s
      | none => s
    if s.firebreak.groups[g].sto then stopGroup g s
    else modFb s (fun fb => { fb with groups := upd fb.groups g (fun x => { x with
      ss1 := true, limitAt := some (fb.ticks + 100 * ss1Ms s) }) })

/-- SS1 of several groups, lowest first. -/
def requestAll (cause : Nat) (parent : Option EntryRef) (gs : List (Fin 8)) (s : State) : State :=
  gs.foldl (fun s g => requestSs1 cause parent g s) s

/-- An error whose handler requests SS1 of groups (R472): raised, and the request made when its handling starts. -/
def raiseSs1 (h : Hap) (cause : Nat) (gs : List (Fin 8)) (s : State) : State :=
  let mask := BitVec.ofNat 8 (ofMask ((List.finRange 8).map (fun g => gs.contains g)))
  let (s, r, go) := raiseHap s (if gs = [] then h else { h with action := some (.ss1 mask), handler := max h.handler 2 })
  if go then requestAll cause r gs s else s

/-! ### Chip-level causes (R24, R467) -/

/-- R467: an error reaches the chip supervisor: the cause is latched, CHIP_STOP is logged and SS1 of every stop group is
requested. -/
def chipCause (code : Nat) (source : Nat) (parent : Option EntryRef) (s : State) : State :=
  let gs := List.finRange 8
  let s := { s with fault := { s.fault with causes := s.fault.causes ++ [(code, parent)]
                                            chipGroups := s.fault.chipGroups ++ gs.filter (fun g => !s.fault.chipGroups.contains g) } }
  let (s, r, _) := raiseHap s
    { source := 11, sev := .stop, chip := true, handler := 3, parent := parent, payload := b1 code ++ b1 source
      action := some (.ss1 0xFF#8) }
  requestAll 5 r gs s

/-- An error that reaches the chip supervisor: raised, then acted on. -/
def raiseChip (h : Hap) (code : Nat) (s : State) : State :=
  let (s, r, _) := raiseHap s { h with handler := 3 }
  chipCause code h.source r s

/-- R468: fault_ack: acknowledgeable causes clear once they are no longer present and every group stopped for them has
reached its stop. `present`: the codes of causes that still hold. -/
def ackCauses (present : List Nat) (s : State) : State :=
  let busy := s.fault.chipGroups.any (fun g => s.axis.groups[g].ss1)
  if busy then s
  else { s with fault := { s.fault with
    causes := s.fault.causes.filter (fun (c, _) => decide (c < 7) || present.contains c) } }

end Sys2Proof.Machine
end

