-- ==== Sys2Proof/Machine/Glade.lean ====
section
/-!
DEFINITION. Glade and Folio (06): leases (R164–R170), thinning (R171–R173), load and check bits (R174–R177), and the
Folio tables (R178–R182).
-/

namespace Sys2Proof.Machine

/-- The Glade block changed. -/
def modGlade (s : State) (f : GladeSt → GladeSt) : State := { s with glade := f s.glade }

/-! ### Leaves -/

/-- R162, R135: words, words of the standby area, and worst-case operations of a vendor leaf. -/
def vendorLeaf (id : Nat) : Option (Nat × Nat × Nat) :=
  match id with
  | 0x01 => some (60, 0, 175)
  | 0x02 => some (44, 0, 120)
  | 0x08 => some (52, 28, 140)
  | 0x09 => some (36, 28, 110)
  | 0x0A => some (40, 0, 64)
  | 0x0B => some (48, 0, 90)
  | 0x0C => some (16, 0, 40)
  | 0x0D => some (64, 0, 85)
  | 0x18 => some (40, 0, 50)
  | 0x20 => some (12, 0, 30)
  | 0x21 => some (24, 0, 55)
  | 0x28 => some (96, 0, 220)
  | 0x30 => some (20, 0, 45)
  | 0x31 => some (24, 0, 60)
  | 0x38 => some (64, 0, 96)
  | _ => none

/-- R162: the Glade words of a leaf; none: no leaf of the store has the identifier. -/
def leafWords (s : State) (standby : Bool) (id : Nat) : Option Nat :=
  match vendorLeaf id with
  | some (w, sb, _) => some (if standby then w + sb else w)
  | none => (tabGet s.canopy.leaves id).map (fun u => u.words)

/-- R135, R136: the worst-case operations of a leaf. -/
def leafOps (s : State) (id : Nat) : Nat :=
  match vendorLeaf id with
  | some (_, _, n) => n
  | none => ((tabGet s.canopy.leaves id).map (fun u => u.worst)).getD 0

/-- Rounded up to a granule of 8 words (R164). -/
def granule (n : Nat) : Nat := (n + 7) / 8 * 8

/-! ### Leases -/

/-- R164: the owner that a GLADE_LEASE payload names; the target slot is given. -/
def leaseOwner (slot : Fin 32) (b : Nat) : Owner := if b < 0x80 then .slot slot else .lattice (Fin.ofNat 4 (b - 0x80))

/-- The leases of an owner, with their numbers. -/
def leasesOf (s : State) (o : Owner) : List (Nat × Lease) := s.glade.leases.filter (fun l => l.2.owner == o)

/-- R170: the lowest identifier a lease serves. -/
def firstLeaf (l : Lease) : Nat := (l.leaves.map BitVec.toNat).foldl min 255

/-- R170: the leases of an owner in the order of its Glade space. -/
def spaceOf (s : State) (o : Owner) : List (Nat × Lease) :=
  sortBy (fun a b => decide (firstLeaf a.2 ≤ firstLeaf b.2)) (leasesOf s o)

/-- R170: the physical address, the lease and its number at a relative address of an owner's space. -/
def relAddr (sp : List (Nat × Lease)) (a : Nat) : Option (Nat × Nat × Lease) :=
  match sp with
  | [] => none
  | (k, l) :: rest => if a < l.words then some (l.base + a, k, l) else relAddr rest (a - l.words)

/-- The lease that holds a physical address. -/
def leaseAt (s : State) (a : Nat) : Option (Nat × Lease) :=
  s.glade.leases.find? (fun l => decide (l.2.base ≤ a) && decide (a < l.2.base + l.2.words))

/-- R34: words leased. -/
def leasedWords (s : State) : Nat := (s.glade.leases.map (fun l => l.2.words)).foldl (· + ·) 0

/-- R183: words free. -/
def freeWords (s : State) : Nat := 6144 - leasedWords s

/-- The free runs, as base and length, in order of addresses. -/
def freeRuns (s : State) : List (Nat × Nat) :=
  let ls := sortBy (fun (a b : Nat × Nat) => decide (a.1 ≤ b.1)) (s.glade.leases.map (fun l => (l.2.base, l.2.words)))
  let (runs, top) := ls.foldl (fun (acc : List (Nat × Nat) × Nat) l =>
    (if acc.2 < l.1 then acc.1 ++ [(acc.2, l.1 - acc.2)] else acc.1, l.1 + l.2)) ([], 0)
  if top < 6144 then runs ++ [(top, 6144 - top)] else runs

/-- R167, R183: the longest free run. -/
def longestRun (s : State) : Nat := ((freeRuns s).map (fun r => r.2)).foldl max 0

/-- R165: the lowest address at which a lease fits. -/
def lowestFit (s : State) (len : Nat) : Option Nat :=
  ((freeRuns s).find? (fun r => decide (len ≤ r.2))).map (fun r => r.1)

/-- R165: the lowest address at which a lease fits inside a bank. -/
def bankFit (s : State) (bank len : Nat) : Option Nat :=
  let lo := 768 * bank
  let hi := lo + 768
  ((freeRuns s).filterMap (fun r =>
    let a := max r.1 lo
    if a + len ≤ min (r.1 + r.2) hi then some a else none)).head?

/-- R165: where a lease is placed. -/
def placeLease (s : State) (pref len : Nat) : Option Nat :=
  match (if pref < 8 then bankFit s pref len else none) with
  | some a => some a
  | none => lowestFit s len

/-- R174: accesses counted, word by word, on the banks of consecutive addresses. -/
def countRange (base n : Nat) (s : State) : State :=
  modGlade s (fun g => { g with accesses := (List.range n).foldl (fun v i =>
    upd v (Fin.ofNat 8 ((base + i) / 768)) (· + 1)) g.accesses })

/-! ### Areas (R170) -/

/-- R170: the areas of a lease: leaf, offset and words, in ascending order of identifiers. -/
def leaseAreas (s : State) (l : Lease) : List (Nat × Nat × Nat) :=
  let ids := sortBy (fun (a b : Nat) => decide (a ≤ b)) (l.leaves.map BitVec.toNat)
  (ids.foldl (fun (acc : List (Nat × Nat × Nat) × Nat) i =>
    let w := (leafWords s l.standby i).getD 0
    (acc.1 ++ [(i, acc.2, w)], acc.2 + w)) ([], 0)).1

/-- R170: the physical base and the words of the area of a leaf of an owner. -/
def leafArea (s : State) (o : Owner) (id : Nat) : Option (Nat × Nat) :=
  (leasesOf s o).findSome? (fun x =>
    ((leaseAreas s x.2).find? (fun a => a.1 == id)).map (fun a => (x.2.base + a.2.1, a.2.2)))

/-- R162: the words that vendor leaves among some have left are open until they are read. -/
def fogLeaves (o : Owner) (ids : List Nat) (s : State) : State :=
  let areas := (ids.filter (fun i => (vendorLeaf i).isSome)).filterMap (leafArea s o)
  let inside (a : Nat) : Bool := areas.any (fun x => decide (x.1 ≤ a) && decide (a < x.1 + x.2))
  modGlade s (fun g => { g with
    fog := g.fog.filter (fun a => !inside a) ++ areas.flatMap (fun x => (List.range x.2).map (x.1 + ·)) })

/-- R162, R199: what a descriptor changes in the banks and states of a slot's vendor leaves is open to LDG in the same way. -/
def fogSlot (n : Fin 32) (s : State) : State :=
  fogLeaves (.slot n) ((leasesOf s (.slot n)).flatMap (fun l => l.2.leaves.map BitVec.toNat)) s

/-- R174: the accesses of a vendor leaf's job as planned, 1.5 for each worst-case operation, over the leaf's words. -/
def planAccesses (o : Owner) (id : Nat) (s : State) : State :=
  match vendorLeaf id, leafArea s o id with
  | some (_, _, ops), some (base, w) =>
    modGlade s (fun g => { g with accesses := (List.range (3 * ops / 2)).foldl (fun v i =>
      upd v (Fin.ofNat 8 ((base + i % max 1 w) / 768)) (· + 1)) g.accesses })
  | _, _ => s

/-- R165, R169, R177: words zeroed with fresh check bits. -/
def zeroWords (base n : Nat) (s : State) : State :=
  let inside (a : Nat) : Bool := decide (base ≤ a) && decide (a < base + n)
  countRange base n (modGlade s (fun g => { g with
    words := g.words.filter (fun w => !inside w.1), bad := g.bad.filter (fun a => !inside a)
    fog := g.fog.filter (fun a => !inside a) }))

/-- R191, R195, R199: the state of an owner's leaf cleared, with its lease or its release. -/
def resetLeaf (o : Owner) (s : State) (leaf : Byte) : State :=
  match o with
  | .lattice n => modLtc s n (fun l => { l with poly := none, lastPoly := none })
  | .slot n => modSlot s n (fun sl =>
    match leaf.toNat with
    | 0x01 => { sl with cur := { sl.cur with d := {}, q := {} } }
    | 0x02 => { sl with cur := { sl.cur with dc := {} } }
    | 0x08 => { sl with out := { sl.out with vel := {} } }
    | 0x09 => { sl with out := { sl.out with pos := {} } }
    | 0x0A => { sl with out := { sl.out with notch := Vector.replicate 4 {} } }
    | 0x0B => { sl with out := { sl.out with dob := {} } }
    | 0x0C => { sl with out := { sl.out with ffwd := {} } }
    | 0x0D => { sl with out := { sl.out with plaus := {} } }
    | 0x20 => { sl with out := { sl.out with two := {} } }
    | 0x21 => { sl with out := { sl.out with band := {} } }
    | 0x31 => { sl with out := { sl.out with rep := {} } }
    | _ => sl)

/-- R184: a lease, release or move reported. -/
def leaseChange (k : Nat) (o : Owner) (words : Nat) (s : State) : State :=
  emit { source := 92, sev := .note, idx := k
         payload := b1 k ++ b1 (ownerByte o) ++ leBytes 2 words ++ leBytes 2 (freeWords s) } s

/-- R166: the identifiers of a GLADE_LEASE. -/
def leaseLeaves (p : BitVec 384) : List Nat := (List.range (pU p 16 1)).map (fun k => pU p (20 + k) 1)

/-- R166, R164: the words a lease of these leaves needs. -/
def leaseNeed (s : State) (standby : Bool) (leaves : List Nat) : Nat :=
  granule ((leaves.map (fun i => (leafWords s standby i).getD 0)).foldl (· + ·) 0)

/-- R166, R167 place 1: the field checks of GLADE_LEASE. -/
def leaseFieldCheck (f : InFlight) : Option (Nat × Int) :=
  let p := f.payload
  let n := pU p 16 1
  let owner := pU p 17 1
  let ids := leaseLeaves p
  firstFail ([resv p 28 63, inval (decide (n < 1) || decide (8 < n)) 16,
    inval (owner != 0 && (decide (owner < 0x80) || decide (0x83 < owner))) 17,
    inval (decide (1 < pU p 18 1) || (bit (pU p 18 1) 0 && !ids.contains 0x08 && !ids.contains 0x09)) 18,
    inval (decide (7 < pU p 19 1) && pU p 19 1 != 0xFF) 19]
    ++ (List.range 8).map (fun k => inval (if n ≤ k then pU p (20 + k) 1 != 0
        else pU p (20 + k) 1 == 0x38 || (decide (0x80 ≤ owner) && pU p (20 + k) 1 != 0x28)) (20 + k)))

/-- R167 places 2 to 7: the remaining checks of GLADE_LEASE, in their order. -/
def leaseStateCheck (f : InFlight) (s : State) : Option (Nat × Int) :=
  let p := f.payload
  let o := leaseOwner (Fin.ofNat 32 f.target.idx) (pU p 17 1)
  let ids := leaseLeaves p
  let held := (leasesOf s o).flatMap (fun l => l.2.leaves.map BitVec.toNat)
  let len := leaseNeed s (bit (pU p 18 1) 0) ids
  let space := ((leasesOf s o).map (fun l => l.2.words)).foldl (· + ·) 0
  let unknown := ids.zipIdx.map (fun (i, k) => ((leafWords s false i).isNone, 0x0080, (k : Int)))
  let dup := ids.zipIdx.map (fun (i, k) => (held.contains i || (ids.take k).contains i, 0x0081, (i : Int)))
  firstFail (unknown ++ dup ++ [inval (decide (4096 < space + len)) 20,
    ((tabFree s.glade.leases 128).isNone, 0x0083, 0),
    (decide (freeWords s < len), stLease, (len : Int) - freeWords s),
    ((placeLease s (pU p 19 1) len).isNone, 0x0082, longestRun s)])

/-- R165, R166: GLADE_LEASE takes effect. -/
def leaseNow (f : InFlight) (s : State) : State :=
  let p := f.payload
  let slot : Fin 32 := Fin.ofNat 32 f.target.idx
  let o := leaseOwner slot (pU p 17 1)
  let ids := leaseLeaves p
  let standby := bit (pU p 18 1) 0
  let len := leaseNeed s standby ids
  match tabFree s.glade.leases 128, placeLease s (pU p 19 1) len with
  | some k, some base =>
    let bytes := ids.map (fun i => BitVec.ofNat 8 i)
    let l : Lease := { base := base, words := len, slot := slot, owner := o, leaves := bytes, standby := standby }
    let s := modGlade s (fun g => { g with leases := tabPut g.leases k l })
    let s := zeroWords base len s
    let s := bytes.foldl (resetLeaf o) s
    let s := leaseChange k o len s
    complete f.id stOK (k + 256 * base : Nat) len (some (nowStamp s)) s
  | _, _ => s

/-! ### Release -/

/-- R169: the leaves that an owner runs. -/
def runningLeaves (s : State) (o : Owner) : List Nat :=
  match o with
  | .slot n =>
    match s.axis.slots[n].bind with
    | some b => if s.axis.slots[n].mode = .off then [] else b.curLeaf.toNat :: b.leaves.map BitVec.toNat
    | none => []
  | .lattice n => if ltcArmed s.pins.ltc[n] then [0x28] else []

/-- R169: whether a lease serves a leaf that its owner runs. -/
def leaseInUse (s : State) (l : Lease) : Bool := l.leaves.any (fun i => (runningLeaves s l.owner).contains i.toNat)

/-- R169: the leases that a GLADE_RELEASE names. -/
def releaseSet (f : InFlight) (s : State) : List (Nat × Lease) :=
  let p := f.payload
  let slot : Fin 32 := Fin.ofNat 32 f.target.idx
  if pU p 16 1 = 0 then
    s.glade.leases.filter (fun l => l.1 == pU p 17 1 && l.2.slot == slot)
  else leasesOf s (leaseOwner slot (pU p 18 1))

/-- R169: the field checks of GLADE_RELEASE. -/
def releaseFieldCheck (f : InFlight) : Option (Nat × Int) :=
  let p := f.payload
  let owner := pU p 18 1
  firstFail [resv p 19 63, inval (decide (1 < pU p 16 1)) 16, inval (pU p 16 1 == 0 && decide (127 < pU p 17 1)) 17,
    inval (pU p 16 1 == 1 && owner != 0 && (decide (owner < 0x80) || decide (0x83 < owner))) 18]

/-- R167, R169: the remaining checks of GLADE_RELEASE. -/
def releaseStateCheck (f : InFlight) (s : State) : Option (Nat × Int) :=
  let p := f.payload
  let set := releaseSet f s
  firstFail ([(pU p 16 1 == 0 && set.isEmpty, 0x0080, (pU p 17 1 : Int))]
    ++ set.map (fun l => (leaseInUse s l.2, 0x0081, (l.1 : Int))))

/-- A lease leaves the table: its words are zeroed and free at one instant. -/
def freeLease (s : State) (l : Nat × Lease) : State :=
  let s := zeroWords l.2.base l.2.words s
  let s := modGlade s (fun g => { g with leases := tabDel g.leases l.1 })
  let s := l.2.leaves.foldl (resetLeaf l.2.owner) s
  leaseChange l.1 l.2.owner l.2.words s

/-- R169: GLADE_RELEASE takes effect. -/
def releaseNow (f : InFlight) (s : State) : State :=
  let set := releaseSet f s
  let words : Nat := (set.map (fun l => l.2.words)).foldl (· + ·) 0
  let s := set.foldl freeLease s
  complete f.id stOK words 0 (some (nowStamp s)) s

/-! ### Thinning -/

/-- R172: whether a lease's owner is in OFF or an unarmed lattice. -/
def ownerIdle (s : State) (o : Owner) : Bool :=
  match o with
  | .slot n => s.axis.slots[n].mode == .off
  | .lattice n => !ltcArmed s.pins.ltc[n]

/-- R171: where a lease goes: mode 0, the lowest address after the previous lease. -/
def thinDest (s : State) (l : Lease) (dest : Option Nat) : Nat :=
  match dest with
  | some d => d
  | none => ((s.glade.leases.filter (fun x => decide (x.2.base < l.base))).map (fun x => x.2.base + x.2.words)).foldl max 0

/-- R172, R173: a lease copied and its mapping switched. -/
def moveLease (k : Nat) (l : Lease) (dest : Nat) (s : State) : State :=
  let inside (a : Nat) : Bool := decide (l.base ≤ a) && decide (a < l.base + l.words)
  let vals := (s.glade.words.filter (fun w => inside w.1)).map (fun w => (w.1 - l.base + dest, w.2))
  let bads := (s.glade.bad.filter inside).map (fun a => a - l.base + dest)
  let s := countRange dest l.words (countRange l.base l.words s)
  let s := modGlade s (fun g => { g with
    words := vals.foldl (fun ws w => cellPut zero0 ws w.1 w.2) (g.words.filter (fun w => !inside w.1))
    bad := g.bad.filter (fun a => !inside a) ++ bads
    fog := g.fog.filter (fun a => !inside a) ++ (g.fog.filter inside).map (fun a => a - l.base + dest)
    leases := tabPut g.leases k { l with base := dest }
    thin := g.thin.map (fun t => { t with moved := t.moved + 1 }) })
  leaseChange k l.owner l.words s

/-- R171: the thin has ended. -/
def thinDone (t : Thin) (s : State) : State :=
  let s := modGlade s (fun g => { g with thin := none })
  let run := longestRun s
  let s := emit { source := 93, sev := .note, payload := b1 t.moved ++ b1 t.skipped ++ leBytes 2 run } s
  complete t.desc stOK t.moved (run + 65536 * t.skipped : Nat) (some (nowStamp s)) s

/-- R171, R172: the leases of a thin whose owner is idle, or that need not move, are dealt with at once, one after the
other; it stops at a lease that must wait for a gap. R177: a poisoned lease can only be released, so it stays (log 33). -/
def thinRun : Nat → State → State
  | 0, s => s
  | fuel + 1, s =>
    match s.glade.thin with
    | none => s
    | some t =>
      match t.todo with
      | [] => thinDone t s
      | k :: rest =>
        let pop (s : State) : State := modGlade s (fun g => { g with
          thin := g.thin.map (fun t => { t with todo := rest, waited := 0 }) })
        match tabGet s.glade.leases k with
        | none => thinRun fuel (pop s)
        | some l =>
          let dest := thinDest s l t.dest
          if dest = l.base ∨ l.poisoned then thinRun fuel (pop s)
          else if ownerIdle s l.owner then thinRun fuel (pop (moveLease k l dest s))
          else s

/-- R171: the checks of GLADE_THIN. -/
def thinFieldCheck (f : InFlight) : Option (Nat × Int) :=
  let p := f.payload
  firstFail [resv p 20 63, inval (decide (1 < pU p 16 1)) 16, inval (pU p 16 1 == 1 && decide (127 < pU p 17 1)) 17,
    inval (pU p 16 1 == 1 && pU p 18 2 % 8 != 0) 18]

def thinStateCheck (f : InFlight) (s : State) : Option (Nat × Int) :=
  let p := f.payload
  if pU p 16 1 = 0 then none
  else
    let dest := pU p 18 2
    match tabGet s.glade.leases (pU p 17 1) with
    | none => some (0x0080, pU p 17 1)
    | some l =>
      let free := (freeRuns s).any (fun r => decide (r.1 ≤ dest) && decide (dest + l.words ≤ r.1 + r.2))
      if free then none else some (stPayload, 18)

/-- R171: a GLADE_THIN starts. -/
def thinNow (f : InFlight) (s : State) : State :=
  let p := f.payload
  let order := (sortBy (fun (a b : Nat × Lease) => decide (a.2.base ≤ b.2.base)) s.glade.leases).map (fun l => l.1)
  let t : Thin := if pU p 16 1 = 0 then { desc := f.id, dest := none, todo := order }
    else { desc := f.id, dest := some (pU p 18 2), todo := [pU p 17 1] }
  let s := takesEffect f.id (nowStamp s) s
  thinRun 130 (modGlade s (fun g => { g with thin := some t }))

/-- The effect of a lease, release or thin descriptor whose field checks passed. -/
def gladeNow (f : InFlight) (s : State) : State :=
  let (chk, eff) := match f.opcode.toNat with
    | 0x50 => (leaseStateCheck f s, leaseNow f)
    | 0x51 => (releaseStateCheck f s, releaseNow f)
    | _ => (thinStateCheck f s, thinNow f)
  match chk with
  | some (st, d) => reject f.id st d s
  | none => eff s

/-- R173: the deferred descriptors take effect in order of acceptance, until a thin is in progress again. -/
def runDeferred : Nat → State → State
  | 0, s => s
  | fuel + 1, s =>
    if s.glade.thin.isSome then s
    else match s.glade.deferred with
      | [] => s
      | id :: rest =>
        let s := modGlade s (fun g => { g with deferred := rest })
        runDeferred fuel (match flightOf s id with
          | some f => gladeNow f s
          | none => s)

/-- R173: a lease, release or thin descriptor is accepted: it takes effect, or waits for the thin in progress. -/
def gladeAccept (f : InFlight) (s : State) : State :=
  if s.glade.thin.isSome then modGlade s (fun g => { g with deferred := g.deferred ++ [f.id] })
  else runDeferred 600 (gladeNow f s)

/-- R172: the lease that waits for a gap. -/
def thinHead (s : State) : Option (Nat × Lease × Thin) :=
  match s.glade.thin with
  | some t => match t.todo with
    | k :: _ => (tabGet s.glade.leases k).map (fun l => (k, l, t))
    | [] => none
  | none => none

/-- R172: every job of the owner has committed, and the next sample of its every schedule leaves time for the copy. -/
def gapNow (s : State) (l : Lease) : Bool :=
  let need : Int := (80 * l.words + 3200 : Nat)
  let idle := !(s.canopy.queue.any (fun j => j.owner == l.owner))
    && !(s.canopy.lanes.toList.any (fun x => match x.run with
      | some r => r.job.owner == l.owner
      | none => false))
  let clear (d : Dom) (sc : SchedSt) : Bool := sc.forming.isNone && (match sc.next with
    | some t => decide (need ≤ toD0 s ⟨d, t⟩ - s.time.now)
    | none => true)
  idle && (match l.owner with
    | .slot n => clear (slotDom s n) s.axis.slots[n].curSched && clear (slotDom s n) s.axis.slots[n].outSched
    | .lattice n => match s.pins.ltc[n].cfg with
      | some c => clear (slotDom s c.slot) s.pins.ltc[n].sched
      | none => true)

/-- R172: in a gap the lease is copied and its mapping switched. -/
def thinCopyEff (s : State) : State :=
  match thinHead s with
  | some (k, l, t) =>
    if gapNow s l ∧ t.waited < 64 then
      let s := moveLease k l (thinDest s l t.dest) s
      let s := modGlade s (fun g => { g with thin := g.thin.map (fun t => { t with todo := t.todo.tail, waited := 0 }) })
      runDeferred 600 (thinRun 130 s)
    else s
  | none => s

/-- R172: no gap has come within 64 samples, and the lease stays where it is. -/
def thinSkipEff (s : State) : State :=
  match thinHead s with
  | some (_, _, t) =>
    if 64 ≤ t.waited then
      let s := modGlade s (fun g => { g with
        thinSkips := g.thinSkips + 1
        thin := g.thin.map (fun t => { t with todo := t.todo.tail, waited := 0, skipped := t.skipped + 1 }) })
      runDeferred 600 (thinRun 130 s)
    else s
  | none => s

/-- R172: a sample of an owner's schedule passes; it counts for the lease that waits while the schedule is the owner's
fastest. -/
def thinSample (o : Owner) (fastest : Bool) (s : State) : State :=
  match thinHead s with
  | some (_, l, _) =>
    if l.owner = o ∧ fastest then
      modGlade s (fun g => { g with thin := g.thin.map (fun t => { t with waited := t.waited + 1 }) })
    else s
  | none => s

/-- R168: the words missing for leaves of an owner; 0 when each has its lease. -/
def leaseShort (s : State) (o : Owner) (leaves : List Nat) : Nat :=
  let held := (leasesOf s o).flatMap (fun l => l.2.leaves.map BitVec.toNat)
  ((leaves.filter (fun i => !held.contains i)).map (fun i => granule ((leafWords s false i).getD 0))).foldl (· + ·) 0

/-! ### Load (R175) -/

/-- R175: a load window closes. -/
def gladeLoadEff (s : State) : State :=
  let g := s.glade
  if s.time.now < g.windowFrom + msLsb then s
  else
    let acc := g.accesses.toList
    let total := acc.foldl (· + ·) 0
    let top := acc.foldl max 0
    let bank := (acc.findIdx? (fun x => x == top)).getD 0
    let pct := min 100 (total / 12000)
    let bpct := min 100 (top / 1500)
    let s := modGlade s (fun g => { g with
      accesses := Vector.replicate 8 0, windowFrom := s.time.now / msLsb * msLsb
      loadTotal := pct, loadBankPct := bpct, loadBank := bank })
    if 900000 < total ∨ 112500 < top then
      let h : Hap := { source := 94, sev := .warning, payload := b1 pct ++ b1 bank ++ b1 bpct }
      emitLim (100 * msLsb) 0 (fun _ => h) s
    else s

/-! ### Check bits of the Glade (R176, R177) -/

/-- R172: a lease that waits moves at once when its owner turns idle. -/
def thinSettle (s : State) : State := if s.glade.thin.isSome then runDeferred 600 (thinRun 130 s) else s

/-- R177: the stop group of the slot behind a lease. -/
def leaseGroup (s : State) (l : Lease) : Option (Fin 8) :=
  match l.owner with
  | .slot n => groupOf s n
  | .lattice n => match s.pins.ltc[n].cfg with
    | some c => groupOf s c.slot
    | none => groupOf s l.slot

/-- R184: the payload of GLADE_ECC. -/
def gladeEccHap (s : State) (a : Nat) (sev : Sev) : Hap :=
  match leaseAt s a with
  | some (k, l) => { source := 91, sev := sev, idx := k, payload := leBytes 2 a ++ b1 k ++ b1 (ownerByte l.owner) }
  | none => { source := 91, sev := sev, idx := 0xFF, payload := leBytes 2 a ++ b1 0xFF ++ b1 0xFF }

/-- R176, R174: a corrected error, and the write-back. -/
def gladeFixed (a : Nat) (s : State) : State :=
  let s := countRange a 1 (modGlade s (fun g => { g with eccFixed := satU 16 (g.eccFixed + 1) }))
  emit { gladeEccHap s a .note with logged := true } s

/-- R177: an uncorrectable error. -/
def gladeUncorrectable (a : Nat) (s : State) : State :=
  let s := modGlade s (fun g => { g with eccBad := satU 16 (g.eccBad + 1) })
  match leaseAt s a with
  | none =>
    let s := countRange a 1 (modGlade s (fun g => { g with words := cellPut zero0 g.words a 0, bad := g.bad.filter (· != a) }))
    emit (gladeEccHap s a .warning) s
  | some (k, l) =>
    let s := modGlade s (fun g => { g with
      leases := tabPut g.leases k { l with poisoned := true }
      bad := if g.bad.contains a then g.bad else g.bad ++ [a] })
    let gs := (leaseGroup s l).toList
    let mask := BitVec.ofNat 8 (ofMask ((List.finRange 8).map (fun g => gs.contains g)))
    let (s, r, go) := raiseHap s { gladeEccHap s a .fault with
      handler := 2, action := if gs = [] then none else some (.ss1 mask) }
    let s := if go then requestAll 4 r gs s else s
    voidCause 0 r s

/-- R183: the scrub interval in LSB. -/
def scrubLen (s : State) : Nat := max 1 (regF s 0x400C 7 0) * 100 * msLsb

/-- R176, R178: the scrubber reads a word of the Glade, or of the Folio, once in each interval; none where it already has. -/
def scrubTurn (folio : Bool) (a : Nat) (s : State) : Option State :=
  let fresh := decide (s.glade.scrubFrom + scrubLen s ≤ s.time.now)
  let seen := if fresh then [] else s.glade.scrubbed
  if seen.contains (folio, a) then none
  else some (modGlade s (fun g => { g with
    scrubbed := (folio, a) :: seen, scrubFrom := if fresh then s.time.now / scrubLen s * scrubLen s else g.scrubFrom }))

/-- R172, R176, R177: THIN_MOVE: the copy, with what the check bits of one of its words show. -/
def thinMoveEff (hit : Option (Nat × Ecc)) (s : State) : State :=
  match thinHead s, hit with
  | some (_, l, t), some (o, e) =>
    if gapNow s l ∧ t.waited < 64 ∧ o < l.words then
      match e with
      | .clean => thinCopyEff s
      | .corrected => thinCopyEff (gladeFixed (l.base + o) s)
      | .bad => thinSettle (gladeUncorrectable (l.base + o) s)
    else thinCopyEff s
  | _, _ => thinCopyEff s

/-- R176, R177: what the scrubber finds in a Glade word. -/
def gladeScrub (a : Nat) (e : Ecc) (s : State) : State :=
  if 6144 ≤ a then s
  else match scrubTurn false a s with
  | none => s
  | some s =>
    let s := countRange a 1 s
    match e with
    | .clean => s
    | .corrected => gladeFixed a s
    | .bad => gladeUncorrectable a s

/-! ### Folio (R178–R182) -/

/-- The entry of a Folio address. -/
def folioWord (s : State) (a : Nat) : Int := sext 24 (cellGet zero0 s.glade.folio a)

/-- R139: entry `i` of a table, the last one beyond its end. -/
def folioEntry (s : State) (t : Table) (i : Nat) : Int := folioWord s (t.base + min i (t.len - 1))

/-- Whether a table holds a poisoned entry (R183). -/
def tablePoisoned (s : State) (t : Table) : Bool :=
  s.glade.folioBad.any (fun a => decide (t.base ≤ a) && decide (a < t.base + t.len))

/-- R134, R137: a word of program RAM, by word offset. -/
def ramWord (s : State) (o : Nat) : Nat := cellGet zero0 s.canopy.ram o

/-- R178: the tables that a leaf's LDF instructions name. -/
def ldfTables (s : State) (id : Nat) : List Nat :=
  match tabGet s.canopy.leaves id with
  | some u => ((List.range (u.last + 1 - u.entry)).filterMap (fun i =>
      let w := ramWord s (u.entry + i)
      if bits w 31 26 = 0x0A then some (bits w 4 0) else none))
  | none => []

/-- R178, R270: whether a table is in use. -/
def tableInUse (s : State) (t : Nat) : Bool :=
  s.axis.slots.toList.any (fun sl => sl.mode != .off && (match sl.bind with
    | some b => b.compTable == some t || b.repTable == some t || (sl.source == .cam && sl.gear.table == t)
        || (b.curLeaf.toNat :: b.leaves.map BitVec.toNat).any (fun i => (ldfTables s i).contains t)
    | none => false))
  || (List.range 2).any (fun p => regB s (portBase p + 0x2C) 0 && regF s (portBase p + 0x2C) 5 1 == t)
  || ((s.quire.state == .armed || s.quire.state == .triggered) && (match s.quire.cfg with
    | some c => c.maskLo == some t || c.maskHi == some t
    | none => false))

/-- R179: the checks of FOLIO_WRITE. -/
def folioWriteCheck (f : InFlight) (s : State) : Option (Nat × Int) :=
  let p := f.payload
  let t := f.target.idx
  let mode := pU p 28 1
  let base := pU p 30 2
  let len := pU p 32 2
  let count := pU p 26 2
  let tab := tabGet s.glade.tables t
  let clash := s.glade.tables.find? (fun x => x.1 != t && decide (x.2.base < base + len) && decide (base < x.2.base + x.2.len))
  let size := if mode = 1 then len else (tab.map (fun x => x.len)).getD 0
  firstFail [resv p 29 29, resv p 34 63, inval (pU p 16 8 % 4 != 0) 16,
    inval ((mode == 0 && count == 0) || (mode == 2 && count != 0)) 26, inval (decide (2 < mode)) 28,
    inval (mode == 1 && decide (16383 < base)) 30,
    inval (mode == 1 && (decide (len < 2) || decide (16384 < len) || decide (16384 < base + len))) 32,
    (mode != 1 && tab.isNone, 0x0081, 0), inval (mode != 2 && decide (size < pU p 24 2 + count)) 24,
    denied (mode != 0 && tableInUse s t) 0,
    (mode == 1 && clash.isSome, 0x0080, ((clash.map (fun x => x.1)).getD 0 : Nat))]

/-- R180: how many entries from `first` on stand when `got` have arrived: whole aligned blocks of 8 indices. -/
def wholeBlocks (first count got : Nat) : Nat :=
  if count ≤ got then count else (first + got) / 8 * 8 - first

/-- R179, R180: FOLIO_WRITE takes effect. -/
def folioWriteNow (f : InFlight) (s : State) : State :=
  let p := f.payload
  let t := f.target.idx
  let first := pU p 24 2
  let count := pU p 26 2
  match pU p 28 1 with
  | 2 =>
    let s := modGlade s (fun g => { g with tables := tabDel g.tables t })
    complete f.id stOK 0 0 (some (nowStamp s)) s
  | mode =>
    let s := if mode = 1 then
        modGlade s (fun g => { g with tables := tabPut g.tables t { base := pU p 30 2, len := pU p 32 2 } })
      else s
    let base := ((tabGet s.glade.tables t).map (fun x => x.base)).getD 0 + first
    let got := min count (f.buf.data.length / 4)
    let n := wholeBlocks first count got
    let vals := (List.range n).map (fun i => leAt f.buf.data (4 * i) 3)
    let s := modGlade s (fun g => { g with
      folio := cellPuts zero0 g.folio base vals
      folioBad := g.folioBad.filter (fun a => !(decide (base ≤ a) && decide (a < base + n))) })
    if f.buf.ok ∧ 4 * count ≤ f.buf.data.length then complete f.id stOK count 0 (some (nowStamp s)) s
    else complete f.id stBufferDma n (min f.buf.data.length (4 * count) : Nat)
      (if n = 0 ∧ mode ≠ 1 then none else some (nowStamp s)) s

/-- R181: the checks of FOLIO_READ. -/
def folioReadCheck (f : InFlight) (s : State) : Option (Nat × Int) :=
  let p := f.payload
  let tab := tabGet s.glade.tables f.target.idx
  firstFail [resv p 28 63, inval (pU p 16 8 % 4 != 0) 16, (tab.isNone, 0x0081, 0),
    inval (decide ((tab.map (fun x => x.len)).getD 0 < pU p 24 2 + pU p 26 2)) 24]

/-- R94: the ledger entry of the first fault of a source, as its ledger in bits [15:8] and its index in bits [7:0]. -/
def eccEntry (s : State) (source : Nat) : Int :=
  match (allEntries s).find? (fun e => e.2.source == source && e.2.level == .fault) with
  | some (r, _) => ((256 * r.ledger + r.index : Nat) : Int)
  | none => 0xFFFF

/-- R181, R94: FOLIO_READ takes effect. -/
def folioReadNow (f : InFlight) (s : State) : State :=
  let p := f.payload
  let count := pU p 26 2
  match tabGet s.glade.tables f.target.idx with
  | none => s
  | some t =>
    let base := t.base + pU p 24 2
    if s.glade.folioBad.any (fun a => decide (base ≤ a) && decide (a < base + count)) then
      complete f.id stUncorrectable 0 (eccEntry s 95) none s
    else if !f.buf.ok then complete f.id stBufferDma 0 (min f.buf.data.length (4 * count) : Nat) none s
    else
      let data := (List.range count).flatMap (fun i => leBytes 4 (toW 32 (folioWord s (base + i))))
      let s := hostWrite f (pU p 16 8) data s
      complete f.id stOK count 0 (some (nowStamp s)) s

/-- R182: a Folio entry found in error. -/
def folioEcc (a : Nat) (e : Ecc) (s : State) : State :=
  if 16384 ≤ a then s
  else
    let t := ((s.glade.tables.find? (fun x => decide (x.2.base ≤ a) && decide (a < x.2.base + x.2.len))).map (fun x => x.1)).getD 0xFF
    let pay := leBytes 2 a ++ b1 t
    match e with
    | .clean => s
    | .corrected =>
      emit { source := 95, sev := .note, logged := true, idx := t, payload := pay }
        (modGlade s (fun g => { g with folioFixed := satU 16 (g.folioFixed + 1) }))
    | .bad =>
      let s := modGlade s (fun g => { g with
        folioEccBad := satU 16 (g.folioEccBad + 1), folioBad := if g.folioBad.contains a then g.folioBad else g.folioBad ++ [a] })
      let (s, r, _) := raiseHap s { source := 95, sev := .fault, idx := t, payload := pay }
      voidCause 0 r s

/-- R178: what the scrubber finds in a Folio entry. -/
def folioScrub (a : Nat) (e : Ecc) (s : State) : State :=
  if 16384 ≤ a then s
  else match scrubTurn true a s with
    | none => s
    | some s => folioEcc a e s

end Sys2Proof.Machine
end

