-- ==== Sys2Proof/Machine/Feedback.lean ====
section
/-!
DEFINITION. Position and speed feedback (09): quadrature and Hall decoding (R254–R257, R265, R266), position and speed
at a sample (R258–R260), wraps (R261), re-references (R262–R264), remote channels (R267–R269) and pitch-error
compensation (R270, R271).
-/

namespace Sys2Proof.Machine

/-- The feedback of a slot changed. -/
def modFbk (s : State) (n : Fin 32) (f : FbSt → FbSt) : State := modSlot s n (fun sl => { sl with fb := f sl.fb })

/-! ### Set-up -/

/-- R22, R273, R490: whether a port's decoding is in service: with understory service, until its CFG is first written. -/
def portOn (s : State) (p : Fin 3) : Bool :=
  !isolated s (.port p) && (regB s (portBase p) 0 || (s.chip.understory && !s.axis.ports[p].ownCfg))

/-- R254, R273: the filter window of a port in LSB. -/
def portWindow (s : State) (p : Fin 3) : Nat := max 4 (regF s (portBase p) 9 2) * 160

/-- R260: the standstill timeout of a port in LSB. -/
def portTimeout (s : State) (p : Fin 3) : Nat := max 1 (regF s (portBase p) 31 16) * 160000

/-- R252, R189: the slots that use a port: code 1 to 3; a band slot by its band_src. -/
def sourceSlots (s : State) (code : Nat) : List (Fin 32) :=
  (List.finRange 32).filter (fun n => match s.axis.slots[n].bind with
    | some b => (b.fbSource == code && (b.kind == .servo || b.kind == .step))
        || (b.kind == .band && decide (b.bandSrc ≤ 2) && (if b.bandSrc = 0 then 3 else b.bandSrc) == code)
    | none => false)

/-- R252: the local port of a source code. -/
def portOf (code : Nat) : Option (Fin 3) := if 1 ≤ code ∧ code ≤ 3 then some (Fin.ofNat 3 (code - 1)) else none

/-! ### Endpoint channels (R253) -/

/-- R329: the endpoint and axis that drive a slot. -/
def axisOf (s : State) (n : Fin 32) : Option (Fin 12 × Nat) :=
  (List.finRange 12).findSome? (fun e => match s.link.eps[e].bind with
    | some b => if b.axis0 = some n then some (e, 0) else if b.axis1 = some n then some (e, 1) else none
    | none => none)

/-- R252: the slot's channel of its endpoint axis. -/
def fbChannel (b : Binding) : Option Nat := if b.fbSource = 0x10 ∨ b.fbSource = 0x11 then some (b.fbSource - 0x10) else none

/-- R253: the number of the endpoint channel that a slot takes its feedback from: endpoint, axis and channel. -/
def chanOf (s : State) (n : Fin 32) : Option Nat :=
  match axisOf s n, s.axis.slots[n].bind.bind fbChannel with
  | some (e, a), some c => some ((e.val * 2 + a) * 2 + c)
  | _, _ => none

/-- R253: C of an endpoint channel source; 0 while the slot has none. -/
def chanC (s : State) (n : Fin 32) : BitVec 32 :=
  match chanOf s n with
  | some k => BitVec.ofNat 32 (cellGet zero0 s.axis.chans k)
  | none => 0

/-- R253: C of an endpoint channel moves on. -/
def putChan (s : State) (n : Fin 32) (c : BitVec 32) : State :=
  match chanOf s n with
  | some k => { s with axis := { s.axis with chans := cellPut zero0 s.axis.chans k c.toNat } }
  | none => s

/-- R253: the raw counter C of a slot's source. -/
def slotC (s : State) (n : Fin 32) : BitVec 32 :=
  match s.axis.slots[n].bind.bind (fun b => portOf b.fbSource) with
  | some p => s.axis.ports[p].c
  | none => chanC s n

/-! ### Counting -/

/-- R261: a counter passes between 0xFFFF_FFFF and 0: the slots raise FB_WRAP with the direction, +1 or −1, and the stamp of
the edge, which is the present instant, or of the reading. -/
def raiseWrap (slots : List (Fin 32)) (dir : Int) (c : BitVec 32) (at' : Option Stamp) (s : State) : State :=
  slots.foldl (fun s n =>
    let s := modFbk s n (fun f => { f with wraps := wrapS 32 (f.wraps + dir) })
    emit { slotHap n .note 0x30 (sgnBytes 1 dir ++ leBytes 4 c.toNat) with stamp := at' } s) s

/-- R253, R261: the change of a 32-bit counter, and the direction of its wrap, 0 without one. -/
def countBy (c : BitVec 32) (d : Int) : BitVec 32 × Int :=
  let x : Int := c.toNat + d
  (BitVec.ofInt 32 x, if x < 0 then -1 else if 2 ^ 32 ≤ x then 1 else 0)

/-- R255, R261: a port's counter changes by counted movement; the wrap that this makes is noted. -/
def portCount (p : Fin 3) (d : Int) (s : State) : State :=
  let (c, w) := countBy s.axis.ports[p].c d
  modPort s p (fun q => { q with c := c, wraps := if w = 0 then q.wraps else q.wraps ++ [(w, c, s.time.now)] })

/-- R261, R256: the wraps of the ports whose edges can no longer turn out to be half of a skip are raised. -/
def wrapSettle (s : State) : State :=
  (List.finRange 3).foldl (fun s p =>
    let ripe (x : Int × BitVec 32 × Nat) : Bool := p == 2 || decide (x.2.2 + portWindow s p ≤ s.time.now)
    (s.axis.ports[p].wraps.filter ripe).foldl
      (fun s x => raiseWrap (sourceSlots s (p.val + 1)) x.1 x.2.1 (some ⟨.d0, BitVec.ofNat 64 x.2.2⟩) s)
      (modPort s p (fun q => { q with wraps := q.wraps.filter (fun x => !ripe x) }))) s

/-- R258: how far back the edges of a port are kept, 100 ms, which no sample or trigger waits for its position; the two before that
are kept with them. -/
def edgeSpan : Nat := 100 * msLsb

/-- R258: the edges that a position or speed may still need, newest first. -/
def recentEdges (now : Nat) (es : List CountEdge) : List CountEdge :=
  let young := es.takeWhile (fun e => decide (now < e.t + edgeSpan))
  young ++ (es.drop young.length).take 2

/-- R258: an accepted counting edge noted. -/
def noteEdge (p : Fin 3) (neg : Bool) (s : State) : State :=
  let idle (q : Port) : Bool := match q.last with
    | some t => decide (t + portTimeout s p ≤ s.time.now)
    | none => true
  modPort s p (fun q => { q with
    edges := recentEdges s.time.now ({ t := s.time.now, neg := neg, c := q.c } :: q.edges), startWas := q.start
    start := if idle q then some { t := s.time.now, neg := neg, c := q.c } else q.start
    last := some s.time.now, neg := neg, standstill := false })

/-- R254: both transitions of a line that returns within the window are discarded. -/
def portGlitch (p : Fin 3) (s : State) : State :=
  let s := modPort s p (fun q => { q with glitches := q.glitches + 1 })
  emitLim msLsb p (fun held => { source := 153, sev := .note, logged := true, idx := p, payload := b1 p ++ cnt1 held }) s

/-- R256, R266: a skip: C keeps its value, and the port and its slots count it. -/
def countSkip (p : Fin 3) (s : State) : State :=
  let s := modPort s p (fun q => { q with skips := q.skips + 1, last := some s.time.now, standstill := false, startWas := q.start })
  (sourceSlots s (p.val + 1)).foldl (fun s n => modFbk s n (fun f => { f with skips := f.skips + 1 })) s

/-- R256: an edge that turns out to be half of a skip is not counted: C, the direction, the edge that a standstill ended with and a Z
recorded since are as they were. -/
def undoEdge (p : Fin 3) (e : CountEdge) (s : State) : State :=
  modPort s p (fun q =>
    let c := if e.neg then q.c + 1 else q.c - 1
    let before := q.edges.tail
    { q with c := c, edges := before, start := q.startWas, wraps := q.wraps.filter (fun x => x.2.2 != e.t)
             neg := ((before.head?).map (fun b => b.neg)).getD false
             zCount := if q.zSeen && decide (e.t ≤ q.zStamp.toNat) then c else q.zCount })

/-- R255: the place of an (A, B) state in the Gray sequence. -/
def grayIndex (a b : Bool) : Nat :=
  match a, b with
  | false, false => 0 | false, true => 1 | true, true => 2 | true, false => 3

/-- R254–R256: a transition of a counting line of a quadrature port, which holds its new level for `held` LSB. -/
def encEdgeEff (p : Fin 2) (line : EncLine) (held : Nat) (s : State) : State :=
  let p : Fin 3 := ⟨p.val, by omega⟩
  let q := s.axis.ports[p]
  let w := portWindow s p
  if held < w then (if portOn s p then portGlitch p s else s)
  else
    let i := match line with
      | .a => 1
      | .b => 0
    let lines := q.lines ^^^ BitVec.ofNat 3 (2 ^ i)
    let other := match line with
      | .a => q.lastB
      | .b => q.lastA
    let stamp (s : State) : State := modPort s p (fun q => { q with
      lines := lines,
      lastA := if line = .a then some s.time.now else q.lastA,
      lastB := if line = .b then some s.time.now else q.lastB })
    if !portOn s p then stamp s
    else
      let near := match other with
        | some t => decide (s.time.now < t + w)
        | none => false
      let inv : Int := if regB s (portBase p) 1 then -1 else 1
      if near then
        let s := match q.edges.head? with
          | some e => if some e.t = other then undoEdge p e s else s
          | none => s
        let s := countSkip p (stamp s)
        let pay (held : Nat) : List Byte := b1 p ++ b1 (q.lines.toNat % 4) ++ b1 (lines.toNat % 4) ++ cnt1 held
        emitLim msLsb p (fun held => { source := 152, sev := .warning, idx := p, payload := pay held }) s
      else
        let old := grayIndex (q.lines.getLsbD 1) (q.lines.getLsbD 0)
        let new := grayIndex (lines.getLsbD 1) (lines.getLsbD 0)
        let d : Int := (if new = (old + 1) % 4 then 1 else -1) * inv
        noteEdge p (decide (d < 0)) (portCount p d (stamp s))

/-- R257: a transition of a Z line; whether a Z was recorded. -/
def encZEdge (p : Fin 2) (held : Nat) (s : State) : State × Bool :=
  let p : Fin 3 := ⟨p.val, by omega⟩
  let cfg := portBase p
  let q := s.axis.ports[p]
  if !portOn s p || !regB s cfg 10 then (modPort s p (fun q => { q with lines := q.lines ^^^ 4 }), false)
  else if held < portWindow s p then (portGlitch p s, false)
  else
    let level := !q.lines.getLsbD 2
    let s := modPort s p (fun q => { q with lines := q.lines ^^^ 4 })
    let active := level != regB s cfg 12
    if !active then (modPort s p (fun q => { q with zReady := true }), false)
    else if q.zReady && (!regB s cfg 11 || (q.lines.getLsbD 0 && q.lines.getLsbD 1)) then
      let s := modPort s p (fun q => { q with
        zReady := false, zSeen := true, zStamp := BitVec.ofNat 64 s.time.now, zCount := q.c })
      (if regB s cfg 13 then
        emit { source := 154, sev := .note, idx := p, payload := b1 p ++ leBytes 4 q.c.toNat } s else s, true)
    else (s, false)

/-- R265: the sector of a Hall state; none for 000 and 111. -/
def hallSector (x : BitVec 3) : Option (Fin 6) :=
  match x.toNat with
  | 1 => some 0 | 3 => some 1 | 2 => some 2 | 6 => some 3 | 4 => some 4 | 5 => some 5 | _ => none

/-- R265, R266, R361: a transition of the Hall lines to a state that holds for `held` LSB. -/
def hallEdgeEff (lines : BitVec 3) (held : Nat) (s : State) : State :=
  let p : Fin 3 := 2
  let q := s.axis.ports[p]
  if held < portWindow s p then (if portOn s p then portGlitch p s else s)
  else if !portOn s p then modPort s p (fun q => { q with lines := lines })
  else
    let s := modPort s p (fun q => { q with lines := lines })
    match hallSector lines with
    | none =>
      let s := modPort s p (fun q => { q with invalid := q.invalid + 1 })
      let s := hallInvalidNow s
      emitLim msLsb 0 (fun held => { source := 155, sev := .warning
                                     payload := b1 lines.toNat ++ b1 q.valid.toNat ++ cnt1 held }) s
    | some k =>
      let s := match q.sector with
        | none => modPort s p (fun q => { q with last := some s.time.now, standstill := false })
        | some j =>
          let inv : Int := if regB s (portBase p) 1 then -1 else 1
          let move := (k.val + 6 - j.val) % 6
          if move = 0 ∧ (hallSector q.lines).isSome then s
          else if move = 1 ∨ move = 5 then
            let d : Int := (if move = 1 then 1 else -1) * inv
            noteEdge p (decide (d < 0)) (portCount p d s)
          else
            let s := countSkip p s
            emitLim msLsb 0 (fun held => { source := 156, sev := .warning
                                           payload := b1 q.valid.toNat ++ b1 lines.toNat ++ cnt1 held }) s
      hallSectorEff k (modPort s p (fun q => { q with valid := lines, sector := some k }))

/-- R260: the standstill timeout of a port has passed without an edge. -/
def encStandstillEff (p : Fin 3) (s : State) : State :=
  let idle := match s.axis.ports[p].last with
    | some t => decide (t + portTimeout s p ≤ s.time.now)
    | none => decide (portTimeout s p ≤ s.time.now)
  if portOn s p && idle then modPort s p (fun q => { q with standstill := true }) else s

/-! ### Position and speed at an instant (R258, R259) -/

/-- R258: the fraction from the last two edges, each a stamp and a direction, at an instant `t`, in 2^-16 counts. -/
def fraction (t tk : Int) (negk : Bool) (before : Option (Int × Bool)) (timeout : Nat) : Int :=
  match before with
  | none => 0
  | some (tb, negb) =>
    if (timeout : Int) ≤ t - tk ∨ negk ≠ negb then 0
    else
      let f := min (roundDiv ((t - tk) * 65536) (max 1 (tk - tb)).toNat) 65535
      if negk then -f else f

/-- R258: the edges of a port at or before a D0 instant, newest first. -/
def edgesAt (q : Port) (t : Nat) : List CountEdge := q.edges.filter (fun e => decide (e.t ≤ t))

/-- R258: the counter after the last edge at or before a D0 instant. -/
def countAt (q : Port) (t : Nat) : BitVec 32 :=
  match edgesAt q t with
  | e :: _ => e.c
  | [] => match q.edges.getLast? with
    | some e => if e.neg then e.c + 1 else e.c - 1
    | none => q.c

/-- R258: raw position C + f of a local port at a D0 instant, 2^-16 counts. -/
def portRaw (s : State) (p : Fin 3) (t : Nat) : Int :=
  let q := s.axis.ports[p]
  let f := match edgesAt q t with
    | e :: b :: _ => fraction t e.t e.neg (some (b.t, b.neg)) (portTimeout s p)
    | _ => 0
  (countAt q t).toNat * 65536 + f

/-- V32 from counts over LSB, rounded to the nearest. -/
def speedOf (counts : Int) (lsb : Nat) : Int := satS 32 (roundDiv (counts * 4096000000) (max 1 lsb))

/-- R260: the edge a speed is measured from: the first one after a standstill where that is later than `k0`. -/
def baseEdge (k0 start : Option (BitVec 32 × Nat)) (t : Nat) : Option (BitVec 32 × Nat) :=
  match start with
  | none => k0
  | some (c, ts) =>
    match k0 with
    | none => if ts ≤ t then start else none
    | some (_, t0) => if t0 < ts ∧ ts ≤ t then some (c, ts) else k0

/-- R259, R260: combined count and period measurement. `k0`, `k1`: counter and stamp of the edges at the previous and at
this sample; `start`: the first edge after a standstill; `t`: this sample. -/
def speedRule (k0 start k1 : Option (BitVec 32 × Nat)) (t : Nat) (vPrev : Int) (timeout : Nat) (first : Bool) : Int :=
  match k1 with
  | none => 0
  | some (c1, t1) =>
    if first ∨ timeout ≤ t - t1 then 0
    else if k0 = k1 then sgn vPrev * min (vPrev.natAbs : Int) (speedOf 1 (t - t1))
    else match baseEdge k0 start t with
      | none => 0
      | some (c0, t0) => if t0 < t1 then speedOf (c1 - c0).toInt (t1 - t0) else 0

/-- R260: the first edge after a standstill of a port, counter and stamp. -/
def portStart (q : Port) : Option (BitVec 32 × Nat) := q.start.map (fun e => (e.c, e.t))

/-! ### Pitch-error compensation (R270, R271) -/

/-- R270: the index of a referenced position, its remainder and what that is a part of. -/
def pecIndex (x0 : Int) (step : Nat) (ref : Int) : Int × Int × Nat :=
  let d := wrapS 48 (ref - x0 * 65536)
  let den : Nat := max 1 step * 65536
  (Int.fdiv d den, Int.fmod d den, den)

/-- R270: the correction in 2^-16 counts and whether the index lies outside the table. -/
def pecValue (s : State) (t : Table) (x0 : Int) (step : Nat) (e : Int) (ref : Int) : Int × Bool :=
  let (i, r, den) := pecIndex x0 step ref
  let (c, out) : Int × Bool :=
    if i < 0 then (folioEntry s t 0 * den, true)
    else if (t.len : Int) - 1 ≤ i then (folioEntry s t (t.len - 1) * den, decide ((t.len : Int) - 1 < i) || r != 0)
    else
      let a := folioEntry s t i.toNat
      let b := folioEntry s t (i.toNat + 1)
      (a * den + r * (b - a), false)
  (if 0 ≤ e then roundDiv (c * 65536 * 2 ^ e.toNat) den else roundDiv (c * 65536) (den * 2 ^ (-e).toNat), out)

/-- R271: PEC_RANGE raised once until the index returns. -/
def pecReport (code : Nat) (ref : Int) (s : State) : State :=
  emit { source := 157, sev := .warning, idx := code, payload := b1 code ++ leBytes 6 (toW 48 ref) } s

/-- R270, R274: whether compensation is applied to a slot. -/
def pecActive (s : State) (n : Fin 32) : Bool := s.axis.slots[n].fb.pecSet.on

/-- R270: the compensation registers of a slot's source. -/
def pecRegs (s : State) (n : Fin 32) : PecSet :=
  let at' (base no : Nat) : PecSet := { on := regB s base 0, table := no, x0 := sext 32 (reg s (base + 4)), step := regF s (base + 8) 15 0
                                        e := sext 5 (regF s base 10 6) }
  match s.axis.slots[n].bind with
  | none => {}
  | some b =>
    match portOf b.fbSource, b.compTable with
    | some p, _ => if p.val < 2 then at' (portBase p + 0x2C) (regF s (portBase p + 0x2C) 5 1) else {}
    | none, some t => if b.fbSource = 0 then {} else at' (0x6100 + 0x10 * n) t
    | none, none => {}

/-- R270: the compensation registers as they stand take effect at a sample instant of their consumer. -/
def latchPec (n : Fin 32) (s : State) : State := modFbk s n (fun f => { f with pecSet := pecRegs s n })

/-- R270, R271: the correction of a slot at a referenced position; the reports it makes. -/
def pecOf (n : Fin 32) (ref : Int) (s : State) : Int × State :=
  match s.axis.slots[n].bind with
  | none => (0, s)
  | some b =>
    if !pecActive s n then (0, s)
    else
      let local' : Option (Fin 3) := match portOf b.fbSource with
        | some p => if p.val < 2 then some p else none
        | none => none
      let r := s.axis.slots[n].fb.pecSet
      let was : Bool := match local' with
        | some p => s.axis.ports[p].pecRange
        | none => s.axis.slots[n].fb.pecRange
      let flag (x : Bool) (s : State) : State := match local' with
        | some p => modPort s p (fun q => { q with pecRange := x })
        | none => modFbk s n (fun f => { f with pecRange := x })
      let code := match local' with
        | some p => p.val
        | none => 0x80 + n.val
      match tabGet s.glade.tables r.table with
      | none => (0, flag true (if was = true then s else pecReport code ref s))
      | some t =>
        let (c, out) := pecValue s t r.x0 r.step r.e ref
        let s := if out && !was then pecReport code ref s else s
        (c, flag out s)

/-- The correction alone, for a latch (R291). -/
def pecPure (s : State) (n : Fin 32) (ref : Int) : Int := (pecOf n ref s).1

/-- R253: the referenced position of a slot from its raw position, P48 as a signed value. -/
def refOf (f : FbSt) (raw : Int) : Int := wrapS 48 (raw - f.o)

/-! ### Re-references (R262–R264) -/

/-- R262: a re-reference recorded. `raw`: C + f at t_r. -/
def recordReref (n : Fin 32) (kind : Nat) (tr : T64) (raw r : Int) (s : State) : State :=
  let k := s.axis.rerefOrder
  let s := { s with axis := { s.axis with rerefOrder := k + 1 } }
  modFbk s n (fun f => { f with rerefs := f.rerefs ++ [{ kind := kind, tr := tr, x := raw, r := r, order := k }] })

/-- R263: the command, the goals and the bases of a slot move by −Δo. -/
def shiftSlot (d : Int) (sl : Slot) : Slot :=
  let g (x : Goal) : Goal := match x with
    | .position t => .position (t - d)
    | y => y
  let own := sl.source == .profile || sl.source == .path || sl.source == .coarse
  { sl with
    cmdP := sl.cmdP - BitVec.ofInt 48 d
    gen := if own then { sl.gen with p := sl.gen.p - d * 2 ^ 32 } else sl.gen
    cubic := { sl.cubic with p := sl.cubic.p - d * 2 ^ 32 }
    goal := if own then g sl.goal else sl.goal
    reverseTo := if own then sl.reverseTo.map (· - d) else sl.reverseTo
    gear := { sl.gear with base := sl.gear.base - d }
    homing := sl.homing.map (fun h => { h with start := h.start - d })
    step := { sl.step with base := sl.step.base - d, coarse := sl.step.coarse - d, ramp := sl.step.ramp - d }
    out := { sl.out with plaus := { sl.out.plaus with pm := sl.out.plaus.pm - d * 2 ^ 32 } } }

/-- R262–R264: one re-reference takes effect at a sample. -/
def applyReref (n : Fin 32) (ts : T64) (x : Reref) (s : State) : State :=
  let f := s.axis.slots[n].fb
  let d := wrapS 48 (x.x - f.o - x.r)
  let s := modFbk s n (fun f => { f with
    o := f.o + d, oRebase := if x.kind = 3 then f.oRebase + d else f.oRebase, reref := f.reref + 1
    meas := f.meas - BitVec.ofInt 48 d, inPos := f.inPos - BitVec.ofInt 48 d
    raw := f.raw.map (fun r => (r.1, r.2.1 - BitVec.ofInt 48 d, r.2.2)) })
  let s := modSlot s n (shiftSlot d)
  let s := { s with axis := { s.axis with
    slots := s.axis.slots.map (fun sl =>
      if (sl.source = .gear ∨ sl.source = .cam) ∧ sl.gear.masterKind ≤ 1 ∧ sl.gear.masterSlot = n.val then
        { sl with gear := { sl.gear with shift := sl.gear.shift + d } }
      else sl)
    paths := s.axis.paths.map (fun pg =>
      match pg.members.findIdx? (· == n) with
      | some i => { pg with start := pg.start.modify i (· - d), prevStart := pg.prevStart.modify i (· - d), redraw := pg.begun }
      | none => pg) } }
  slotEv n .note 0x31 (b1 x.kind ++ sgnBytes 8 d
    ++ leBytes 4 (t32 (restamp s (evtDomain s) ⟨slotDom s n, ts⟩).t).toNat) s

/-- R263: whether the slot is a member of a path group that is not at rest. -/
def pathMoving (s : State) (n : Fin 32) : Bool :=
  s.axis.slots[n].source == .path &&
    (let pg := s.axis.paths[s.axis.slots[n].pathGroup]
     pg.gen.v != 0 || pg.gen.a != 0)

/-- R263, R264: the re-references whose sample this is take effect, by their trigger stamps and then by arrival. -/
def takeRerefs (n : Fin 32) (ts : T64) (s : State) : State :=
  let f := s.axis.slots[n].fb
  let due := f.rerefs.filter (fun x => decide (0 ≤ diff64 ts x.tr))
  if due = [] then s
  else if pathMoving s n then modFbk s n (fun f => { f with deferred := true })
  else
    let s := modFbk s n (fun f => { f with
      deferred := false, rerefs := f.rerefs.filter (fun x => !decide (0 ≤ diff64 ts x.tr)) })
    let due := sortBy (fun (a b : Reref) => decide (diff64 a.tr b.tr < 0) || (a.tr == b.tr && decide (a.order ≤ b.order))) due
    due.foldl (fun s x => applyReref n ts x s) s

/-! ### The raw position of a slot (R258) -/

/-- The timeout of an endpoint channel, 10 ms (R268). -/
def epTimeout : Nat := 160000000

/-- R258: the raw position C + f of a slot at its sample instant, 2^-16 counts. -/
def slotRaw (s : State) (n : Fin 32) (ts : T64) : Int :=
  let f := s.axis.slots[n].fb
  match s.axis.slots[n].bind with
  | none => 0
  | some b =>
    match portOf b.fbSource with
    | some p => portRaw s p (toD0 s ⟨b.dom, ts⟩).toNat
    | none =>
      let fr := match f.edges with
        | (t1, n1) :: (t0, n0) :: _ => fraction (diff64 ts t1) 0 n1 (some (diff64 t0 t1, n0)) epTimeout
        | _ => 0
      (chanC s n).toNat * 65536 + fr

/-! ### Remote channels (R267–R269) -/

/-- R267: the count of an incremental endpoint channel, with the stamps and directions of its last two edges, newest
first. -/
def remoteIncr (n : Fin 32) (ts : T64) (count : BitVec 32) (edges : List (T64 × Bool)) (s : State) : State :=
  let f := s.axis.slots[n].fb
  if f.rebase then
    let s := modFbk s n (fun f => { f with last := count, edges := edges, rebase := false, stale := false })
    recordReref n 3 ts (slotRaw s n ts) (count.toNat * 65536) s
  else
    let (c, w) := countBy (chanC s n) (count - f.last).toInt
    let s := modFbk (putChan s n c) n (fun f => { f with last := count, edges := edges, stale := false })
    if w = 0 then s else raiseWrap [n] w c (some ⟨slotDom s n, ts⟩) s

/-- R268: the reading of an absolute endpoint channel of `w` bits. -/
def remoteAbs (n : Fin 32) (ts : T64) (w : Nat) (reading : BitVec 32) (valid : Bool) (s : State) : State :=
  let f := s.axis.slots[n].fb
  let d := sext w (reading.toNat + 2 ^ w - f.last.toNat % 2 ^ w)
  if f.rebase then
    if valid then
      let s := modFbk s n (fun f => { f with
        last := reading, rebase := false, stale := false, d := 0, changed := s.time.now })
      recordReref n 3 ts ((chanC s n).toNat * 65536) (reading.toNat * 65536) s
    else slotEv n .warning 0x32 (sgnBytes 4 d) (modFbk s n (fun f => { f with stale := true }))
  else if valid && decide (d.natAbs < 2 ^ (w - 2)) then
    let (c, wr) := countBy (chanC s n) d
    let s := modFbk (putChan s n c) n (fun f => { f with
      last := reading, stale := false, d := f.d + d, changed := if d = 0 then f.changed else s.time.now })
    if wr = 0 then s else raiseWrap [n] wr c (some ⟨slotDom s n, ts⟩) s
  else
    let s := modFbk s n (fun f => { f with stale := true })
    slotEv n .warning 0x32 (sgnBytes 4 d) s

/-! ### The measurement of a sample -/

/-- R253, R258–R260, R268, R270: position and speed of a slot at its outer sample; re-references take effect first. -/
def measureSlot (n : Fin 32) (ts : T64) (s : State) : State :=
  let s := takeRerefs n ts s
  let sl := s.axis.slots[n]
  match sl.bind with
  | none => s
  | some b =>
    if b.fbSource = 0 then s
    else
      let f := sl.fb
      let t := (toD0 s ⟨b.dom, ts⟩).toNat
      let raw := slotRaw s n ts
      let (k1, v, stand) : Option (BitVec 32 × Nat) × Int × Bool :=
        match portOf b.fbSource with
        | some p =>
          let q := s.axis.ports[p]
          let k1 := match edgesAt q t with
            | e :: _ => some (e.c, e.t)
            | [] => none
          let still := match k1 with
            | some (_, t1) => decide (portTimeout s p ≤ t - t1)
            | none => true
          (k1, speedRule f.k0 (portStart q) k1 t f.vLast (portTimeout s p) f.first, still)
        | none =>
          match f.edges with
          | (t1, n1) :: rest =>
            let k1 := some (chanC s n, t1.toNat)
            let still := decide ((epTimeout : Int) ≤ diff64 ts t1)
            -- R260: the earlier of the two edges counts from a standstill on
            let start := if f.standstill || f.k0.isNone then (match rest with
                | (t0, _) :: _ => if diff64 t1 t0 < epTimeout then some (if n1 then chanC s n + 1 else chanC s n - 1, t0.toNat) else k1
                | [] => k1)
              else none
            (k1, if still then 0 else speedRule f.k0 start k1 ts.toNat f.vLast epTimeout f.first, still)
          | [] =>
            let still := decide (f.changed + epTimeout ≤ t)
            (none, if f.first || still then 0 else speedOf f.d (outPeriod b), still)
      let ref := refOf f raw
      let (pec, s) := pecOf n ref s
      let s := modSlot s n (fun sl => { sl with mon := { sl.mon with pec := satS 24 (roundDiv pec 256) } })
      let meas := BitVec.ofInt 48 (ref + pec)
      modFbk s n (fun f =>
        if f.stale then { f with first := false, vPrev := f.v }
        else { f with
          f := raw - (slotC s n).toNat * 65536, pecAt := if pecActive s n then some ref else none, meas := meas, inPos := meas, inVel := v, vPrev := f.v, v := v, vLast := v, k0 := k1, standstill := stand, first := false, d := 0
          rawBefore := f.raw, raw := some (ts, meas, raw) })

/-- R541: the commutation position of a slot at an instant: raw position less the offsets of arrival rebases. -/
def commPos (s : State) (n : Fin 32) (ts : T64) : P48 :=
  BitVec.ofInt 48 (slotRaw s n ts - s.axis.slots[n].fb.oRebase)

/-- R253: the whole signed position of a P48. -/
def p48 (x : P48) : Int := sext 48 x.toNat

end Sys2Proof.Machine
end

