-- ==== Sys2Proof/Machine/Planner.lean ====
section
/-!
DEFINITION. The jerk of one period of a planned course (R224, R233). Where the time-shortest course still has a whole
period at a limit before its final phases, that limit decides the jerk; in the final phases the manual leaves the jerk
open, and a proposed one is kept within the limits, short of the goal and able to stop at it (log 21). Speeds,
accelerations and jerks are in units of 2^-40 per ms, ms² and ms³; positions in 2^-48 counts.
-/

namespace Sys2Proof.Machine

/-- R233: the distance in which a state comes down to a speed `ve` at a deceleration and a jerk, along a velocity that is not
negative. -/
def slowAlong (v a ve dec jerk : Int) : Int :=
  let J := max 1 jerk
  let d := max 1 dec
  let v0 := max ve (v + a * a / (2 * J))
  let dv := v0 - ve
  -- twice the mean speed times the time, the latter with 20 fraction bits
  let time : Int := if d * d / J ≤ dv then dv * 2 ^ 20 / d + d * 2 ^ 20 / J else (2 * isqrt (dv.toNat * 2 ^ 40 / J.toNat) : Nat)
  let t3 := a.natAbs ^ 3
  let corr : Int := if 0 ≤ a then v * a / J + t3 / (3 * J * J)
    else -(v0 * (-a) / J - t3 / (6 * J * J))
  256 * ((v0 + ve) * time / 2 ^ 21 + corr)

/-- R227: the distance in which a state comes to rest at a deceleration and a jerk, along a velocity that is not
negative. -/
def stopAlong (v a dec jerk : Int) : Int :=
  let J := max 1 jerk
  let d := max 1 dec
  let v0 := v + a * a / (2 * J)
  let fromRest : Int := if d * d / J ≤ v0 then (v0 * v0 / d + v0 * d / J) / 2
    else (isqrt (v0.toNat ^ 3 / J.toNat) : Nat)
  let t3 := a.natAbs ^ 3
  let corr : Int := if 0 ≤ a then v * a / J + t3 / (3 * J * J)
    else -(v0 * (-a) / J - t3 / (6 * J * J))
  256 * (fromRest + corr)

/-- R227: the same along its velocity, whatever its sign. -/
def stopDistance (v a dec jerk : Int) : Int :=
  if v < 0 then stopAlong (-v) (-a) dec jerk else stopAlong v a dec jerk

/-- The speed gained while an acceleration that is not negative is brought to 0 in whole periods. -/
def unwindGain (a J : Int) (cad : Nat) : Int :=
  let step := max 1 (J * cad / 128)
  let r := a % step
  (a * a - r * r) / (2 * max 1 J) + r * cad / 256

/-- R224: the bound of the acceleration in direction `d` at a speed: `acc` while the speed rises, `dec` while it falls,
and no more than can be brought down to `acc` by the time the velocity reverses. -/
def accBound (v d acc dec J : Int) : Int :=
  if 0 ≤ d * v then acc else if dec ≤ acc then dec else min dec (isqrt (acc.natAbs ^ 2 + 2 * J.natAbs * v.natAbs) : Nat)

/-- The jerk that brings an acceleration to `b` in one period, rounded towards `-∞`. -/
def jerkTo (a b : Int) (cad : Nat) : Int := Int.fdiv ((b - a) * 128) (cad : Int)

/-- R224: a jerk kept so that it and the acceleration after a period stay within their limits. -/
def keepAcc (g : Gen) (acc dec J : Int) (cad : Nat) (c : Int) : Int :=
  let v1 := g.v + g.a * cad / 128
  let hi := min (accBound g.v 1 acc dec J) (accBound v1 1 acc dec J)
  let lo := min (accBound g.v (-1) acc dec J) (accBound v1 (-1) acc dec J)
  let c := max (-jerkTo (-g.a) lo cad) (min c (jerkTo g.a hi cad))
  let x := advance g c cad
  let m := accBound x.v (sgn x.a) acc dec J
  let c := if m < x.a then jerkTo g.a m cad else if x.a < -m then -jerkTo (-g.a) m cad else c
  clampI (-J) J c

/-- The jerk that unwinds the acceleration. -/
def unwindJerk (g : Gen) (J : Int) (cad : Nat) : Int := clampI (-J) J (if 0 ≤ g.a then -jerkTo (-g.a) 0 cad else jerkTo g.a 0 cad)

/-- Whether a state can still unwind its acceleration without passing a speed in direction `d`. -/
def underSpeed (g : Gen) (vg d J : Int) (cad : Nat) : Bool :=
  decide (d * (g.v - vg) + unwindGain (max (d * g.a) 0) J cad ≤ 0)

/-- R224: the jerk of a period on the way to a velocity. -/
def velJerk (g : Gen) (vg acc dec J : Int) (cad : Nat) (free : Int) : Int :=
  let rest := g.v + sgn g.a * unwindGain (g.a.natAbs : Nat) J cad
  let d := if rest < vg then 1 else if vg < rest then -1 else -(sgn g.a)
  let c := keepAcc g acc dec J cad (d * J)
  if underSpeed (advance g c cad) vg d J cad then c
  else
    let f := keepAcc g acc dec J cad (clampI (-J) J free)
    if underSpeed (advance g f cad) vg d J cad then f else unwindJerk g J cad

/-- Whether a state can still unwind its deceleration before its velocity in direction `d` reverses. -/
def landsAt (g : Gen) (d J : Int) (cad : Nat) : Bool := decide (unwindGain (max (-(d * g.a)) 0) J cad ≤ d * g.v)

/-- The strongest braking between two jerks from which the velocity does not reverse, by halving. -/
def landJerk (g : Gen) (d J : Int) (cad : Nat) (b u : Int) : Nat → Int
  | 0 => u
  | k + 1 =>
    if landsAt (advance g b cad) d J cad then b
    else
      let m := (b + u) / 2
      if landsAt (advance g m cad) d J cad then landJerk g d J cad b m k else landJerk g d J cad m u k

/-- How far a period's worth of planning may carry a state. -/
def planMargin (g : Gen) (J : Int) (cad : Nat) : Int :=
  1024 * ((g.v.natAbs * cad / 128 + g.a.natAbs * cad ^ 2 / 128 ^ 2 : Nat) + J * cad ^ 3 / 128 ^ 3 + 1)

/-- R226: the greatest jerk in direction `d` that does not pass a position `rem` ahead within the period. -/
def capJerk (g : Gen) (d rem : Int) (cad : Nat) : Int :=
  Int.fdiv ((Int.fdiv rem 256 - d * g.v * cad / 128 - d * g.a * cad ^ 2 / (2 * 128 ^ 2)) * (6 * 128 ^ 3)) ((cad : Int) ^ 3)

/-- R224, R226: the jerk of a period on the way to a position. -/
def posJerk (g : Gen) (goal vel acc dec J : Int) (cad : Nat) (free : Int) : Int :=
  let e := goal - g.p
  let d := if e ≠ 0 then sgn e else if g.v ≠ 0 then -(sgn g.v) else -(sgn g.a)
  let rem (x : Gen) : Int := d * (goal - x.p)
  let top := velJerk g (if d * g.v < 0 then 0 else d * vel) acc dec J cad free
  let t := advance g top cad
  if (d * g.v < 0 ∧ top ≠ 0) ∨ 0 ≤ d * g.v ∧ 0 ≤ d * t.v ∧ stopAlong (d * t.v) (d * t.a) dec J + planMargin t J cad ≤ rem t then top
  else
    let good (j : Int) : Bool :=
      let x := advance g j cad
      decide (0 ≤ d * x.v) && decide (0 ≤ rem x) && decide (stopAlong (d * x.v) (d * x.a) dec J ≤ rem x)
        && underSpeed x (d * vel) d J cad && landsAt x d J cad
    let f := keepAcc g acc dec J cad (clampI (-J) J free)
    let b := keepAcc g acc dec J cad (-(d * J))
    if good f then f
    else d * max (-J) (min (capJerk g d (d * e) cad) (d * landJerk g d J cad b (unwindJerk g J cad) 24))

/-- R233: what the path planner knows of the road ahead: the length left in the segment under way and in the whole queue,
the speed along the segment and at its end. -/
structure Road where
  left : Int
  total : Int
  along : Int
  atEnd : Int
  deriving DecidableEq, Repr

/-- R233: the jerk of a period along a path. -/
def roadJerk (g : Gen) (r : Road) (a dec J : Int) (cad : Nat) (free : Int) : Int :=
  let top := velJerk g r.along a dec J cad free
  let t := advance g top cad
  let left (x : Gen) : Int := r.left - (x.p - g.p)
  if 0 ≤ t.v ∧ slowAlong t.v t.a r.atEnd dec J + planMargin t J cad ≤ left t then top
  else
    let good (j : Int) : Bool :=
      let x := advance g j cad
      decide (0 ≤ x.v) && decide (stopAlong x.v x.a dec J ≤ r.total - (x.p - g.p)) && underSpeed x r.along 1 J cad
        && (if 0 ≤ left x then decide (slowAlong x.v x.a r.atEnd dec J ≤ left x) else decide (x.v ≤ r.atEnd))
    let f := keepAcc g a dec J cad (clampI (-J) J free)
    if good f then f else landJerk g 1 J cad (keepAcc g a dec J cad (-J)) (unwindJerk g J cad) 24

end Sys2Proof.Machine
end

