-- ==== Sys2Proof/Machine/Profile.lean ====
section
/-!
DEFINITION. The profile generator (08): its advance (R221), limits (R222, R223), planning (R224–R227), SOFT_START (R228)
and the descriptors that set its goal (R223, R225).
-/

namespace Sys2Proof.Machine

/-! ### Cubics (R221) -/

/-- Units of 2^-40 from a V32, A32 or J32 word. -/
def fine (x : Int) : Int := x * 2 ^ 32

/-- R280: `6·D³` times the position of a cubic, in 2^-48 counts, `τ` LSB after its start; D is a millisecond. -/
def cubicNum (c : Cubic) (τ : Int) : Int :=
  let D : Int := msLsb
  6 * D ^ 3 * c.p + 256 * (6 * D ^ 2 * c.v * τ + 3 * D * c.a * τ ^ 2 + c.j * τ ^ 3)

/-- The divisor of `cubicNum`. -/
def cubicDen : Nat := 6 * msLsb ^ 3

/-- R280: the position of a cubic in 2^-16 counts. -/
def cubicPos (c : Cubic) (τ : Int) : Int := roundDiv (cubicNum c τ) (cubicDen * 2 ^ 32)

/-- R280: the velocity of a cubic in 2^-40 counts/ms. -/
def cubicVel (c : Cubic) (τ : Int) : Int :=
  let D : Int := msLsb
  c.v + roundDiv (2 * D * c.a * τ + c.j * τ ^ 2) (2 * msLsb ^ 2)

/-! ### Limits -/

/-- R223: a per-move limit replaces the slot's, and one above it acts as the slot's. -/
def moveLimit (slot move : Int) : Int := if move = 0 then slot else min slot move

/-- R224: the limits of the next plan: speed, acceleration, deceleration, jerk, as words. -/
def planLimits (sl : Slot) : Int × Int × Int × Int :=
  let l := sl.limits.getD {}
  let dec := if sl.stopLimits then l.stopDec else moveLimit l.dmax sl.moveD
  let jerk := if sl.stopLimits then l.stopJerk else moveLimit l.jmax sl.moveJ
  (moveLimit l.vmax sl.moveV, moveLimit l.amax sl.moveA,
    if sl.decelHeld then max dec sl.heldDec else dec, if sl.decelHeld then max jerk sl.heldJerk else jerk)

/-- R227: whether a target (2^-16 counts) is behind. -/
def isBehind (g : Gen) (target dec jerk : Int) : Bool :=
  let ahead := (target * 2 ^ 32 - g.p) * (if g.v < 0 then -1 else 1)
  g.v != 0 && decide (ahead < stopDistance g.v g.a (fine dec) (fine jerk))

/-- Where a state comes to rest, in 2^-16 counts. -/
def restPos (g : Gen) (dec jerk : Int) : Int :=
  roundDiv (g.p + (if g.v < 0 then -1 else 1) * stopDistance g.v g.a (fine dec) (fine jerk)) (2 ^ 32)

/-! ### The command -/

/-- R221: the command rounded for output: P48, V32 and A32. -/
def outGen (g : Gen) : P48 × Int × Int :=
  (BitVec.ofInt 48 (roundDiv g.p (2 ^ 32)), satS 32 (roundDiv g.v (2 ^ 32)), satS 32 (roundDiv g.a (2 ^ 32)))

/-- R224: whether a state is the goal to the last bit of its output words. -/
def atTarget (g : Gen) (goal : Goal) : Bool :=
  match goal with
  | .none => false
  | .position t => decide ((g.p - t * 2 ^ 32).natAbs ≤ 2 ^ 32) && decide (g.v.natAbs ≤ 2 ^ 32) && decide (g.a.natAbs ≤ 2 ^ 32)
  | .velocity v => decide ((g.v - fine v).natAbs ≤ 2 ^ 32) && decide (g.a.natAbs ≤ 2 ^ 32)
  | .rest => decide (g.v.natAbs ≤ 2 ^ 32) && decide (g.a.natAbs ≤ 2 ^ 32)

/-- R224: the state set to its goal exactly. -/
def snapTo (g : Gen) (goal : Goal) : Gen :=
  match goal with
  | .none => g
  | .position t => { p := t * 2 ^ 32, v := 0, a := 0 }
  | .velocity v => { g with v := fine v, a := 0 }
  | .rest => { g with v := 0, a := 0 }

/-- R224: the kind and value of a goal. -/
def goalCode : Goal → Nat × Int
  | .position t => (0, t)
  | .velocity v => (1, v)
  | _ => (2, 0)

/-- R225: the generator has reached its goal. -/
def reachGoal (n : Fin 32) (s : State) : State :=
  let sl := s.axis.slots[n]
  match sl.reverseTo with
  | some t =>
    modSlot s n (fun sl => { sl with
      goal := .position t, reverseTo := none, reversing := false, atGoal := false })
  | none =>
    let s := modSlot s n (fun sl => { sl with atGoal := true, goalTag := none, stopLimits := false })
    let engaged := (sl.source = .gear ∨ sl.source = .cam) ∧ sl.gear.engaging
    let s := match sl.goalTag with
      | some (tag, q) => slotEv n .note 0x20 ([tag] ++ b1 q ++ leBytes 6 s.axis.slots[n].cmdP.toNat) s
      | none => s
    if engaged then
      let s := modSlot s n (fun sl => { sl with gear := { sl.gear with engaging := false } })
      slotEv n .note 0x23 (sgnBytes 8 (roundDiv s.axis.slots[n].gen.p (2 ^ 32))) s
    else s

/-- R224: whether a state is the goal exactly. -/
def isAt (g : Gen) : Goal → Bool
  | .none => false
  | .position t => g == { p := t * 2 ^ 32, v := 0, a := 0 }
  | .velocity v => g.v == fine v && g.a == 0
  | .rest => g.v == 0 && g.a == 0

/-- R224, R221: one period of the generator of a slot: the jerk of the plan and the state at its end. -/
def planPeriod (sl : Slot) (cad : Nat) : Gen × Int :=
  let g := sl.gen
  let hold : Int := if g.a = 0 then 0 else clampI (-fine (planLimits sl).2.2.2) (fine (planLimits sl).2.2.2) (-g.a * 128 / cad)
  match sl.goal with
  | .none => (advance g hold cad, hold)
  | goal =>
    if isAt g goal then (advance g 0 cad, 0)
    else
      let (v, acc, dec, jerk) := planLimits sl
      let (k, x) := goalCode goal
      let free := Config.planJerk [g.p, g.v, g.a, k, x, fine v, fine acc, fine dec, fine jerk, cad]
      let j := match goal with
        | .position t => posJerk g (t * 2 ^ 32) (fine v) (fine acc) (fine dec) (fine jerk) cad free
        | .velocity w => velJerk g (clampI (-fine v) (fine v) (fine w)) (fine acc) (fine dec) (fine jerk) cad free
        | _ => velJerk g 0 (fine acc) (fine dec) (fine jerk) cad free
      let g' := advance g j cad
      (if atTarget g' goal then snapTo g' goal else g', j)

/-- R225, R226: whether the generator's state is its goal, which is then reached; at rest a held deceleration ends. -/
def checkGoal (n : Fin 32) (s : State) : State :=
  let s := modSlot s n (fun sl => if sl.decelHeld && isAt sl.gen .rest then endHold sl else sl)
  let sl := s.axis.slots[n]
  if !sl.atGoal && isAt sl.gen sl.goal then reachGoal n s else s

/-- The command of a sample, and the cubic of its period. -/
def setCmd (n : Fin 32) (ts : T64) (g : Gen) (j : Int) (s : State) : State :=
  let (p, v, a) := outGen g
  modSlot s n (fun sl => { sl with
    cmdP := p, cmdV := v, cmdA := a, cubic := { t0 := ts, p := g.p, v := g.v, a := g.a, j := j } })

/-- The generator of a slot runs for the period that starts at sample `ts`: the command of the sample is its state. -/
def runGenerator (n : Fin 32) (ts : T64) (cad : Nat) (s : State) : State :=
  let s := checkGoal n (setCmd n ts s.axis.slots[n].gen 0 s)
  let sl := s.axis.slots[n]
  let (g', j) := planPeriod sl cad
  modSlot (setCmd n ts sl.gen j s) n (fun x => { x with gen := g' })

/-! ### Goals -/

/-- R225: a new course of a slot's generator, with its per-move limits; a held deceleration holds until the slot is at rest (R226). -/
def setGoal (goal : Goal) (tag : Option (Byte × Nat)) (lims : Int × Int × Int × Int) (sl : Slot) : Slot :=
  { dropGoal sl with
    goal := goal, goalTag := tag, moveV := lims.1, moveA := lims.2.1, moveD := lims.2.2.1, moveJ := lims.2.2.2
    atGoal := false, parked := false }

/-- R226: whether lowered limits are held off: the slot decelerates towards a target that it reaches within the limits in
force before and not within the new ones. -/
def holdsDecel (sl : Slot) (target oldDec oldJerk : Int) : Bool :=
  let (_, _, dec, jerk) := planLimits sl
  (decide (dec < oldDec) || decide (jerk < oldJerk)) && decide (sgn sl.gen.v * sgn sl.gen.a < 0)
    && isBehind sl.gen target dec jerk && !isBehind sl.gen target (max dec oldDec) (max jerk oldJerk)

/-- A value `k ÷ 65,536` of the way from one to another that is not less, rounded up. -/
def partWay (a b : Int) (k : Nat) : Int := b - Int.fdiv ((b - a) * ((65536 : Int) - k)) 65536

/-- R226: the least share of the way from the new limits to those before at which a target is not passed, by halving. -/
def holdShare (g : Gen) (target dec jerk topDec topJerk : Int) : Nat → Nat → Nat → Nat
  | 0, _, hi => hi
  | fuel + 1, lo, hi =>
    let mid := (lo + hi) / 2
    if isBehind g target (partWay dec topDec mid) (partWay jerk topJerk mid) then holdShare g target dec jerk topDec topJerk fuel mid hi
    else holdShare g target dec jerk topDec topJerk fuel lo mid

/-- R226: the deceleration and jerk needed to stop at the target are kept, no more than those in force before the change. The manual does
not say how the need falls on the two: both go the same share of their way back (log 21). -/
def keepDecel (n : Fin 32) (target oldDec oldJerk : Int) (s : State) : State :=
  let sl := s.axis.slots[n]
  let (_, _, dec, jerk) := planLimits sl
  let (topDec, topJerk) := (max dec oldDec, max jerk oldJerk)
  let k := holdShare sl.gen target dec jerk topDec topJerk 16 0 65536
  let held := partWay dec topDec k
  let s := modSlot s n (fun sl => { sl with decelHeld := true, heldDec := held, heldJerk := partWay jerk topJerk k })
  slotEv n .warning 0x21 (sgnBytes 4 held) s

/-- R227: a slot whose target is behind comes to rest first. -/
def reverseFirst (n : Fin 32) (target : Int) (s : State) : State :=
  let sl := s.axis.slots[n]
  let (_, _, dec, jerk) := planLimits sl
  if isBehind sl.gen target dec jerk then
    let s := modSlot s n (fun sl => { sl with goal := .rest, reverseTo := some target, reversing := true })
    slotEv n .note 0x22 (((sl.goalTag.map (fun t => [t.1])).getD [0]) ++ leBytes 6 (toW 48 (restPos sl.gen dec jerk))) s
  else s

/-- R226, R227: a position goal: towards it; where the limits in force before still reach it, with those held; where it is
behind, to rest first. -/
def goFrom (n : Fin 32) (target : Int) (tag : Option (Byte × Nat)) (lims : Int × Int × Int × Int) (oldDec oldJerk : Int)
    (s : State) : State :=
  let s := modSlot s n (setGoal (.position target) tag lims)
  if holdsDecel s.axis.slots[n] target oldDec oldJerk then keepDecel n target oldDec oldJerk s else reverseFirst n target s

/-- R227: a position goal: towards it, or, where it is behind, to rest first. -/
def goTo (n : Fin 32) (target : Int) (tag : Option (Byte × Nat)) (lims : Int × Int × Int × Int) (s : State) : State :=
  goFrom n target tag lims 0 0 s

/-- R226, R227: the limits of the slot change on the way to a target. -/
def newLimits (n : Fin 32) (oldDec oldJerk : Int) (s : State) : State :=
  match s.axis.slots[n].goal with
  | .position t =>
    if holdsDecel s.axis.slots[n] t oldDec oldJerk then keepDecel n t oldDec oldJerk s else reverseFirst n t s
  | _ => s

/-! ### Descriptors (R222, R223) -/

/-- The slot a descriptor targets. -/
def slotT (f : InFlight) : Fin 32 := Fin.ofNat 32 f.target.idx

/-- R225: the tag and the submission ring of a descriptor. -/
def tagOf (f : InFlight) : Byte × Nat := (f.tag, match f.src with
  | .sq n => n.val
  | _ => 0)

/-- R223: the per-move limits block. -/
def moveLims (p : BitVec 384) : Int × Int × Int × Int := (pS p 24 4, pS p 28 4, pS p 32 4, pS p 36 4)

/-- R223: no value of the block is negative. -/
def moveLimChecks (p : BitVec 384) : List Check :=
  [24, 28, 32, 36].map (fun o => inval (decide (pS p o 4 < 0)) o)

/-- R229: the states that refuse a descriptor of a slot in motion. `path`: the slot may be no member of a path group. -/
def courseChecks (s : State) (n : Fin 32) : List Check :=
  let sl := s.axis.slots[n]
  let dead := match groupOf s n with
    | some g => s.axis.groups[g].ss1 || s.axis.groups[g].stopped
    | none => true
  [denied (sl.mode != .auto || dead) 0x10, denied sl.limits.isNone 0x11, denied (sl.source == .path) 0x12]

/-- R229 0x10: whether a slot's course can still be set at the chosen sample. -/
def lateCourse (f : InFlight) (s : State) : Option (Nat × Int) := firstFail (courseChecks s (slotT f))

/-- R247: whether the slot homes. -/
def homingCheck (s : State) (n : Fin 32) : Check := denied s.axis.slots[n].homing.isSome 0x17

/-- R220: band slots have the generator, too, without a limits requirement of their own. -/
def moveAbsCheck (f : InFlight) (s : State) : Option (Nat × Int) :=
  let p := f.payload
  firstFail ([resv p 22 23, resv p 40 63] ++ moveLimChecks p ++ courseChecks s (slotT f))

/-- R6: the position nearest the command that a P48 target names. -/
def nearTarget (sl : Slot) (t : Nat) : Int :=
  let here := roundDiv sl.gen.p (2 ^ 32)
  here + wrapS 48 ((t : Int) - here)

/-- R227: whether a slot refuses targets that lie behind: rejection is enabled and its command speed exceeds standstill. -/
def refusesBehind (sl : Slot) : Bool :=
  (sl.limits.getD {}).reject && decide (((sl.bind.map (fun b => b.standstill)).getD 0) < sl.cmdV.natAbs)

/-- R227: whether a target is refused because it lies behind at speed; `sl`: the slot whose generator is to go there. -/
def reversalRefused (sl : Slot) (target : Int) (lims : Int × Int × Int × Int) : Bool :=
  let (_, _, oldDec, oldJerk) := planLimits sl
  let sl' := setGoal (.position target) none lims sl
  let (_, _, dec, jerk) := planLimits sl'
  refusesBehind sl && isBehind sl.gen target dec jerk && !holdsDecel sl' target oldDec oldJerk

/-- R251: a refused reversal: the goal in force is kept. -/
def refuseReversal (n : Fin 32) (id : Nat) (tag : Byte) (sl : Slot) (s : State) : State :=
  let (_, _, dec, jerk) := planLimits sl
  let s := slotEv n .note 0x22 ([tag] ++ leBytes 6 (toW 48 (restPos sl.gen dec jerk))) s
  reject id stReversal 0 s

/-- R218, R239, R248: any PROFILE descriptor ends gearing and homing. -/
def takeProfile (n : Fin 32) (s : State) : State := modSlot (endHoming n s) n toProfile

/-- A course to a position, with R226 and R227. -/
def courseTo (f : InFlight) (target : Int) (at' : Stamp) (s : State) : State :=
  let n := slotT f
  let lims := moveLims f.payload
  if reversalRefused (toProfile s.axis.slots[n]) target lims then refuseReversal n f.id f.tag (toProfile s.axis.slots[n]) s
  else
    let (_, _, dec, jerk) := planLimits s.axis.slots[n]
    completeOk f.id (some at') (goFrom n target (some (tagOf f)) lims dec jerk (takeProfile n s))

/-- R223: MOVE_ABS takes effect. -/
def moveAbsNow (f : InFlight) (at' : Stamp) (s : State) : State :=
  courseTo f (nearTarget (toProfile s.axis.slots[slotT f]) (pU f.payload 16 6)) at' s

/-- R223: the checks of MOVE_REL. -/
def moveRelCheck (f : InFlight) (s : State) : Option (Nat × Int) :=
  let p := f.payload
  firstFail ([resv p 41 63, inval (decide (2 ^ 63 ≤ (pS p 16 8).natAbs)) 16] ++ moveLimChecks p
    ++ [inval (decide (3 < pU p 40 1)) 40] ++ courseChecks s (slotT f))

/-- R223, R239: MOVE_REL takes effect: from the goal in force, from the command, or on the superposed offset. -/
def moveRelNow (f : InFlight) (at' : Stamp) (s : State) : State :=
  let n := slotT f
  let p := f.payload
  let sl := s.axis.slots[n]
  let d := pS p 16 8
  let geared := sl.source = .gear ∨ sl.source = .cam
  if bit (pU p 40 1) 1 ∧ geared then
    let here := match sl.goal with
      | .position t => t
      | _ => roundDiv sl.gen.p (2 ^ 32)
    let (_, _, dec, jerk) := planLimits sl
    if reversalRefused sl (here + d) (moveLims p) then refuseReversal n f.id f.tag sl s
    else
      let s := modSlot s n (fun sl => { sl with gear := { sl.gear with engaging := true } })
      completeOk f.id (some at') (goFrom n (here + d) (some (tagOf f)) (moveLims p) dec jerk s)
  else
    let pr := toProfile sl
    let here := roundDiv pr.gen.p (2 ^ 32)
    let base := if bit (pU p 40 1) 0 ∨ geared then here
      else match sl.reverseTo, sl.goal with
        | some t, _ => t
        | none, .position t => t
        | none, _ => here
    courseTo f (base + d) at' s

/-- R223: the checks of JOG. -/
def jogCheck (f : InFlight) (s : State) : Option (Nat × Int) :=
  let p := f.payload
  firstFail ([resv p 20 23, resv p 40 63, inval (pS p 24 4 != 0) 24] ++ moveLimChecks p ++ courseChecks s (slotT f))

/-- R223: JOG takes effect. -/
def jogNow (f : InFlight) (at' : Stamp) (s : State) : State :=
  let n := slotT f
  let s := takeProfile n s
  let v := pS f.payload 16 4
  let s := modSlot s n (setGoal (if v = 0 then .rest else .velocity v) (some (tagOf f)) (moveLims f.payload))
  completeOk f.id (some at') s

/-- R223, R228: the checks of SOFT_START. -/
def softStartCheck (f : InFlight) (s : State) : Option (Nat × Int) :=
  let p := f.payload
  firstFail ([resv p 23 23, resv p 40 63, inval (decide (1 < pU p 22 1)) 22] ++ moveLimChecks p
    ++ courseChecks s (slotT f))

/-- R228: the generator takes the measured position and velocity, and the acceleration of the last two velocities. -/
def softState (meas vel velBefore : Int) (cad : Nat) (acc : Int) : Gen :=
  let a := roundDiv ((vel - velBefore) * 128) (max 1 cad)
  { p := meas * 2 ^ 32, v := fine vel, a := fine (clampI (-acc) acc a) }

/-- R227: the course in force taken up again from a new state of the generator. -/
def recourse (n : Fin 32) (s : State) : State :=
  let sl := s.axis.slots[n]
  match sl.reverseTo, sl.goal with
  | some t, _ => goTo n t sl.goalTag (sl.moveV, sl.moveA, sl.moveD, sl.moveJ) s
  | none, .position t => goTo n t sl.goalTag (sl.moveV, sl.moveA, sl.moveD, sl.moveJ) s
  | none, _ => s

/-- R228: SOFT_START takes effect: the generator takes the measured state once the measurement of the sample is there, and plans from it.
Where its target may still be refused (R227), it completes then. -/
def softStartNow (f : InFlight) (at' : Stamp) (s : State) : State :=
  let n := slotT f
  let p := f.payload
  let s := endSoft n s
  let sl := s.axis.slots[n]
  let open' := refusesBehind sl && pU p 22 1 == 0
  let x : SoftStart := {
    desc := if open' then some f.id else none, target := if pU p 22 1 = 1 then none else some (pU p 16 6), tag := tagOf f
    lims := moveLims p, auto := sl.entry == .auto }
  let s := modSlot s n (fun sl => { sl with entry := .soft, soft := some x })
  if open' then takesEffect f.id at' s else completeOk f.id (some at') s

/-- R207: on entry to AUTO the command position is the measured one, and a slot that moves comes to rest at its STOP limits. -/
def enterAuto (n : Fin 32) (meas vel : Int) (s : State) : State :=
  let sl := s.axis.slots[n]
  let moving := decide (((sl.bind.map (fun b => b.standstill)).getD 0) < vel.natAbs)
  let s := modSlot s n (fun sl => { sl with gen := { p := meas * 2 ^ 32, v := if moving then fine vel else 0, a := 0 } })
  if sl.goal = .none then
    if moving then modSlot s n (fun sl => { setGoal .rest none (0, 0, 0, 0) sl with stopLimits := true }) else s
  else recourse n s

/-- R227, R228: a SOFT_START plans from the measured state of its sample, or is refused and leaves everything as it was. -/
def enterSoft (n : Fin 32) (x : SoftStart) (meas vel velBefore : Int) (s : State) : State :=
  let sl := s.axis.slots[n]
  let cad := (sl.bind.map (fun b => 2 ^ b.outCad)).getD 1
  let g := softState meas vel velBefore cad (moveLimit (sl.limits.getD {}).amax x.lims.2.1)
  let from' : Slot := { toProfile sl with gen := g }
  let target := x.target.map (fun t => meas + wrapS 48 ((t : Int) - meas))
  if x.replaced then endSoft n (recourse n (modSlot s n (fun sl => { sl with gen := g })))
  else
    match target, x.desc with
    | some t, some id =>
      if reversalRefused from' t x.lims then
        let s := refuseReversal n id x.tag.1 from' (modSlot s n (fun sl => { sl with soft := none }))
        if x.auto then enterAuto n meas vel s else s
      else
        let s := endSoft n (modSlot (takeProfile n s) n (fun sl => { sl with gen := g }))
        goTo n t (some x.tag) x.lims s
    | some t, none =>
      goTo n t (some x.tag) x.lims (endSoft n (modSlot (takeProfile n s) n (fun sl => { sl with gen := g })))
    | none, _ => modSlot (endSoft n (takeProfile n s)) n (fun sl => setGoal .rest (some x.tag) x.lims { sl with gen := g })

/-- R207, R228: the generator takes up the measurement of the sample, on entry to AUTO or for a SOFT_START. -/
def enterSample (n : Fin 32) (meas vel velBefore : Int) (s : State) : State :=
  let sl := s.axis.slots[n]
  let s := modSlot s n (fun sl => { sl with entry := .none })
  match sl.entry, sl.soft with
  | .none, _ => s
  | .soft, some x => enterSoft n x meas vel velBefore s
  | .soft, none | .auto, _ => enterAuto n meas vel s

/-- R223: the checks of STOP. -/
def stopCheck (f : InFlight) (s : State) : Option (Nat × Int) :=
  let p := f.payload
  firstFail ([resv p 17 63, inval (decide (1 < pU p 16 1)) 16] ++ courseChecks s (slotT f))

/-- R225: STOP takes effect: rest is the goal. -/
def stopNow (f : InFlight) (at' : Stamp) (s : State) : State :=
  let n := slotT f
  let s := takeProfile n s
  let s := modSlot s n (fun sl => { setGoal .rest (some (tagOf f)) (0, 0, 0, 0) sl with stopLimits := pU f.payload 16 1 == 1 })
  completeOk f.id (some at') s

/-- R222: the checks of LIMITS_SET. -/
def limitsSetCheck (f : InFlight) (_ : State) : Option (Nat × Int) :=
  let p := f.payload
  firstFail ([resv p 41 63] ++ [16, 20, 24, 28].map (fun o => inval (decide (pS p o 4 ≤ 0)) o)
    ++ [inval (decide (pS p 32 4 ≤ 0) || decide (pS p 32 4 < pS p 24 4)) 32,
        inval (decide (pS p 36 4 ≤ 0) || decide (pS p 36 4 < pS p 28 4)) 36, inval (decide (1 < pU p 40 1)) 40])

/-- R222, R226: LIMITS_SET takes effect. -/
def limitsSetNow (f : InFlight) (at' : Stamp) (s : State) : State :=
  let n := slotT f
  let p := f.payload
  let (_, _, dec, jerk) := planLimits s.axis.slots[n]
  let had := s.axis.slots[n].limits.isSome
  let l : Limits := { vmax := pS p 16 4, amax := pS p 20 4, dmax := pS p 24 4, jmax := pS p 28 4
                      stopDec := pS p 32 4, stopJerk := pS p 36 4, reject := bit (pU p 40 1) 0 }
  let s := modSlot s n (fun sl => { sl with limits := some l })
  completeOk f.id (some at') (if had then newLimits n dec jerk s else s)

end Sys2Proof.Machine
end

