-- ==== Sys2Proof/Machine/Gear.lean ====
section
/-!
DEFINITION. Gearing and cams (R236–R241), and the evaluation of a published trajectory (R380).
-/

namespace Sys2Proof.Machine

/-! ### Published trajectories -/

/-- R380: the cubic of a record. -/
def recCubic (r : TrajRec) (t : T64) : Cubic :=
  { t0 := t, p := p48 r.p * 2 ^ 32, v := fine r.v.toInt, a := fine r.a.toInt, j := fine r.j.toInt }

/-- R380: the cubic of a publication that holds at an instant: that of the latest record at or before it. -/
def pubCubic (p : Publication) (t : T64) : Option Cubic :=
  (bestBy (fun (a b : TrajRec) => decide (0 < diff64 (resolve32 t a.t) (resolve32 t b.t)))
    (p.recs.filter (fun r => decide (0 ≤ diff64 t (resolve32 t r.t))))).map (fun r => recCubic r (resolve32 t r.t))

/-- The publication of a slot of a member. -/
def pubOf (s : State) (pos : Nat) (slot : Nat) : Option Publication :=
  s.norrak.pubs.find? (fun p => p.pos.val == pos && p.slot.val == slot)

/-- The state of a cubic at an instant: 2^-16 counts, and velocity and acceleration in units of 2^-40. -/
def cubicState (c : Cubic) (t : T64) : Int × Int × Int :=
  let τ := diff64 t c.t0
  (cubicPos c τ, cubicVel c τ, c.a + roundDiv (c.j * τ) msLsb)

/-! ### Masters (R237) -/

/-- R237: the master of a gear cell at the follower's sample instant; re-references of the master are excluded (R263). -/
def masterState (s : State) (n : Fin 32) (g : Gear) (ts : T64) : Int × Int × Int :=
  let m := s.axis.slots[Fin.ofNat 32 g.masterSlot]
  let (p, v, a) : Int × Int × Int :=
    if g.masterKind = 0 then
      if m.mode = .auto then cubicState m.cubic ts else (p48 m.cmdP, 0, 0)
    else if g.masterKind = 1 then
      match m.bind.map (fun b => (b.fbSource, b.kind)) with
      | some (0, k) =>
        if k = .step ∧ m.step.cfg.isSome then
          let t := syncStep (toD0 s ⟨slotDom s n, ts⟩).toNat m.step
          (t.base + (t.emitted + Int.fdiv t.acc (2 ^ 48)) * 65536, fine m.cmdV, 0)
        else if m.mode = .auto then cubicState m.cubic ts else (p48 m.cmdP, 0, 0)
      | _ => (p48 m.fb.meas, fine m.fb.v, 0)
    else match (pubOf s g.masterMember g.masterSlot).bind (fun p => pubCubic p ts) with
      | some c => cubicState c ts
      | none => (roundDiv s.axis.slots[n].gear.last 1 * 65536, 0, 0)
  (p + g.shift, v, a)

/-- The local master of a slot's gear cell. -/
def localMaster (sl : Slot) : Option (Fin 32) :=
  if (sl.source = .gear ∨ sl.source = .cam) ∧ sl.gear.masterKind ≤ 1 then some (Fin.ofNat 32 sl.gear.masterSlot) else none

/-- R237: how many masters stand above a slot, to a depth of `fuel`. -/
def chainDepth (s : State) : Nat → Fin 32 → Nat
  | 0, _ => 0
  | fuel + 1, n => match localMaster s.axis.slots[n] with
    | some m => chainDepth s fuel m + 1
    | none => 0

/-- R237: how many followers hang below a slot. -/
def chainBelow (s : State) : Nat → Fin 32 → Nat
  | 0, _ => 0
  | fuel + 1, n =>
    ((List.finRange 32).filter (fun m => localMaster s.axis.slots[m] == some n)).foldl
      (fun acc m => max acc (chainBelow s fuel m + 1)) 0

/-- R237: whether a chain of masters from one slot reaches another. -/
def chainMeets (s : State) (goal : Fin 32) : Nat → Fin 32 → Bool
  | 0, n => n == goal
  | fuel + 1, n => n == goal || (match localMaster s.axis.slots[n] with
    | some m => chainMeets s goal fuel m
    | none => false)

/-- R237: whether a master is refused. -/
def masterRefused (s : State) (n : Fin 32) (kind slot : Nat) : Bool :=
  let m : Fin 32 := Fin.ofNat 32 slot
  match s.axis.slots[n].bind with
  | none => true
  | some b =>
    if kind = 2 then b.dom != .d1
    else match s.axis.slots[m].bind with
      | none => true
      | some mb =>
        m == n || mb.dom != b.dom
          || (kind == 1 && (mb.phase != b.phase || decide (b.outCad < mb.outCad)))
          || chainMeets s n 32 m || decide (4 < chainDepth s 8 m + 1 + chainBelow s 8 n)

/-! ### GEAR_SET and CAM_SET (R236) -/

/-- R236: the checks both share, after the reserved bytes. -/
def gearChecks (f : InFlight) (s : State) : List Check :=
  let p := f.payload
  [inval (decide (2 < pU p 16 1)) 16, inval (decide (31 < pU p 17 1)) 17, inval (decide (15 < pU p 18 1)) 18,
    inval (decide (1 < pU p 19 1)) 19] ++ courseChecks s (slotT f)

/-- R94, R229: the kinds that may be geared: all but band slots. -/
def gearKind (f : InFlight) (s : State) : Check :=
  denied (match s.axis.slots[slotT f].bind with
    | some b => b.kind == .band
    | none => false) 0x13

/-- R237: the check of the master. -/
def masterCheck (f : InFlight) (s : State) : Check :=
  (masterRefused s (slotT f) (pU f.payload 16 1) (pU f.payload 17 1), 0x0080, pU f.payload 17 1)

/-- R377: a remote master is refused while the ring is PARTITIONED or FORMING. -/
def ringCheck (f : InFlight) (s : State) : Check :=
  denied (pU f.payload 16 1 == 2 && (s.norrak.state == .partitioned || s.norrak.state == .forming)) 0x52

/-- R236: the checks of GEAR_SET. -/
def gearSetCheck (f : InFlight) (s : State) : Option (Nat × Int) :=
  let p := f.payload
  let den := pU p 28 4
  firstFail ([resv p 20 23, resv p 32 39, resv p 48 63, inval (den == 0 || decide (2 ^ 31 < den)) 28]
    ++ gearChecks f s ++ [gearKind f s, ringCheck f s, masterCheck f s])

/-- R236, R240: the checks of CAM_SET. -/
def camSetCheck (f : InFlight) (s : State) : Option (Nat × Int) :=
  let p := f.payload
  let named := match s.axis.slots[slotT f].bind with
    | some b => b.leaves.contains 0x30
    | none => false
  firstFail ([resv p 20 23, resv p 36 39, resv p 48 63, inval (decide (31 < pU p 24 1)) 24, inval (decide (1 < pU p 25 1)) 25,
      inval (decide (1 < pU p 26 1)) 26, inval (decide (31 < pU p 27 1)) 27, inval (pU p 32 4 == 0) 32]
    ++ gearChecks f s ++ [gearKind f s, denied (!named) 0x14, inval (tabGet s.glade.tables (pU p 24 1)).isNone 24,
      ringCheck f s, masterCheck f s])

/-- R236: the master that a descriptor names, at a sample. -/
def gearOf (f : InFlight) : Gear :=
  let p := f.payload
  { masterKind := pU p 16 1, masterSlot := pU p 17 1, masterMember := pU p 18 1 % 16, engaging := true, fresh := true }

/-- R238, R239: a gear cell or cam is taken into force; s is formed with the first geared position. -/
def engageGear (f : InFlight) (src : SrcKind) (g : Gear) (at' : Stamp) (s : State) : State :=
  let n := slotT f
  let p := f.payload
  let s := endHoming n s
  let s := modSlot s n (fun sl =>
    let here := (toProfile sl).gen
    let sl := { dropGoal sl with source := src, gen := here, gear := g, moveV := 0, moveA := 0, moveD := 0, moveJ := 0
                                 atGoal := false, parked := false }
    if pU p 19 1 = 1 then { sl with goal := .position (pS p 40 8), goalTag := some (tagOf f) }
    else { sl with goal := .rest })
  completeOk f.id (some at') s

/-- R236: GEAR_SET takes effect. -/
def gearSetNow (f : InFlight) (at' : Stamp) (s : State) : State :=
  let p := f.payload
  engageGear f .gear { gearOf f with num := pS p 24 4, den := max 1 (pU p 28 4) } at' s

/-- R236: CAM_SET takes effect. -/
def camSetNow (f : InFlight) (at' : Stamp) (s : State) : State :=
  let p := f.payload
  engageGear f .cam { gearOf f with
    table := pU p 24 1, cubic := pU p 25 1 == 1, periodic := bit (pU p 26 1) 0, e := sext 5 (pU p 27 1)
    m0 := pS p 28 4, span := max 1 (pU p 32 4) } at' s

/-- R236: the rejection of a GEAR_SET or CAM_SET at its sample. -/
def lateGear (f : InFlight) (s : State) : Option (Nat × Int) :=
  firstFail (courseChecks s (slotT f) ++ [gearKind f s, ringCheck f s, masterCheck f s])

/-! ### The cell at a sample -/

/-- R240: the place of a cam position in its table: index, remainder over the span, held at an end, cycle. -/
def camIndex (g : Gear) (len : Nat) (x : Int) : Int × Int × Bool × Int :=
  let span : Int := g.span
  if g.periodic then
    let c := Int.fdiv x span
    let y := (x - c * span) * len
    (Int.fdiv y span, Int.fmod y span, false, c)
  else
    let y := x * (len - 1 : Nat)
    if y < 0 then (0, 0, true, 0)
    else if span * (len - 1 : Nat) < y then ((len - 1 : Nat), 0, true, 0)
    else (Int.fdiv y span, Int.fmod y span, false, 0)

/-- R240: entry `i` of a cam table; a periodic table wraps, the other holds its ends. -/
def camEntry (s : State) (g : Gear) (t : Table) (i : Int) : Int :=
  if g.periodic then folioEntry s t (i % (max 1 t.len : Nat)).toNat else folioEntry s t i.toNat

/-- R240: the value of the table at an index `i + r ÷ span`, times `2·span³`, and its first and second derivatives in the
index, times `2·span²` and `2·span`. -/
def camPoly (s : State) (g : Gear) (t : Table) (i r : Int) (held : Bool) : Int × Int × Int :=
  let d : Int := g.span
  let p1 := camEntry s g t i
  let p2 := camEntry s g t (i + 1)
  if held then (2 * d ^ 3 * p1, 0, 0)
  else if g.cubic then
    let p0 := camEntry s g t (i - 1)
    let p3 := camEntry s g t (i + 2)
    let c1 := p2 - p0
    let c2 := 2 * p0 - 5 * p1 + 4 * p2 - p3
    let c3 := 3 * (p1 - p2) + p3 - p0
    (2 * d ^ 3 * p1 + c1 * r * d ^ 2 + c2 * r ^ 2 * d + c3 * r ^ 3,
      c1 * d ^ 2 + 2 * c2 * r * d + 3 * c3 * r ^ 2, 2 * c2 * d + 6 * c3 * r)
  else (2 * d ^ 2 * (p1 * d + r * (p2 - p1)), 2 * d ^ 2 * (p2 - p1), 0)

/-- `n × 2^e ÷ d`, rounded. -/
def ratioE (n : Int) (e : Int) (d : Nat) : Int :=
  if 0 ≤ e then roundDiv (n * 2 ^ e.toNat) d else roundDiv n (d * 2 ^ (-e).toNat)

/-- R240: the cam's position in 2^-16 counts at x, less that at `x0`, with its velocity and acceleration from the master's. -/
def camState (s : State) (g : Gear) (t : Table) (x vM aM : Int) : Int × Int × Int × Bool × Int :=
  let (i, r, held, cyc) := camIndex g t.len x
  let (i0, r0, held0, _) := camIndex g t.len g.x0
  let (y, y1, y2) := camPoly s g t i r held
  let (y0, _, _) := camPoly s g t i0 r0 held0
  let d := g.span
  let cells : Int := if g.periodic then t.len else t.len - 1
  let slope := y1 * cells
  (ratioE ((y - y0) * 65536) g.e (2 * d ^ 3), ratioE (slope * vM) g.e (2 * d ^ 3),
    ratioE (slope * aM + y2 * cells ^ 2 * roundDiv (vM * vM) (2 ^ 40)) g.e (2 * d ^ 3), held, cyc)

/-- R238, R240: the position that a slot's cell will command at an instant of the period under way, relative to its base, 2^-16 counts;
a measured master goes on at its speed (log 35). -/
def cellAhead (s : State) (n : Fin 32) (ts : T64) : Int :=
  let sl := s.axis.slots[n]
  let g := sl.gear
  let (mp, mv, _) := masterState s n g ts
  let mp := if g.masterKind = 1 then mp + roundDiv (mv * diff64 ts sl.cubic.t0) (msLsb * 2 ^ 24) else mp
  let m := g.m + wrapS 32 (Int.fdiv mp 65536 - g.last)
  if sl.source = .cam then
    match tabGet s.glade.tables g.table with
    | none => 0
    | some t => (camState s g t (m + g.x0) 0 0).1
  else
    let q := Int.fdiv (m * g.num) g.den
    q * 65536 + Int.fdiv ((m * g.num - q * g.den) * 65536) g.den

/-- R238, R240: the cell of a slot moved on to a sample: M, and the position, velocity and acceleration it commands
relative to its base, with what the cam reports. -/
def runCell (n : Fin 32) (ts : T64) (s : State) : State × (Int × Int × Int) :=
  let sl := s.axis.slots[n]
  let g := sl.gear
  let (mp, mv, ma) := masterState s n g ts
  let cur := Int.fdiv mp 65536
  let g := if g.fresh then { g with m := 0, last := cur, x0 := wrapS 32 (cur - g.m0) }
    else { g with m := wrapS 64 (g.m + wrapS 32 (cur - g.last)), last := cur }
  let g := { g with vM := mv, aM := ma }
  if sl.source = .cam then
    let x := g.m + g.x0
    match tabGet s.glade.tables g.table with
    | none => (modSlot s n (fun sl => { sl with gear := g }), (0, 0, 0))
    | some t =>
      let (p, v, a, out, cyc) := camState s g t x mv ma
      let s := if out && !g.outOfRange then slotEv n .warning 0x24 (sgnBytes 8 x) s else s
      let turns : List Int := if g.fresh then [] else (List.range (cyc - g.cycle).natAbs).map (fun (k : Nat) =>
        if g.cycle ≤ cyc then g.cycle + 1 + k else g.cycle - 1 - k)
      let s := turns.foldl (fun s c => slotEv n .note 0x25 (sgnBytes 4 c) s) s
      (modSlot s n (fun sl => { sl with gear := { g with outOfRange := out, cycle := cyc } }), (p, v, a))
  else
    let q := Int.fdiv (g.m * g.num) g.den
    let r := g.m * g.num - q * g.den
    (modSlot s n (fun sl => { sl with gear := { g with fq := q, rem := r } }),
      (q * 65536 + Int.fdiv (r * 65536) g.den, roundDiv (mv * g.num) g.den, roundDiv (ma * g.num) g.den))

/-- R238–R240: a geared slot at a sample: the cell's position plus the superposed offset, which its generator runs. -/
def runGear (n : Fin 32) (ts : T64) (cad : Nat) (s : State) : State :=
  let fresh := s.axis.slots[n].gear.fresh
  let here := s.axis.slots[n].gen
  let (s, p, v, a) := runCell n ts s
  let s := if fresh then modSlot s n (fun sl => { sl with
      gear := { sl.gear with fresh := false, base := roundDiv here.p (2 ^ 32) - p }
      gen := { p := here.p - roundDiv here.p (2 ^ 32) * 2 ^ 32, v := here.v - v, a := here.a - a } }) else s
  let s := match fresh, s.axis.slots[n].goal with
    | true, .position t => reverseFirst n t s
    | _, _ => s
  let sum (sl : Slot) : Gen := { p := (sl.gear.base + p) * 2 ^ 32 + sl.gen.p, v := v + sl.gen.v, a := a + sl.gen.a }
  let s := checkGoal n (setCmd n ts (sum s.axis.slots[n]) 0 s)
  let sl := s.axis.slots[n]
  let (g', _) := planPeriod sl cad
  modSlot (setCmd n ts (sum sl) 0 s) n (fun x => { x with gen := g' })

end Sys2Proof.Machine
end

