-- ==== Sys2Proof/Machine/Norrak.lean ====
section
/-!
DEFINITION. The Norrak ring (13): frames, credits and resends (R366–R370), membership, keeper and ring state (R371–R377), time
across the ring (R378), published trajectories and the committed stop (R379–R381), events and tunnels (R382–R384).
-/

namespace Sys2Proof.Machine

/-- The Norrak block, a link, a virtual channel changed. -/
def modNk (s : State) (f : NorrakSt → NorrakSt) : State := { s with norrak := f s.norrak }
def modNkLink (s : State) (l : Fin 2) (f : NkLink → NkLink) : State := modNk s (fun k => { k with links := upd k.links l f })
def modVc (s : State) (l : Fin 2) (v : Fin 4) (f : NkVc → NkVc) : State :=
  modNkLink s l (fun k => { k with vcs := upd k.vcs v f })

/-- R385: NORRAK_CFG.enable. -/
def nkOn (s : State) : Bool := regB s 0xA000 0

/-- R364: the number of configured members. -/
def nkCount (s : State) : Nat := s.norrak.members.length

/-- R372: the domain of the ring's instants: D1, or D0 while that is UNSET. -/
def nkDom (s : State) : Dom := if unset s .d1 then .d0 else .d1

/-- D1 now, as a T32. -/
def nkNow (s : State) : T32 := t32 (domNow s (nkDom s))

/-! ### Frames (R366–R368) -/

/-- R366: the bytes of a frame. -/
def nkBytes (f : NkFrame) : List Byte :=
  let body := b1 (packBits [(1, 0, f.vc), (7, 2, f.kind.toNat)]) ++ b1 (packBits [(3, 0, f.src), (7, 4, f.dst)])
    ++ b1 (ofMask [f.bcast, f.folded, f.retx]) ++ b1 f.ttl.toNat ++ leBytes 2 f.seq.toNat ++ leBytes 2 f.payload.length
    ++ f.payload
  body ++ leBytes 4 (crc32c body)

/-- A frame leaves on a link. -/
def nkOut (l : Fin 2) (f : NkFrame) (s : State) : State :=
  let s := chkObserve 3 l.val 0 f.payload s
  let s := modNkLink s l (fun k => { k with framesTx := k.framesTx + 1 })
  { s with out := s.out ++ [.norrak l (nkBytes f)] }

/-- R369: the credit totals of the four channels. -/
def nkTotal (v : Fin 4) : Nat := match v.val with
  | 0 => 4 | 1 => 16 | _ => 8

/-- R369: the frames that wait for a credit of a channel are sent while it has any. -/
def nkPump (l : Fin 2) (v : Fin 4) : Nat → State → State
  | 0, s => s
  | n + 1, s =>
    let c := s.norrak.links[l].vcs[v]
    match c.waiting with
    | [] => s
    | f :: rest =>
      if c.free = 0 then s
      else
        let f := { f with seq := c.seqTx }
        let s := modVc s l v (fun c => { c with
          waiting := rest, free := c.free - 1, seqTx := c.seqTx + 1, unacked := c.unacked ++ [f]
          sentAt := some (c.sentAt.getD s.time.now) })
        nkPump l v n (nkOut l f s)

/-- R368, R369: a credited frame is given to a link. -/
def nkGive (l : Fin 2) (f : NkFrame) (s : State) : State :=
  let s := modVc s l f.vc (fun c => { c with waiting := c.waiting ++ [f] })
  nkPump l f.vc 64 s

/-- Whether a link is up. -/
def nkUp (s : State) (l : Fin 2) : Bool := s.norrak.links[l].up

/-- R364, R375: a frame takes its path: downstream out of NK0; folded, upstream out of NK1; turned at a dead link. Whether it has
one. -/
def nkRoute (f : NkFrame) (s : State) : State × Bool :=
  if f.folded then
    (if nkUp s 1 then (nkGive 1 f s, true) else if nkUp s 0 then (nkGive 0 { f with folded := false } s, true) else (s, false))
  else
    (if nkUp s 0 then (nkGive 0 f s, true) else if nkUp s 1 then (nkGive 1 { f with folded := true } s, true) else (s, false))

/-- R366: a frame of this member: destination, or to all. -/
def nkSend (v : Fin 4) (kind : Byte) (dst : Option (Fin 16)) (payload : List Byte) (s : State) : State × Bool :=
  let pad := (4 - payload.length % 4) % 4
  nkRoute { vc := v, kind := kind, src := s.norrak.position, dst := dst.getD 0, bcast := dst.isNone
            ttl := BitVec.ofNat 8 (2 * nkCount s), payload := payload ++ List.replicate pad 0 } s

/-- R369: a receive credit of a channel is freed, to be reported in LINKCTL. -/
def nkFree (l : Fin 2) (v : Fin 4) (s : State) : State := modVc s l v (fun c => { c with freed := c.freed + 1 })

/-- R368: whether a received frame is new, is a repeat, or comes out of order behind one that was lost. -/
inductive NkSeq where
  | fresh | repeated | ahead
  deriving DecidableEq, Repr

/-- R368: what the sequence number of a received frame says. -/
def nkSeqOf (c : NkVc) (seq : BitVec 16) : NkSeq :=
  match c.seqRx with
  | none => match c.nak with
    | some n => if n = seq then .fresh else .ahead
    | none => .fresh
  | some x => if seq = x + 1 then .fresh else if (seq - x).toInt ≤ 0 then .repeated else .ahead

/-- R368: a good frame waits for its acknowledgement. -/
def nkNote (l : Fin 2) (s : State) : State :=
  modNkLink s l (fun k => { k with unackedRx := k.unackedRx + 1, oldestRx := some (k.oldestRx.getD s.time.now) })

/-- R366–R370, R375: a credited frame arrives with a good CRC: counted, acknowledged, forwarded where it must be. Whether this member
consumes it. A frame that comes back to its source is removed, and consumed there too; a folded one that only passes its source on the
way to the far end of the chain goes on. -/
def nkReceive (l : Fin 2) (h : NkHdr) (v : Fin 4) (kind : Byte) (payload : List Byte) (s : State) : State × Bool :=
  if !nkOn s || !nkUp s l then (s, false)
  else
    let s := chkObserve 3 l.val 1 payload s
    let s := modNkLink s l (fun k => { k with framesRx := k.framesRx + 1 })
    match nkSeqOf s.norrak.links[l].vcs[v] h.seq with
    | .repeated => (nkNote l s, false)
    | .ahead =>
      let c := s.norrak.links[l].vcs[v]
      (modVc s l v (fun c => { c with nak := some (c.nak.getD ((c.seqRx.map (· + 1)).getD 0)) }), false)
    | .fresh =>
      let s := nkNote l (modVc s l v (fun c => { c with seqRx := some h.seq, nak := none }))
      let own := s.norrak.position
      let back := h.src == own && !(h.folded && nkUp s 1)
      let mine := if h.src == own then back else h.bcast || h.dst == own
      let on := !back && (h.bcast || h.dst != own) && decide (1 < h.ttl.toNat)
      if on then
        let (s, went) := nkRoute { vc := v, kind := kind, src := h.src, dst := h.dst, bcast := h.bcast, folded := h.folded
                                   ttl := h.ttl - 1, payload := payload, origin := some l } s
        (if went then s else nkFree l v s, mine)
      else (nkFree l v s, mine)

/-! ### Acknowledgement, resends, credits (R368, R369) -/

/-- R368: every unacknowledged frame of a channel is sent again, oldest first. -/
def nkResend (l : Fin 2) (v : Fin 4) (s : State) : State :=
  let c := s.norrak.links[l].vcs[v]
  let n := c.unacked.length
  let s := modVc s l v (fun c => { c with sentAt := if n = 0 then none else some s.time.now, fails := c.fails + 1 })
  let s := modNkLink s l (fun k => { k with retx := k.retx + BitVec.ofNat 32 n })
  let s := c.unacked.foldl (fun s f => nkOut l { f with retx := true } s) s
  if n = 0 then s
  else
    let s := emitLim msLsb l (fun held => { source := 166, sev := .note, logged := true, idx := l, payload := b1 l ++ cnt1 held }) s
    { s with fault := { s.fault with limits := s.fault.limits.map (fun r =>
        if r.source = 166 ∧ r.index = l.val then { r with held := r.held + (n - 1) } else r) } }

/-- R368, R369: LINKCTL for one channel: acknowledged frames leave, their origins' credits are freed, credits return. -/
def nkCtlVc (l : Fin 2) (v : Fin 4) (x : LinkCtl) (s : State) : State :=
  let c := s.norrak.links[l].vcs[v]
  let acked (f : NkFrame) : Bool := decide (0 ≤ (x.ack - f.seq).toInt)
  let gone := c.unacked.filter acked
  let left := c.unacked.filter (fun f => !acked f)
  let s := modVc s l v (fun c => { c with
    unacked := left, sentAt := if left = [] then none else if gone = [] then c.sentAt else some s.time.now
    fails := if gone = [] then c.fails else 0, free := min (nkTotal v) (c.free + x.freed) })
  let s := gone.foldl (fun s f => match f.origin with
    | some o => nkFree o v s
    | none => s) s
  let s := if x.nak then nkResend l v s else s
  nkPump l v 64 s

/-! ### Membership (R371–R373) -/

/-- R372: whether a position is heard; a member always hears itself. -/
def heard (s : State) (i : Nat) : Bool :=
  i == s.norrak.position.val || (match s.norrak.members[i]? with
    | some m => (match m.heardAt with
      | some t => !m.differs && decide (s.time.now < t + msLsb)
      | none => false)
    | none => false)

/-- R385: the mask of the positions heard. -/
def heardMask (s : State) : Nat := ofMask ((List.range (nkCount s)).map (heard s))

/-- R372: whether this member has a host present. -/
def hostHere (s : State) : Bool := s.host.linkUp && ringOn s (sqBase 0) && !s.host.hbLost

/-- R364: the pair of links a position's link belongs to, by the position that has its NK0 in it. -/
def nkPairOf (s : State) (pos link : Nat) : Nat :=
  let n := max 1 (nkCount s)
  if link = 0 then pos % n else (pos + n - 1) % n

/-- R373: the link pairs known to be down. -/
def brokenPairs (s : State) : List Nat :=
  let own := s.norrak.position.val
  let mine := (List.finRange 2).filterMap (fun l => if nkUp s l then none else some (nkPairOf s own l))
  (mine ++ s.norrak.breaks.map (fun b => nkPairOf s b.1 b.2.1)).eraseDups

/-- R373: the code of a ring state. -/
def ringCode : RingState → Nat
  | .alone => 0 | .forming => 1 | .ring => 2 | .chain => 3 | .partitioned => 4

/-- R373: a change of the ring state is raised. -/
def setRing (st : RingState) (s : State) : State :=
  let old := s.norrak.state
  if old = st then s
  else
    let s := modNk s (fun k => { k with state := st })
    emit { source := 161, sev := if st = .chain then .warning else .note, payload := b1 (ringCode old) ++ b1 (ringCode st) } s

/-- R373: the state that holds but for a partition. -/
def ringNow (s : State) : RingState :=
  let k := s.norrak
  if !nkOn s || k.members.isEmpty || (!nkUp s 0 && !nkUp s 1) then .alone
  else if (k.members.zipIdx).any (fun (m, i) => i != k.position.val && !m.seen) then .forming
  else match (brokenPairs s).length with
    | 0 => .ring
    | 1 => .chain
    | _ => .forming

/-! ### A partition (R376, R377) -/

/-- R381: pending pairs whose activation lies after the partition stamp are discarded. -/
def dropPending (tp : T64) (s : State) : State :=
  modNk s (fun k => { k with pubs := k.pubs.map (fun p =>
    if decide (0 < diff64 p.cAct tp) then { p with cPend := p.cForce } else p) })

/-- R376: PARTITIONED is declared with its stamp in D1. -/
def partition (tp : T64) (s : State) : State :=
  let s := modNk s (fun k => { k with partStamp := tp, members := k.members.map (fun m => { m with seen := false }) })
  let s := emit { source := 162, sev := .fault, handler := 1, payload := leBytes 4 (t32 tp).toNat ++ leBytes 2 (heardMask s) } s
  dropPending tp (setRing .partitioned s)

/-- R373, R376, R377: the ring state follows. `tp`: the stamp of the break that has just become known. -/
def settleRing (tp : T64) (s : State) : State :=
  let k := s.norrak
  let off := !nkOn s || k.members.isEmpty
  match k.state with
  | .partitioned =>
    if off then setRing .alone s
    else if (List.range (nkCount s)).all (heard s) && decide ((brokenPairs s).length ≤ 1) then
      let s := setRing .forming s
      let s := emit { source := 163, sev := .note, payload := leBytes 2 (heardMask s) } s
      setRing (ringNow s) s
    else s
  | .chain | .ring =>
    if !off && decide (2 ≤ (brokenPairs s).length) then partition tp s else setRing (ringNow s) s
  | _ => setRing (ringNow s) s

/-- R376: HEARD_TIMEOUT: 1 ms has passed without a HELLO from a configured member. -/
def heardTimeoutEff (s : State) : State :=
  let k := s.norrak
  let lost := (List.range (nkCount s)).filter (fun i => !heard s i)
  match lost with
  | [] => s
  | i :: _ =>
    if k.state = .ring ∨ k.state = .chain then
      let t := ((k.members[i]?).bind (fun m => m.heardAt)).getD 0
      partition ((stampIn s .d1 t).t + 4000000) s
    else s

/-! ### Links (R365, R375) -/

/-- R375: BREAK is broadcast. -/
def sendBreak (l : Fin 2) (s : State) : State :=
  (nkSend 0 0x03 none (b1 s.norrak.position ++ b1 l ++ [0, 0] ++ leBytes 4 s.norrak.links[l].downStamp.toNat) s).1

/-- R365: NK_LINK. -/
def nkLinkEv (l : Fin 2) (up : Bool) (s : State) : State :=
  emit { source := 160, sev := if up then .note else .warning, idx := l
         payload := b1 l ++ b1 (ofBool up) ++ leBytes 4 s.norrak.links[l].downStamp.toNat } s

/-- R369, R375: a link goes down: its credits return, its frames take the other path, BREAK is broadcast and the ring folds or is
partitioned. -/
def nkLinkDown (l : Fin 2) (s : State) : State :=
  let at' := domNow s (nkDom s)
  let own := s.norrak.position.val
  let frames := (List.finRange 4).flatMap (fun v =>
    s.norrak.links[l].vcs[v].unacked ++ s.norrak.links[l].vcs[v].waiting)
  let s := modNkLink s l (fun k => { k with
    signal := false, aligned := false, up := false, folding := true, downs := satU 32 (k.downs + 1), downStamp := t32 at'
    unackedRx := 0, oldestRx := none, syncT1 := none
    vcs := Vector.ofFn (fun v : Fin 4 => { (k.vcs[v]) with
      free := nkTotal v, unacked := [], waiting := [], sentAt := none, nak := none, seqTx := 0, seqRx := none, freed := 0, fails := 0 }) })
  let s := nkLinkEv l false s
  let s := modNk s (fun k => { k with
    breaks := k.breaks.filter (fun b => !(b.1 == own && b.2.1 == l.val)) ++ [(own, l.val, t32 at')] })
  let s := frames.foldl (fun s f => match nkRoute f s, f.origin with
    | (s, false), some o => nkFree o f.vc s
    | (s, _), _ => s) s
  settleRing at' (sendBreak l s)

/-- R365: NK_LINK_DOWN. -/
def nkLinkDownEff (l : Fin 2) (s : State) : State := if nkUp s l then nkLinkDown l s else s

/-- R365: NK_LINK_UP: 64 consecutive good commas. -/
def nkLinkUpEff (l : Fin 2) (s : State) : State :=
  if !nkOn s || nkUp s l then s
  else
    let own := s.norrak.position.val
    let s := modNkLink s l (fun k => { k with signal := true, aligned := true, up := true, folding := false })
    let s := modNk s (fun k => { k with breaks := k.breaks.filter (fun b => !(b.1 == own && b.2.1 == l.val)) })
    settleRing (domNow s (nkDom s)) (nkLinkEv l true s)

/-- R368, R365: a resend; the eighth that fails in a row takes the link down. -/
def nkRetry (l : Fin 2) (v : Fin 4) (s : State) : State :=
  if 8 ≤ s.norrak.links[l].vcs[v].fails then nkLinkDown l s else nkResend l v s

/-- R367: what LINKCTL says of one channel: ack seq, nak flag and nak seq in two bytes (log 40), credits freed, reserved bytes. -/
def linkctlBytes (x : LinkCtl) : List Byte :=
  leBytes 2 x.ack.toNat ++ leBytes 2 (packBits [(14, 0, x.nakSeq.toNat % 2 ^ 15), (15, 15, ofBool x.nak)]) ++ b1 x.freed ++ [0, 0, 0]

/-- R368: LINKCTL_RX. -/
def linkctlRxEff (l : Fin 2) (ctl : Vector LinkCtl 4) (s : State) : State :=
  if !nkOn s || !nkUp s l then s
  else
    let s := chkObserve 3 l.val 1 (ctl.toList.flatMap linkctlBytes) s
    let s := (List.finRange 4).foldl (fun s (v : Fin 4) => nkCtlVc l v ctl[v] s) s
    if (List.finRange 4).any (fun v => decide (8 < s.norrak.links[l].vcs[v].fails)) then nkLinkDown l s else s

/-- R368: RETX_TIMEOUT. -/
def retxTimeoutEff (l : Fin 2) (v : Fin 4) (s : State) : State :=
  match s.norrak.links[l].vcs[v].sentAt with
  | some t => if nkUp s l ∧ t + 20 * usLsb ≤ s.time.now then nkRetry l v s else s
  | none => s

/-- R368: LINKCTL_TIMER: after 4 frames, 5 µs after the oldest, or to answer a bad frame. -/
def linkctlTimerEff (l : Fin 2) (s : State) : State :=
  let k := s.norrak.links[l]
  let naks := (List.finRange 4).any (fun v => k.vcs[v].nak.isSome)
  let freed := (List.finRange 4).any (fun v => k.vcs[v].freed != 0)
  let old := match k.oldestRx with
    | some t => decide (t + 5 * usLsb ≤ s.time.now)
    | none => freed
  if !k.up || !(decide (4 ≤ k.unackedRx) || old || naks) then s
  else
    let one (v : Fin 4) : List Byte :=
      let c := k.vcs[v]
      linkctlBytes { ack := c.seqRx.getD 0xFFFF, nak := c.nak.isSome, nakSeq := c.nak.getD 0, freed := c.freed }
    let s := modNkLink s l (fun k => { k with
      unackedRx := 0, oldestRx := none, vcs := k.vcs.map (fun c => { c with nak := none, freed := 0 }) })
    nkOut l { vc := 0, kind := 0x3F, src := s.norrak.position, dst := 0, bcast := false, ttl := 1
              payload := (List.finRange 4).flatMap one } s

/-- R366: NK_BAD_FRAME. -/
def nkBadFrameEff (l : Fin 2) (v : Fin 4) (s : State) : State :=
  if !nkOn s || !nkUp s l then s
  else
    let s := modNkLink s l (fun k => { k with crcErr := k.crcErr + 1 })
    let s := { s with tally := { s.tally with linkErrors := upd s.tally.linkErrors ⟨4 + l.val, by omega⟩ (· + 1) } }
    modVc s l v (fun c => { c with nak := some ((c.seqRx.map (· + 1)).getD 0) })

/-! ### HELLO and the keeper (R372, R374) -/

/-- R374: the keeper by what has been heard: the lowest (priority, serial). -/
def keeperChoice (s : State) : Option (Fin 16) :=
  let own := s.norrak.position.val
  let all := (s.norrak.members.zipIdx).filter (fun (m, i) => heard s i && !m.never)
  let hosted := all.filter (fun (m, i) => if i = own then hostHere s else m.hostPresent)
  (bestBy (fun (a b : Member × Nat) => decide (a.1.priority.toNat < b.1.priority.toNat)
    || (a.1.priority == b.1.priority && decide (a.1.serial.toNat < b.1.serial.toNat)))
    (if hosted.isEmpty then all else hosted)).map (fun x => Fin.ofNat 16 x.2)

/-- R374: a HELLO instant: a choice takes effect once it has stayed the same for three. -/
def stepKeeper (s : State) : State :=
  let k := s.norrak
  let c := keeperChoice s
  let n := if k.candidate = c then min 3 (k.candCount + 1) else 1
  let s := modNk s (fun k => { k with candidate := c, candCount := n })
  match c with
  | some p =>
    if n = 3 ∧ (p ≠ k.keeper ∨ (p = k.position ∧ ¬ k.isKeeper)) then
      let was := disciplined s .d1
      let s := reDiscipline .d1 was (modNk s (fun k => { k with keeper := p, isKeeper := p == k.position }))
      if p = k.keeper then s else emit { source := 164, sev := .note, payload := b1 k.keeper ++ b1 p } s
    else s
  | none => s

/-- R381: publications whose last record lies behind, ended or stopped, are over. -/
def expirePubs (s : State) : State :=
  let now := domNow s .d1
  modNk s (fun k => { k with pubs := k.pubs.filter (fun p =>
    let past := match p.recs.getLast? with
      | some r => decide (0 ≤ diff64 now (resolve32 now r.t))
      | none => true
    !(past && p.unsent.isEmpty && (p.final || p.stopped))) })

/-- R367: the HELLO of this member. -/
def helloBytes (s : State) : List Byte :=
  let k := s.norrak
  let own := k.members[k.position.val]?
  let st (i : Nat) : Nat := ((k.breaks[i]?).map (fun b => b.2.2.toNat)).getD 0
  leBytes 8 ((own.map (fun m => m.serial.toNat)).getD Config.serial.toNat) ++ leBytes 4 k.listCrc.toNat
    ++ b1 ((own.map (fun m => m.priority.toNat)).getD 0)
    ++ b1 (packBits [(0, 0, ofBool (hostHere s)), (1, 1, ofBool k.isKeeper), (4, 2, ringCode k.state)]) ++ b1 k.keeper ++ [0]
    ++ leBytes 4 (st 0) ++ leBytes 4 (st 1)

/-- R372: HELLO_SEND: at each multiple of 250 µs, and the keeper is chosen again. -/
def helloSendEff (s : State) : State :=
  let d := nkDom s
  let now := domNow s d
  let due := toD0 s ⟨d, now - BitVec.ofNat 64 (now.toNat % 4000000)⟩
  let fresh := match s.norrak.helloAt with
    | some t => decide ((t : Int) < due)
    | none => true
  if !nkOn s || s.norrak.members.isEmpty || !fresh then s
  else
    let s := expirePubs (modNk s (fun k => { k with helloAt := some s.time.now }))
    stepKeeper (nkSend 0 0x00 none (helloBytes s) s).1

/-- The bytes of a HELLO that is forwarded. -/
def helloPayload (h : Hello) : List Byte :=
  leBytes 8 h.serial.toNat ++ leBytes 4 h.check.toNat ++ b1 h.priority.toNat
    ++ b1 (packBits [(0, 0, ofBool h.hostPresent), (1, 1, ofBool h.keeper), (4, 2, h.ringState.toNat)]) ++ b1 h.keeperPos.toNat ++ [0]
    ++ leBytes 4 (h.breaks[0]?.getD 0).toNat ++ leBytes 4 (h.breaks[1]?.getD 0).toNat

/-- R372: HELLO_RX. -/
def helloRxEff (l : Fin 2) (hdr : NkHdr) (h : Hello) (s : State) : State :=
  let (s, mine) := nkReceive l hdr 0 0x00 (helloPayload h) s
  if !mine || hdr.src == s.norrak.position then s
  else
    let i := hdr.src.val
    let known := match s.norrak.members[i]? with
      | some m => m.serial == h.serial
      | none => false
    if h.check ≠ s.norrak.listCrc then
      emit { source := 165, sev := .warning, payload := b1 i ++ leBytes 4 h.check.toNat }
        (modNk s (fun k => { k with members := k.members.modify i (fun m => { m with differs := true }) }))
    else if !known then s
    else
      let s := modNk s (fun k => { k with
        members := k.members.modify i (fun m => { m with
          heardAt := some s.time.now, seen := true, differs := false, hostPresent := h.hostPresent })
        breaks := k.breaks.filter (fun b => b.1 != i || h.breaks.contains b.2.2) })
      settleRing (domNow s (nkDom s)) s

/-- R376: BREAK_RX. -/
def breakRxEff (l : Fin 2) (hdr : NkHdr) (pos : Fin 16) (broken : Fin 2) (stamp : T32) (s : State) : State :=
  let (s, mine) := nkReceive l hdr 0 0x03 (b1 pos ++ b1 broken ++ [0, 0] ++ leBytes 4 stamp.toNat) s
  if !mine || hdr.src == s.norrak.position then s
  else
    let s := modNk s (fun k => { k with
      breaks := k.breaks.filter (fun b => !(b.1 == pos.val && b.2.1 == broken.val)) ++ [(pos.val, broken.val, stamp)] })
    settleRing (resolve32 (domNow s (nkDom s)) stamp) s

/-! ### Time (R378) -/

/-- R378: the hops to the keeper by a link, and whether that way is whole. -/
def keeperHops (s : State) (l : Fin 2) : Option Nat :=
  let k := s.norrak
  let n := max 1 (nkCount s)
  let h := if l = 0 then (k.keeper.val + n - k.position.val) % n else (k.position.val + n - k.keeper.val) % n
  let down := brokenPairs s
  let ways := (List.range h).map (fun i => if l = 0 then (k.position.val + i) % n else (k.position.val + n - 1 - i) % n)
  if ways.any (fun p => down.contains p) then none else some h

/-- R378: the link to the time parent: the fewest hops, NK1 on a tie. -/
def parentLink (s : State) : Option (Fin 2) :=
  if s.norrak.isKeeper || s.norrak.members.isEmpty || s.norrak.keeper == s.norrak.position then none
  else match keeperHops s 0, keeperHops s 1 with
    | some a, some b => some (if a < b then 0 else 1)
    | some _, none => some 0
    | none, some _ => some 1
    | none, none => none

/-- R378: SYNC_SEND: every 1 ms, to the time parent; R374: the keeper's D1 is compared with its own D3 instead. -/
def syncSendEff (s : State) : State :=
  let due := match s.norrak.syncAt with
    | some t => decide (t + msLsb ≤ s.time.now)
    | none => true
  if s.norrak.isKeeper then
    if nkOn s && due && regB s 0xA000 1 && !unset s .d3 then
      masterUpdateEff .d1 (domNow s .d3) (modNk s (fun k => { k with syncAt := some s.time.now }))
    else s
  else match parentLink s with
  | some l =>
    if nkOn s && due && nkUp s l then
      let s := modNkLink s l (fun k => { k with syncT1 := some (domNow s .d1, s.time.now) })
      let s := modNk s (fun k => { k with syncAt := some s.time.now })
      nkOut l { vc := 0, kind := 0x01, src := s.norrak.position, dst := 0, bcast := false, ttl := 1, payload := [] } s
    else s
  | none => s

/-- R378: SYNC_RX: answered with SYNC_RESP. -/
def syncRxEff (l : Fin 2) (s : State) : State :=
  if nkOn s && nkUp s l then
    let s := chkObserve 3 l.val 1 [] s
    let s := modNkLink s l (fun k => { k with framesRx := k.framesRx + 1 })
    let t := leBytes 4 (t32 (domNow s .d1)).toNat
    nkOut l { vc := 0, kind := 0x02, src := s.norrak.position, dst := 0, bcast := false, ttl := 1
              payload := t ++ t ++ b1 (domStateCode s.time.d1.state) ++ [0, 0, 0] } s
  else s

/-- R378, R5: SYNC_RESP_RX: a master update of D1. -/
def syncRespEff (l : Fin 2) (t2 t3 : T32) (s : State) : State :=
  match s.norrak.links[l].syncT1 with
  | some (t1, _) =>
    if !nkOn s || !nkUp s l then s
    else
      -- the state byte of the answer is not an operand of the command: a free value
      let (x, s) := takeFree s
      let s := chkObserve 3 l.val 1 (leBytes 4 t2.toNat ++ leBytes 4 t3.toNat ++ b1 x ++ [0, 0, 0]) s
      let t4 := domNow s .d1
      let there := diff64 (resolve32 t4 t2) t1
      let back := diff64 t4 (resolve32 t4 t3)
      let theta := roundDiv (there - back - sext 32 (reg s (0xA018 + 4 * l))) 2
      let s := modNkLink s l (fun k => { k with
        framesRx := k.framesRx + 1, syncT1 := none, syncMissed := 0, delay := toW 32 (roundDiv (there + back) 2) })
      masterUpdateEff .d1 (domNow s .d1 + BitVec.ofInt 64 theta) s
  | none => s

/-- R378: SYNC_TIMEOUT. -/
def syncTimeoutEff (l : Fin 2) (s : State) : State :=
  match s.norrak.links[l].syncT1 with
  | some (_, t) =>
    if t + 100 * usLsb ≤ s.time.now then
      let n := s.norrak.links[l].syncMissed + 1
      let s := modNkLink s l (fun k => { k with syncT1 := none, syncMissed := n })
      emit { source := 170, sev := .warning, idx := l, payload := b1 l ++ b1 (min n 255) } s
    else s
  | none => s

/-! ### RING_MEMBERS (R371) -/

/-- R371: the list that a RING_MEMBERS brings. -/
def listOf (f : InFlight) : List Member :=
  (List.range (pU f.payload 24 1)).map (fun i =>
    { serial := BitVec.ofNat 64 (leAt f.buf.data (16 * i) 8), priority := BitVec.ofNat 8 (byteAt f.buf.data (16 * i + 8))
      never := bit (byteAt f.buf.data (16 * i + 9)) 0 })

/-- R371, R385: whether a slot of the member publishes or follows a remote master. -/
def ringBound (s : State) : Bool :=
  s.norrak.pubs.any (fun p => p.isLocal)
    || s.axis.slots.toList.any (fun sl => (sl.source == .gear || sl.source == .cam) && sl.gear.masterKind == 2)

/-- R371: the first entry that repeats a serial. -/
def repeatAt (ms : List Member) : Option Nat :=
  (List.range ms.length).find? (fun i => match ms[i]? with
    | some m => (ms.take i).any (fun x => x.serial == m.serial)
    | none => false)

/-- R371: the checks of RING_MEMBERS. -/
def membersCheck (f : InFlight) (s : State) : Option (Nat × Int) :=
  let p := f.payload
  let n := pU p 24 1
  let ms := listOf f
  firstFail [resv p 25 63, inval (decide (n < 2) || decide (16 < n)) 24, denied (ringBound s) 0x50, bufFailed f (16 * n),
    ((repeatAt ms).isSome, 0x0080, ((repeatAt ms).getD 0 : Nat)), (ms.all (fun m => m.serial != Config.serial), 0x0080, (n : Int))]

/-- R371: RING_MEMBERS takes effect on acceptance. -/
def membersNow (f : InFlight) (s : State) : State :=
  let ms := listOf f
  let pos := (ms.findIdx? (fun m => m.serial == Config.serial)).getD 0
  let was := disciplined s .d1
  let s := modNk s (fun k => { k with
    members := ms, listCrc := BitVec.ofNat 32 (crc32c (f.buf.data.take (16 * ms.length))), position := Fin.ofNat 16 pos
    breaks := [], candidate := none, candCount := 0, isKeeper := false, evtSeen := [], reqSeen := [], pubs := [] })
  let s := reDiscipline .d1 was s
  settleRing (domNow s (nkDom s)) (completeOk f.id (some (nowStamp s)) s)

/-! ### Publication (R379, R380) -/

/-- R379: the horizon of a start, ms. -/
def horizonOf (p : BitVec 384) : Nat := orDefaultMs (pU p 17 1)
where orDefaultMs (x : Nat) : Nat := if x = 0 then 20 else x

/-- R380: the horizon of a publication in LSB. -/
def horizonLsb (p : Publication) : Nat := p.horizonMs * msLsb

/-- R380: the local publication of a slot. -/
def localPub (s : State) (n : Fin 32) : Option Publication := s.norrak.pubs.find? (fun p => p.isLocal && p.slot == n)

/-- The local publication of a slot changed. -/
def modPub (s : State) (n : Fin 32) (f : Publication → Publication) : State :=
  modNk s (fun k => { k with pubs := k.pubs.map (fun p => if p.isLocal && p.slot == n then f p else p) })

/-- R377, R379: the states that refuse a RING_TRAJ_PUBLISH. -/
def publishState (f : InFlight) (s : State) : List Check :=
  let n := slotT f
  let sl := s.axis.slots[n]
  if pU f.payload 16 1 = 0 then
    let st := s.norrak.state
    let stand := (sl.bind.map (fun b => b.standstill)).getD 0
    let mine := (s.norrak.pubs.filter (fun p => p.isLocal)).length
    [denied (sl.bind.isNone) 0, denied (st == .partitioned || st == .forming) 0x52,
      denied (slotDom s n != .d1 || sl.source != .profile || decide (stand < sl.cmdV.natAbs) || (localPub s n).isSome) 0x51,
      (decide (16 ≤ s.norrak.pubs.length) || decide (4 ≤ mine), 0x0080, (s.norrak.pubs.length : Nat))]
  else [denied (localPub s n).isNone 0x51, denied (sl.gen.v != 0 || sl.gen.a != 0) 0x51]

/-- R379: the checks of RING_TRAJ_PUBLISH. -/
def publishCheck (f : InFlight) (s : State) : Option (Nat × Int) :=
  let p := f.payload
  let h := horizonOf p
  let P := (s.axis.slots[slotT f].bind.map outPeriod).getD 1
  firstFail ([resv p 18 63, inval (decide (1 < pU p 16 1)) 16,
    inval (pU p 16 1 == 0 && (decide (h < 5) || decide (50 < h) || decide (1024 * P < h * msLsb))) 17] ++ publishState f s)

/-- R379: a publication starts or ends at a sample of its slot. -/
def publishNow (f : InFlight) (tApply ts : Stamp) (s : State) : State :=
  match firstFail (publishState f s) with
  | some (st, d) => complete f.id st 0 d none s
  | none =>
    let n := slotT f
    let sl := s.axis.slots[n]
    let starts := pU f.payload 16 1 == 0
    let h := horizonOf f.payload
    let first := ts.t + BitVec.ofNat 64 (h * msLsb)
    let lim := sl.limits.getD {}
    let s := if starts then
        modNk s (fun k => { k with pubs := k.pubs ++
          [{ slot := n, pos := k.position, isLocal := true, horizonMs := h, startedAt := ts.t, cForce := first, cPend := first
             cAct := first, stopDec := BitVec.ofInt 32 lim.stopDec, stopJerk := BitVec.ofInt 32 lim.stopJerk
             period := (sl.bind.map outPeriod).getD 0 }] })
      else modPub s n (fun p => { p with final := true })
    let h := if starts then h else ((localPub s n).map (fun p => p.horizonMs)).getD 0
    let s := emit { source := 168, sev := .note, idx := n, payload := b1 n ++ b1 (ofBool (!starts)) ++ b1 h } s
    completeOk f.id (some tApply) s

/-- R380: a record is appended at a sample: kept by this member, and waiting to be sent. -/
def appendRec (n : Fin 32) (r : TrajRec) (s : State) : State :=
  let now := domNow s .d1
  modPub s n (fun p => { p with
    recs := (p.recs.filter (fun x => decide (-2 * (p.period : Int) < diff64 (resolve32 now x.t) now))) ++ [r]
    unsent := p.unsent ++ [r], unsentAt := some (p.unsentAt.getD s.time.now) })

/-- R380: the payload of a TRAJ frame. -/
def trajBytes (p : TrajPayload) : List Byte :=
  b1 p.slot ++ b1 p.recs.length ++ b1 (ofBool p.final) ++ [0] ++ leBytes 4 p.cForce.toNat ++ leBytes 4 p.cPend.toNat
    ++ leBytes 4 p.cAct.toNat ++ leBytes 4 p.stopDec.toNat ++ leBytes 4 p.stopJerk.toNat
    ++ p.recs.flatMap (fun r => leBytes 4 r.t.toNat ++ leBytes 6 r.p.toNat ++ leBytes 4 r.v.toNat ++ leBytes 4 r.a.toNat
      ++ leBytes 4 r.j.toNat ++ [0, 0])

/-- R380: TRAJ_SEND: 8 records are ready, or the oldest has waited 250 µs. -/
def trajSendEff (n : Fin 32) (s : State) : State :=
  match localPub s n with
  | none => s
  | some p =>
    let old := match p.unsentAt with
      | some t => decide (t + 250 * usLsb ≤ s.time.now)
      | none => false
    if p.unsent.isEmpty || !(decide (8 ≤ p.unsent.length) || old) then s
    else
      let recs := p.unsent.take 8
      let rest := p.unsent.drop 8
      let s := modPub s n (fun p => { p with unsent := rest, unsentAt := if rest.isEmpty then none else some s.time.now })
      (nkSend 1 0x08 none (trajBytes { slot := n, final := p.final && rest.isEmpty, cForce := t32 p.cForce, cPend := t32 p.cPend
                                       cAct := t32 p.cAct, stopDec := p.stopDec, stopJerk := p.stopJerk, recs := recs }) s).1

/-- R381: a TRAJ frame has come back to its source: the next committed stop time. -/
def trajBack (n : Fin 32) (p : TrajPayload) (s : State) : State :=
  let now := domNow s .d1
  match p.recs.getLast? with
  | none => s
  | some r =>
    modPub s n (fun q =>
      if q.cPend = q.cForce ∧ ¬ q.stopping ∧ s.norrak.state ≠ .partitioned then
        { q with cPend := resolve32 now r.t + BitVec.ofNat 64 q.period, cAct := gridAt msLsb 0 (now + BitVec.ofNat 64 msLsb) }
      else q)

/-- R380: the records of a frame that a member does not yet hold: repeats are known by their instants. -/
def newRecs (now : T64) (held recs : List TrajRec) : List TrajRec :=
  match held.getLast? with
  | some x => recs.filter (fun r => decide (0 < diff64 (resolve32 now r.t) (resolve32 now x.t)))
  | none => recs

/-- R380: a TRAJ frame of another member is stored. -/
def trajStore (pos : Fin 16) (p : TrajPayload) (s : State) : State :=
  let now := domNow s .d1
  let part := s.norrak.state == .partitioned
  let t (x : T32) : T64 := resolve32 now x
  let known := s.norrak.pubs.any (fun q => q.pos == pos && q.slot == p.slot)
  let put (q : Publication) : Publication :=
    let fresh := newRecs now q.recs p.recs
    let recs := (q.recs.filter (fun r => decide (-2 * (q.period : Int) < diff64 (t r.t) now)) ++ fresh).take 1024
    let period := match recs with
      | a :: b :: _ => (diff64 (t b.t) (t a.t)).natAbs
      | _ => q.period
    let q := { q with recs := recs, period := period, final := q.final || p.final, stopDec := p.stopDec, stopJerk := p.stopJerk }
    -- a frame sent before its pair was activated may come after: the value in force never goes back
    let force := if 0 ≤ diff64 now (t p.cAct) then t p.cPend else t p.cForce
    let force := if known && decide (0 < diff64 q.cForce force) then q.cForce else force
    if part || q.stopping then q else { q with cForce := force, cPend := t p.cPend, cAct := t p.cAct }
  modNk s (fun k =>
    if known then { k with pubs := k.pubs.map (fun q => if q.pos == pos && q.slot == p.slot then put q else q) }
    else if k.pubs.length < 16 then
      { k with pubs := k.pubs ++ [put { slot := p.slot, pos := pos, isLocal := false, horizonMs := 0 }] }
    else k)

/-- R380, R381: TRAJ_RX. -/
def trajRxEff (l : Fin 2) (hdr : NkHdr) (p : TrajPayload) (s : State) : State :=
  let (s, mine) := nkReceive l hdr 1 0x08 (trajBytes p) s
  if !mine then s
  else if hdr.src = s.norrak.position then trajBack p.slot p s
  else trajStore hdr.src p s

/-! ### The committed stop (R381) -/

/-- R381: COMMIT_ACTIVATE: the pending value of entry `k` is in force. -/
def commitActivateEff (k : Fin 16) (s : State) : State :=
  let now := domNow s .d1
  modNk s (fun x => { x with pubs := x.pubs.modify k.val (fun p =>
    if p.cPend ≠ p.cForce ∧ 0 ≤ diff64 now p.cAct then { p with cForce := p.cPend } else p) })

/-- R381, R224: one period of a stop profile. -/
def stopPeriod (p : Publication) : Gen × Int :=
  let g := p.stopGen
  let cad := max 1 (p.period / cadence)
  if g.v = 0 ∧ g.a = 0 then (g, 0)
  else
    let d := fine p.stopDec.toInt
    let jm := fine p.stopJerk.toInt
    let lim := fine (2 ^ 31 - 1)
    let j := velJerk g 0 lim d jm cad (Config.planJerk [g.p, g.v, g.a, 2, 0, lim, lim, d, jm, cad])
    let g' := advance g j cad
    (if atTarget g' .rest then snapTo g' .rest else g', j)

/-- R381: the records of a stop profile up to an instant. -/
def extendStop (ts : T64) : Nat → Publication → Publication
  | 0, p => p
  | n + 1, p =>
    match p.stopNext with
    | none => p
    | some t =>
      if diff64 ts t < 0 then p
      else
        let (g, j) := stopPeriod p
        let (x, v, a) := outGen p.stopGen
        let r : TrajRec := { t := t32 t, p := x, v := BitVec.ofInt 32 v, a := BitVec.ofInt 32 a
                             j := BitVec.ofInt 32 (roundDiv j (2 ^ 32)) }
        let rest := p.stopGen.v == 0 && p.stopGen.a == 0
        extendStop ts n { p with
          recs := (p.recs.reverse.take 2).reverse ++ [r], stopGen := g, stopped := rest
          stopNext := if rest then none else some (t + BitVec.ofNat 64 p.period) }

/-- R381: every stop profile that runs is carried on to an instant of D1. -/
def advanceStops (ts : T64) (s : State) : State :=
  modNk s (fun k => { k with pubs := k.pubs.map (fun p => if p.stopping then extendStop ts 16384 p else p) })

/-- R381: whether a slot publishes or follows a remote master, and so follows the stop profile. -/
def followsStop (s : State) (n : Fin 32) : Bool :=
  let sl := s.axis.slots[n]
  (localPub s n).isSome || ((sl.source == .gear || sl.source == .cam) && sl.gear.masterKind == 2)

/-- R381: the stop groups of NORRAK_CFG.part_groups take STOP mode 1; a path group comes to rest along its path (R235). -/
def partStops (s : State) : State :=
  let s := (List.finRange 8).foldl (fun s (g : Fin 8) => if regB s 0xA000 (16 + g) then ss1Paths g s else s) s
  (List.finRange 32).foldl (fun s (n : Fin 32) =>
    let sl := s.axis.slots[n]
    match sl.bind with
    | some b =>
      if regB s 0xA000 (16 + b.group) && sl.mode == .auto && !followsStop s n && b.kind != .band && sl.source != .path then
        modSlot s n (fun sl => { setGoal .rest none (0, 0, 0, 0) (toProfile sl) with stopLimits := true })
      else s
    | none => s) s

/-- R381: COMMIT_STOP: the committed stop time of entry `k` is reached on a partition. -/
def commitStopEff (k : Fin 16) (s : State) : State :=
  match s.norrak.pubs[k.val]? with
  | none => s
  | some p =>
    let now := domNow s .d1
    if s.norrak.state ≠ .partitioned ∨ p.stopping ∨ diff64 now p.cForce < 0 then s
    else
      let g : Gen := match pubCubic p p.cForce with
        | some c =>
          let (x, v, a) := cubicState c p.cForce
          { p := x * 2 ^ 32, v := v, a := a }
        | none => {}
      let put (p : Publication) : Publication := { p with
        stopping := true, unsent := [], unsentAt := none, stopGen := g, stopNext := some p.cForce
        recs := p.recs.filter (fun r => decide (diff64 (resolve32 now r.t) p.cForce < 0)) }
      let s := modNk s (fun x => { x with pubs := x.pubs.modify k.val put })
      let s := partStops (advanceStops now s)
      emit { source := 167, sev := .warning, idx := p.pos
             payload := b1 p.pos ++ b1 p.slot ++ leBytes 4 (t32 p.cForce).toNat } s

/-! ### Events (R382, R481) -/

/-- R382: the sink of this member's events, when it is another member. -/
def evtSink (s : State) : Option (Fin 16) :=
  let p := regF s 0xA000 11 8
  if nkOn s && decide (p < nkCount s) && p != s.norrak.position.val then some (Fin.ofNat 16 p) else none

/-- R475: the 32 bytes of an event record. -/
def recordBytes (t : Token) (phase : Bool) : List Byte :=
  let pay := (t.payload ++ List.replicate 14 0).take 14
  b1 t.source ++ b1 (sevCode t.sev) ++ b1 (packBits [(3, 0, t.origin), (4, 4, ofBool t.remote)]) ++ [0] ++ leBytes 4 t.seq.toNat
    ++ leBytes 8 t.stamp.t.toNat ++ pay ++ b1 (packBits [(1, 0, domCode t.stamp.dom), (7, 7, ofBool phase)]) ++ [0xFD]

/-- R382: an event record written is sent to the sink, its stamp in D1; one that has no way is counted lost. For R37 and R38 to hold with
that, the copy counts as a token generated and lost (log 47). -/
def forwardEvent (t : Token) (s : State) : State :=
  match evtSink s with
  | none => s
  | some p =>
    if t.remote then s
    else
      let t := { t with stamp := restamp s .d1 t.stamp }
      let (s, went) := nkSend 2 0x10 (some p) (recordBytes t false) s
      if went && heard s p then s
      else { s with fault := { s.fault with
        evtGen := s.fault.evtGen + 1, evtLost := s.fault.evtLost + 1
        loss := cellPut zero0 s.fault.loss t.source ((cellGet zero0 s.fault.loss t.source + 1) % 65536) } }

/-- R475: the token of a received record. -/
def tokenOf (x : BitVec 256) : Token :=
  let n := x.toNat
  { source := bits n 7 0
    sev := match bits n 9 8 with
      | 0 => .note | 1 => .warning | 2 => .fault | _ => .stop
    seq := BitVec.ofNat 32 (bits n 63 32), stamp := ⟨domOf (bits n 241 240), BitVec.ofNat 64 (bits n 127 64)⟩
    payload := leBytes 14 (bits n 239 128), origin := bits n 19 16, remote := true }

/-- R382, R481: EVENT_FRAME_RX: the sink takes the record, once; it refuses one that its buffer cannot hold. -/
def eventFrameRxEff (l : Fin 2) (hdr : NkHdr) (rec' : BitVec 256) (s : State) : State :=
  let t := tokenOf rec'
  let here := hdr.dst == s.norrak.position && !hdr.bcast
  if here && decide (64 ≤ s.fault.buffer.length) then s
  else
    let (s, mine) := nkReceive l hdr 2 0x10 (leBytes 32 rec'.toNat) s
    if !mine || hdr.src == s.norrak.position || s.norrak.evtSeen.contains (t.origin, t.seq) then s
    else
      let s := modNk s (fun k => { k with evtSeen := ((t.origin, t.seq) :: k.evtSeen).take 64 })
      { s with fault := { s.fault with buffer := s.fault.buffer ++ [t] } }

/-! ### Tunnels (R383, R384) -/

/-- R383: the member a TUNNEL names. -/
def tunnelDst (f : InFlight) : Fin 16 := Fin.ofNat 16 f.target.idx

/-- R383, R384: the checks of TUNNEL. -/
def tunnelCheck (f : InFlight) (s : State) : Option (Nat × Int) :=
  let p := f.payload
  let n := pU p 24 1
  let d := tunnelDst f
  firstFail [resv p 25 27, resv p 48 63, inval (n == 0 || decide (16 < n)) 24, inval (decide (16384 < pU p 44 4)) 44,
    bufFailed f (64 * n + pU p 44 4),
    (d != s.norrak.position && (!nkOn s || decide (nkCount s ≤ d.val) || !heard s d), 0x0080, 0)]

/-- R384: bytes in frames: the identifier and up to 252 bytes each. -/
def chunks252 : Nat → List Byte → List (List Byte)
  | 0, _ => []
  | _, [] => []
  | n + 1, bs => bs.take 252 :: chunks252 n (bs.drop 252)

/-- R384: a request or a response leaves for a member. -/
def tunnelFrames (kind : Byte) (dst : Fin 16) (ident : BitVec 16) (bs : List Byte) (s : State) : State :=
  (chunks252 80 bs).foldl (fun s c => (nkSend 3 kind (some dst) (leBytes 2 ident.toNat ++ [0, 0] ++ c) s).1) s

/-- R383: the inner descriptors that a TUNNEL carries. -/
def innerDescs (f : InFlight) : List RawDesc :=
  let n := pU f.payload 24 1
  let data := f.buf.data.drop (64 * n)
  (List.range n).map (fun i => { bits := BitVec.ofNat 512 (leAt f.buf.data (64 * i) 64), buf := { data := data, ok := true } })

/-- R383: every inner completion has come: they are in the completion buffer and the data is in its area, and the TUNNEL completes. -/
def tunnelDone (t : Tunnel) (s : State) : State :=
  let first := ((t.got.zipIdx).find? (fun (c, _) => bits c.toNat 47 32 != 0)).map (fun x => x.2)
  let s := modNk s (fun k => { k with tunnels := k.tunnels.filter (fun x => x.desc != t.desc) })
  let s := match flightOf s t.desc with
    | some f =>
      let s := if t.data = [] then s else hostWrite f t.dataBuf.toNat (t.data.take t.dataLen) s
      hostWrite f t.cplBuf.toNat (t.got.flatMap (fun c => leBytes 32 c.toNat)) s
    | none => s
  complete t.desc stOK t.got.length ((first.getD 0xFF : Nat)) ((flightOf s t.desc).bind (fun f => f.applied)) s

/-- R384: TUNNEL_RSP_RX. -/
def tunnelRspRxEff (l : Fin 2) (hdr : NkHdr) (ident : BitVec 16) (cpls : List (BitVec 256)) (data : List Byte) (s : State) :
    State :=
  let body := leBytes 2 ident.toNat ++ [0, 0] ++ cpls.flatMap (fun c => leBytes 32 c.toNat) ++ data
  let (s, mine) := nkReceive l hdr 3 0x19 body s
  if !mine || hdr.src == s.norrak.position then s
  else match s.norrak.tunnels.find? (fun t => t.ident == ident && t.dst == hdr.src) with
    | none => s
    | some t =>
      -- R369: what has come before is discarded
      let t := { t with got := (t.got ++ cpls.filter (fun c => !t.got.contains c)).take t.count
                        data := if data = [] then t.data else data }
      let s := modNk s (fun k => { k with tunnels := k.tunnels.map (fun x => if x.desc = t.desc then t else x) })
      if t.got.length = t.count then tunnelDone t s else s

/-- R384: a TUNNEL whose destination is no longer heard. -/
def settleTunnels (s : State) : State :=
  (s.norrak.tunnels.filter (fun t => t.dst != s.norrak.position && !heard s t.dst)).foldl (fun s t =>
    let s := modNk s (fun k => { k with tunnels := k.tunnels.filter (fun x => x.desc != t.desc) })
    complete t.desc 0x0080 0 t.got.length none s) s

/-! ### Registers (R385) -/

/-- R385: a write of NORRAK_CFG. -/
def norrakCfgWrite (value : Nat) (s : State) : State :=
  let was := reg s 0xA000
  let v := if ringBound s then putBits was 23 16 (bits value 23 16) else value
  let led := disciplined s .d1
  let s := reDiscipline .d1 led (writeRw s 0xA000 v)
  if bit was 0 == regB s 0xA000 0 then s
  else if bit was 0 then
    let s := (List.finRange 2).foldl (fun s (l : Fin 2) => nkLinkDownEff l s) s
    settleRing (domNow s (nkDom s)) (modNk s (fun k => { k with breaks := [] }))
  else modNk s (fun k => { k with members := k.members.map (fun m => { m with seen := false, differs := false, heardAt := none }) })

end Sys2Proof.Machine
end

