-- ==== Sys2Proof/Machine/Trig.lean ====
section
/-!
DEFINITION. Sine, cosine and the angle of a vector, which R541 and R232 call for: computed in fixed point to more bits than
any output word keeps, so that the rounding of R537 is made once, at the output (log 23).
-/

namespace Sys2Proof.Machine

/-- 2π with 80 fraction bits. -/
def twoPi80 : Int := 7595904947272677161575987

/-- The terms of the series of sine (from `k = 1`) or cosine (from `k = 0`) at `x`, with 80 fraction bits. -/
def trigSeries (x2 : Int) : Nat → Nat → Int → Int → Int
  | 0, _, _, acc => acc
  | fuel + 1, k, term, acc =>
    let next := -(Int.fdiv (Int.fdiv (term * x2) (2 ^ 80)) ((k + 1) * (k + 2) : Nat))
    trigSeries x2 fuel (k + 2) next (acc + next)

/-- Sine and cosine, with 64 fraction bits, of an angle of at most an eighth of a revolution (units 2^-64). -/
def octant (a : Int) : Int × Int :=
  let x := roundDiv (a * twoPi80) (2 ^ 64)
  let x2 := roundDiv (x * x) (2 ^ 80)
  (roundDiv (trigSeries x2 13 1 x x) (2 ^ 16), roundDiv (trigSeries x2 13 0 (2 ^ 80) (2 ^ 80)) (2 ^ 16))

/-- Sine and cosine, with 64 fraction bits, of an angle in units of 2^-64 revolution. -/
def sinCos (a : Int) : Int × Int :=
  let a := a % 2 ^ 64
  let q := (a + 2 ^ 61) / 2 ^ 62
  let (s, c) := octant (a - q * 2 ^ 62)
  match (q % 4).toNat with
  | 0 => (s, c)
  | 1 => (c, -s)
  | 2 => (-s, -c)
  | _ => (-c, s)

/-- The bits of an angle below a quarter revolution whose tangent is `y ÷ x`, both not negative, from the highest. -/
def angleBits (x y : Int) : Nat → Int → Int
  | 0, a => a
  | k + 1, a =>
    let b := a + 2 ^ k
    let (s, c) := sinCos b
    angleBits x y k (if x * s ≤ y * c then b else a)

/-- The angle of a vector in units of 2^-64 revolution, 0 to 2^64 − 1; 0 for the vector 0. -/
def angleOf (x y : Int) : Int :=
  let q (x y : Int) : Int := angleBits x y 62 0
  if x = 0 ∧ y = 0 then 0
  else if 0 < x ∧ 0 ≤ y then q x y
  else if x ≤ 0 ∧ 0 < y then 2 ^ 62 + q y (-x)
  else if x < 0 ∧ y ≤ 0 then 2 ^ 63 + q (-x) (-y)
  else (3 * 2 ^ 62 + q (-y) x) % 2 ^ 64

end Sys2Proof.Machine
end

