-- ==== Sys2Proof/Machine/Path.lean ====
section
/-!
DEFINITION. Path groups (R230–R235): their descriptors, the geometry of their segments and the interpolator.
-/

namespace Sys2Proof.Machine

/-! ### Geometry (R232). Positions in 2^-16 counts, one per member in member order. -/

/-- A path group and segment geometry: start, end, centre, and for a spline the points before and after. -/
structure Geo where
  kind : Nat
  ia : Nat
  ib : Nat
  start : List Int
  stop : List Int
  ca : Int
  cb : Int
  before : List Int
  after : List Int

/-- R6: the position nearest `near` that a 32-bit count names. -/
def nearCount (near e : Int) : Int := near + wrapS 48 (e * 65536 - near)

/-- The end of a segment that starts at a point. -/
def segEnd (start : List Int) (q : Segment) : List Int := List.zipWith nearCount start q.ends

/-- The geometry of a segment from its start, with the start of the one before and the end of the one after. -/
def geoOf (q : Segment) (start before : List Int) (next : Option Segment) : Geo :=
  let e := segEnd start q
  let ca := nearCount (start[q.planeA]?.getD 0) q.centreA
  let cb := nearCount (start[q.planeB]?.getD 0) q.centreB
  { kind := q.kind, ia := q.planeA, ib := q.planeB, start := start, stop := e, ca := ca, cb := cb, before := before
    after := match if q.last then none else next with
      | some n => segEnd e n
      | none => e }

/-- The Euclidean length of a vector. -/
def norm (v : List Int) : Nat := isqrt ((v.map (fun x => x.natAbs ^ 2)).foldl (· + ·) 0)

/-- The difference of two points. -/
def vsub (a b : List Int) : List Int := List.zipWith (· - ·) a b

/-- Arc: the vectors from the centre to start and end, in the plane. -/
def arcEnds (g : Geo) : (Int × Int) × (Int × Int) :=
  let at' (l : List Int) (i : Nat) : Int := l[i]?.getD 0
  ((at' g.start g.ia - g.ca, at' g.start g.ib - g.cb), (at' g.stop g.ia - g.ca, at' g.stop g.ib - g.cb))

/-- Arc: radii at start and end, and the signed angle turned, in units of 2^-64 revolution. -/
def arcTurn (g : Geo) : Nat × Nat × Int :=
  let (a, b) := arcEnds g
  let ta := angleOf a.1 a.2
  let tb := angleOf b.1 b.2
  let ccw := (tb - ta) % 2 ^ 64
  let cw := (ta - tb) % 2 ^ 64
  let full (x : Int) : Int := if a = b ∨ x = 0 then 2 ^ 64 else x
  (norm [a.1, a.2], norm [b.1, b.2], if g.kind = 2 then full ccw else -(full cw))

/-- Arc: the length in the plane, and the moves of the members outside it. -/
def arcParts (g : Geo) : Nat × List Int :=
  let (r0, r1, t) := arcTurn g
  let len := Int.fdiv ((r0 + r1 : Nat) * twoPi80 * t.natAbs) (2 ^ 145)
  (len.toNat, ((vsub g.stop g.start).zipIdx).map (fun (d, i) => if i = g.ia ∨ i = g.ib then 0 else d))

/-- R232: the Catmull-Rom cubic of one member at a parameter (units 2^-40), in 2^-48 counts, and its derivative. -/
def catmull (p0 p1 p2 p3 t : Int) : Int × Int :=
  let c1 := p2 - p0
  let c2 := 2 * p0 - 5 * p1 + 4 * p2 - p3
  let c3 := 3 * (p1 - p2) + p3 - p0
  let d : Int := 2 ^ 40
  (roundDiv ((2 * p1 * d ^ 3 + c1 * t * d ^ 2 + c2 * t ^ 2 * d + c3 * t ^ 3) * 2 ^ 32) (2 * 2 ^ 120),
    roundDiv (c1 * d ^ 2 + 2 * c2 * t * d + 3 * c3 * t ^ 2) (2 * 2 ^ 80))

/-- R232: a spline at a parameter: positions and derivatives of its members. -/
def splineAt (g : Geo) (t : Int) : List (Int × Int) :=
  (List.zip (List.zip g.before g.start) (List.zip g.stop g.after)).map (fun x => catmull x.1.1 x.1.2 x.2.1 x.2.2 t)

/-- R232: the chords between 257 points of a spline, evenly spaced in its parameter, in 2^-48 counts; their sum stands for the length
(log 22). -/
def splineChords (g : Geo) : List Nat :=
  let pt (k : Nat) : List Int := (splineAt g (k * 2 ^ 32)).map (fun x => x.1)
  (List.range 256).map (fun k => norm (vsub (pt (k + 1)) (pt k)))

/-- R232: the parameter (units 2^-40) at a distance along the chords that follow the `k`-th point. -/
def splineParam : List Nat → Nat → Nat → Nat
  | [], k, _ => k * 2 ^ 32
  | c :: cs, k, u => if c ≤ u then splineParam cs (k + 1) (u - c) else k * 2 ^ 32 + u * 2 ^ 32 / c

/-- R232: the length of a segment. -/
def geoLen (g : Geo) : Nat :=
  match g.kind with
  | 0 => norm (vsub g.stop g.start)
  | 3 => (splineChords g).foldl (· + ·) 0 / 2 ^ 32
  | _ =>
    let (len, rest) := arcParts g
    isqrt (len ^ 2 + (norm rest) ^ 2)

/-- A vector scaled to length 2^30. -/
def unit30 (v : List Int) : List Int := v.map (fun x => roundDiv (x * 2 ^ 30) (max 1 (norm v)))

/-- R232, R233: the members' positions, in 2^-48 counts, and the tangent, in units of 2^-30, at a distance of `u`
(2^-48 counts) along a segment. -/
def geoAt (g : Geo) (u : Int) : List Int × List Int :=
  let len := max 1 (geoLen g)
  let d := vsub g.stop g.start
  match g.kind with
  | 0 => (List.zipWith (fun p x => p * 2 ^ 32 + roundDiv (x * u) len) g.start d, unit30 d)
  | 3 =>
    let cs := splineAt g (if ((len * 2 ^ 32 : Nat) : Int) ≤ u then 2 ^ 40 else splineParam (splineChords g) 0 u.toNat)
    (cs.map (fun c => c.1), unit30 (cs.map (fun c => c.2)))
  | _ =>
    let (r0, r1, turn) := arcTurn g
    let (plane, rest) := arcParts g
    let (a, _) := arcEnds g
    let ang := angleOf a.1 a.2 + Int.fdiv (turn * u) (len * 2 ^ 32 : Nat)
    let (sn, cs) := sinCos ang
    -- the radius at u, in 2^-48 counts
    let r := (r0 : Int) * 2 ^ 32 + roundDiv (((r1 : Int) - r0) * u) len
    let sgn' : Int := if turn < 0 then -1 else 1
    let pos := ((List.zip g.start rest).zipIdx).map (fun ((p, x), i) =>
      if i = g.ia then g.ca * 2 ^ 32 + roundDiv (r * cs) (2 ^ 64)
      else if i = g.ib then g.cb * 2 ^ 32 + roundDiv (r * sn) (2 ^ 64)
      else p * 2 ^ 32 + roundDiv (x * u) len)
    let tan := (rest.zipIdx).map (fun (x, i) =>
      if i = g.ia then roundDiv (-(sgn' * sn * plane)) (len * 2 ^ 34)
      else if i = g.ib then roundDiv (sgn' * cs * plane) (len * 2 ^ 34)
      else roundDiv (x * 2 ^ 30) len)
    (pos, tan)

/-- R232: the refusal of a segment: zero length, or an arc whose radii differ by more than 2 counts. -/
def geoRefused (g : Geo) : Option Int :=
  if g.kind = 1 ∨ g.kind = 2 then
    let (r0, r1, _) := arcTurn g
    let diff := ((r0 : Int) - r1).natAbs
    if 2 * 65536 < diff then some ((satU 32 (diff / 65536) : Nat) : Int)
    else if r0 = 0 ∨ geoLen g = 0 then some 0 else none
  else if geoLen g = 0 then some 0 else none

/-! ### Limits of the path speed (R233). Speeds as V32 words. -/

/-- R233: the speed at a junction of two tangents. `none`: not limited. -/
def cornerSpeed (amax : Int) (tol : Nat) (t1 t2 : List Int) : Option Int :=
  let dot := (List.zipWith (· * ·) t1 t2).foldl (· + ·) 0
  let c := min (2 ^ 30) ((isqrt (((2 ^ 60 + dot) * 2 ^ 59).toNat) : Nat) / 2 ^ 30 : Int)
  let c := max 0 c
  if 2 ^ 30 ≤ c then none
  else some (isqrt ((amax * tol * c / (2 ^ 30 - c)).toNat))

/-- R233: the speed on an arc. -/
def arcSpeed (amax : Int) (r : Nat) : Int := isqrt ((amax * r / 2 ^ 8).toNat)

/-- R233: the greatest speed between two from which a length suffices to come down to a third, by halving. -/
def brakeFrom (amax jmax len ve : Int) : Nat → Int → Int → Int
  | 0, lo, _ => lo
  | k + 1, lo, hi =>
    let m := (lo + hi + 1) / 2
    if slowAlong (fine m) 0 (fine ve) (fine amax) (fine jmax) ≤ len * 2 ^ 32 then brakeFrom amax jmax len ve k m hi
    else brakeFrom amax jmax len ve k lo (m - 1)

/-- R233: the limits of each segment of a queue: its length, the speed along it and the speed at its end: that of the junction, of the
segments that meet there, and from which the next segment's end is reached at its own. -/
def pathLimits (pg : PathGroup) : List Int → List Int → List Segment → List Int
  | _, _, [] => []
  | start, before, q :: qs =>
    let rest := pathLimits pg (segEnd start q) start qs
    let g := geoOf q start before qs.head?
    let feed := if q.feed = 0 then pg.vmax else min pg.vmax q.feed
    let (r0, r1, _) := arcTurn g
    let along := if g.kind = 1 ∨ g.kind = 2 then min feed (arcSpeed pg.amax (min r0 r1)) else feed
    let atEnd : Int := match qs with
      | [] => 0
      | n :: ns =>
        if q.stop || q.last || (n.kind == 3 && ns.isEmpty && !n.last) then 0
        else
          let top := min along (rest[1]?.getD 0)
          let top := match cornerSpeed pg.amax pg.cornerTol (geoAt g (geoLen g * 2 ^ 32)).2
              (geoAt (geoOf n g.stop start ns.head?) 0).2 with
            | some v => min v top
            | none => top
          let ve := min top (rest[2]?.getD 0)
          brakeFrom pg.amax pg.jmax (rest.headD 0) ve 32 ve top
    [(geoLen g : Int), along, atEnd] ++ rest

/-! ### Descriptors -/

/-- The path group a descriptor targets. -/
def pathT (f : InFlight) : Fin 4 := Fin.ofNat 4 f.target.idx

/-- R230: the command of a PATH_GROUP. -/
def pathCmd (f : InFlight) : Nat := pU f.payload 16 1

/-- R230: the members that a define names. -/
def defMembers (p : BitVec 384) : List (Fin 32) :=
  (List.range (min 6 (pU p 17 1))).map (fun k => Fin.ofNat 32 (pU p (18 + k) 1))

/-- R230: the field checks of a define. -/
def defineFields (p : BitVec 384) : List Check :=
  let m := pU p 17 1
  [inval (m == 0 || decide (6 < m)) 17]
  ++ (List.range 6).map (fun k => inval (if k < m then
        decide (31 < pU p (18 + k) 1) || (List.range k).any (fun j => pU p (18 + j) 1 == pU p (18 + k) 1)
      else pU p (18 + k) 1 != 0) (18 + k))
  ++ [24, 28, 32].map (fun o => inval (decide (pS p o 4 ≤ 0)) o)

/-- Whether a slot's command is at rest. -/
def atRest (sl : Slot) : Bool := sl.cmdV == 0 && sl.cmdA == 0

/-- R230: the conditions of a define. -/
def defineChecks (f : InFlight) (s : State) : List Check :=
  let ms := defMembers f.payload
  let g := pathT f
  let binds := ms.map (fun n => s.axis.slots[n].bind)
  let same (h : Binding → Nat) : Bool := match binds with
    | some b :: bs => bs.all (fun x => x.map h == some (h b))
    | _ => false
  ms.flatMap (fun n =>
    let sl := s.axis.slots[n]
    let dead := match groupOf s n with
      | some x => s.axis.groups[x].ss1 || s.axis.groups[x].stopped
      | none => true
    [denied (sl.mode != .auto || dead) 0x10, denied (match sl.bind with
        | some b => b.kind == .band
        | none => true) 0x13, denied (!atRest sl) 0x15, denied (sl.source == .path && sl.pathGroup != g) 0x16])
  ++ [denied (s.axis.paths[g].state != .undefined && (s.axis.paths[g].gen.v != 0 || s.axis.paths[g].gen.a != 0)) 0x15,
      denied (!(same (fun b => domCode b.dom) && same (fun b => b.outCad) && same (fun b => b.phase)
        && same (fun b => b.group))) 0x16]

/-- R230: whether a group rests. -/
def pathRest (pg : PathGroup) : Bool := pg.gen.v == 0 && pg.gen.a == 0

/-- R229: what the commands but define and release need: a defined group with every member in AUTO. -/
def pathAuto (f : InFlight) (s : State) : List Check :=
  let pg := s.axis.paths[pathT f]
  [denied (pg.state == .undefined) 0,
    denied (pg.ss1 || pg.members.any (fun n => s.axis.slots[n].mode != .auto
      || (match groupOf s n with
        | some x => s.axis.groups[x].ss1 || s.axis.groups[x].stopped
        | none => true))) 0x10]

/-- R230: the states that refuse a PATH_GROUP. -/
def pathGroupState (f : InFlight) (s : State) : List Check :=
  let pg := s.axis.paths[pathT f]
  match pathCmd f with
  | 0 => defineChecks f s
  | 5 => [denied (pg.state == .undefined) 0, denied (!pathRest pg || !pg.queue.isEmpty) 0x15]
  | _ => pathAuto f s

/-- R230: the checks of PATH_GROUP. -/
def pathGroupCheck (f : InFlight) (s : State) : Option (Nat × Int) :=
  let p := f.payload
  firstFail ([resv p 40 63, inval (decide (5 < pathCmd f)) 16]
    ++ (if pathCmd f = 0 then defineFields p else []) ++ pathGroupState f s)

/-- R231: the checks of PATH_SEGMENT. -/
def pathSegCheck (f : InFlight) (s : State) : Option (Nat × Int) :=
  let p := f.payload
  let m := s.axis.paths[pathT f].members.length
  let arc := pU p 16 1 == 1 || pU p 16 1 == 2
  let a := bits (pU p 17 1) 2 0
  let b := bits (pU p 17 1) 5 3
  firstFail ([resv p 19 19, resv p 56 63, inval (decide (3 < pU p 16 1)) 16,
    inval (arc && (decide (63 < pU p 17 1) || a == b || (m != 0 && (decide (m ≤ a) || decide (m ≤ b))))) 17,
    inval (decide (3 < pU p 18 1)) 18, inval (decide (pS p 20 4 < 0)) 20] ++ pathAuto f s)

/-- R230: a group is defined: PATH is the source of its members, at the present position. -/
def defineNow (f : InFlight) (at' : Stamp) (s : State) : State :=
  let g := pathT f
  let p := f.payload
  let ms := defMembers p
  let s := if s.axis.paths[g].state = .undefined then s else dissolvePath g (flushPath g stCancelled 0 true s)
  let s := ms.foldl (fun s n => modSlot (endHoming n s) n (fun sl =>
    { dropGoal sl with source := .path, pathGroup := g, atGoal := false, parked := false })) s
  let here := ms.map (fun n => roundDiv s.axis.slots[n].cubic.p (2 ^ 32))
  let s := modPath s g (fun _ => { members := ms, vmax := pS p 24 4, amax := pS p 28 4, jmax := pS p 32 4
                                   cornerTol := pU p 36 4, start := here, prevStart := here })
  completeOk f.id (some at') (setPathState g .idle s)

/-- R230: a PATH_GROUP takes effect at an update point. -/
def pathGroupNow (f : InFlight) (at' : Stamp) (s : State) : State :=
  let g := pathT f
  match firstFail (pathGroupState f s) with
  | some (st, d) => reject f.id st d s
  | none =>
    match pathCmd f with
    | 0 => defineNow f at' s
    | 1 => completeOk f.id (some at') (setPathState g .running (modPath s g (fun p => { p with aborting := false })))
    | 2 => completeOk f.id (some at')
        (if s.axis.paths[g].state = .running then setPathState g .holding s else s)
    | 3 => completeOk f.id (some at')
        (if s.axis.paths[g].state = .holding then setPathState g .running (modPath s g (fun p => { p with aborting := false }))
         else s)
    | 4 => completeOk f.id (some at')
        (let s := modPath s g (fun p => { p with aborting := true })
         if s.axis.paths[g].state = .running then setPathState g .holding s else s)
    | _ => completeOk f.id (some at') (dissolvePath g s)

/-- The point at which the last queued segment ends, and the start of that segment. -/
def queueEnd : List Int → List Int → List Segment → List Int × List Int
  | start, before, [] => (start, before)
  | start, _, q :: qs => queueEnd (segEnd start q) start qs

/-- R231: a segment enters the queue at an update point. -/
def pathSegNow (f : InFlight) (s : State) : State :=
  let g := pathT f
  let p := f.payload
  let pg := s.axis.paths[g]
  match firstFail (pathAuto f s) with
  | some (st, d) => reject f.id st d s
  | none =>
    if 16 ≤ pg.queue.length then reject f.id 0x0080 0 s
    else
      let q : Segment := {
        desc := f.id, kind := pU p 16 1, planeA := bits (pU p 17 1) 2 0, planeB := bits (pU p 17 1) 5 3
        stop := bit (pU p 18 1) 0, last := bit (pU p 18 1) 1, feed := pS p 20 4
        ends := (List.range pg.members.length).map (fun i => pS p (24 + 4 * i) 4)
        centreA := pS p 48 4, centreB := pS p 52 4, ordinal := pg.ordinal }
      let (st, before) := queueEnd pg.start pg.prevStart pg.queue
      match geoRefused (geoOf q st before none) with
      | some d => reject f.id 0x0081 d s
      | none =>
        let s := modPath s g (fun p => { p with queue := p.queue ++ [q], ordinal := (p.ordinal + 1) % 2 ^ 32, starved := false })
        modFlight s f.id (fun f => { f with due := .running })

/-! ### The interpolator (R233) -/

/-- The geometry of the segment under way. -/
def headGeo (pg : PathGroup) : Option (Segment × Geo) :=
  match pg.queue with
  | [] => none
  | q :: qs => some (q, geoOf q pg.start pg.prevStart qs.head?)

/-- R231, R234: the segment under way ends at this sample when its whole length has been passed. -/
def endSegment (g : Fin 4) (s : State) : State :=
  let pg := s.axis.paths[g]
  match headGeo pg with
  | some (q, geo) =>
    if pg.begun && decide (((geoLen geo * 2 ^ 32 : Nat) : Int) ≤ pg.gen.p) then
      let s := match flightOf s q.desc with
        | some f => completeAs f stOK q.ordinal 0 f.applied s.time.now s
        | none => s
      let s := modPath s g (fun p => { p with
        queue := p.queue.drop 1, begun := false, start := geo.stop, prevStart := p.start, gen := { p.gen with p := 0 } })
      let pg := s.axis.paths[g]
      if pathRest pg && pg.queue.isEmpty && pg.state == .running then
        if q.last then setPathState g .idle s
        else
          let s := modPath s g (fun p => { p with starved := true })
          match (List.finRange 32).find? (fun n => pg.members.contains n) with
          | some n => slotEv n .warning 0x28 (b1 g ++ leBytes 4 q.ordinal) s
          | none => s
      else s
    else s
  | none => s

/-- R233: the next segment begins, where the group runs into it. -/
def beginSegment (g : Fin 4) (tApply : Stamp) (s : State) : State :=
  let pg := s.axis.paths[g]
  match pg.queue with
  | q :: qs =>
    let ready := q.kind != 3 || q.last || !qs.isEmpty
    if !pg.begun && ready && ((pg.state == .running && !pg.ss1) || !pathRest pg) then
      let s := modPath s g (fun p => { p with begun := true, gen := { p.gen with p := 0 } })
      modFlight s q.desc (fun f => { f with applied := some tApply, due := .running })
    else s
  | [] => s

/-- R235: the stop limits of a group under SS1, applied to path speed. -/
def pathStopLims (s : State) (pg : PathGroup) : Int × Int :=
  let ls := pg.members.map (fun n => s.axis.slots[n].limits.getD {})
  ((ls.map (fun l => l.stopDec)).foldl min (2 ^ 31), (ls.map (fun l => l.stopJerk)).foldl min (2 ^ 31))

/-- R233: the lengths of all segments in a list of limits. -/
def segTotal : List Int → Int
  | len :: _ :: _ :: rest => len + segTotal rest
  | _ => 0

/-- R233: the group moved on by a period from the state of its sample. -/
def planPath (s : State) (pg : PathGroup) (cad : Nat) : Gen × Int :=
  match headGeo pg with
  | none => ({ p := 0, v := 0, a := 0 }, 0)
  | some (q, geo) =>
    if !pg.begun then ({ p := 0, v := 0, a := 0 }, 0)
    else
      let (dec, jerk) := if pg.ss1 then pathStopLims s pg else (pg.amax, pg.jmax)
      let rest := pg.ss1 || pg.aborting || pg.state != .running
      if rest && pathRest pg then (pg.gen, 0)
      else
        let lims := pathLimits pg pg.start pg.prevStart pg.queue
        let raw := Config.pathJerk ([pg.gen.p, pg.gen.v, pg.gen.a, (ofBool rest : Int), fine pg.amax, fine dec, fine jerk,
          (cad : Int)] ++ lims)
        let road : Road := {
          left := lims.headD 0 * 2 ^ 32 - pg.gen.p, total := segTotal lims * 2 ^ 32 - pg.gen.p
          along := fine (lims[1]?.getD 0), atEnd := fine (lims[2]?.getD 0) }
        let len : Int := (geoLen geo * 2 ^ 32 : Nat)
        let halts := !rest && road.atEnd == 0
        let j := if rest then velJerk pg.gen 0 (fine dec) (fine dec) (fine jerk) cad raw
          else if halts then posJerk pg.gen len road.along (fine pg.amax) (fine dec) (fine jerk) cad raw
          else
            let j := roadJerk pg.gen road (fine pg.amax) (fine dec) (fine jerk) cad raw
            -- R232: the end is reached exactly at the sample that ends the segment
            if len < (advance pg.gen j cad).p then clampI (-fine jerk) (fine jerk) (capJerk pg.gen 1 road.left cad) else j
        let g' := advance pg.gen j cad
        let g' := if halts && atTarget g' (.position (geoLen geo)) then snapTo g' (.position (geoLen geo)) else g'
        let g' := if g'.v < 0 then { g' with v := 0, a := 0, p := max g'.p pg.gen.p } else g'
        let g' := if rest && decide (g'.v ≤ 2 ^ 32) && decide (g'.a.natAbs ≤ 2 ^ 32) then { g' with v := 0, a := 0 } else g'
        if len ≤ g'.p then
          let halt := q.stop || q.last || pg.queue.length == 1
          (if halt then { p := len, v := 0, a := 0 } else { g' with p := len }, j)
        else (g', j)

/-- R263: the segment under way is drawn again from where the members stand. -/
def redrawPath (g : Fin 4) (s : State) : State :=
  let pg := s.axis.paths[g]
  if pg.redraw then
    modPath s g (fun p => { p with
      redraw := false, gen := { p.gen with p := 0 }
      start := pg.members.map (fun n => roundDiv s.axis.slots[n].cubic.p (2 ^ 32)) })
  else s

/-- R230, R235: at rest an abort cancels what has not begun, and a stop under SS1 leaves nothing queued. -/
def settlePath (g : Fin 4) (s : State) : State :=
  let pg := s.axis.paths[g]
  if !pathRest pg then s
  else if pg.ss1 then modPath s g (fun p => { p with queue := [], begun := false })
  else if pg.aborting then
    let s := modPath (flushPath g stCancelled 0 false s) g (fun p => { p with aborting := false })
    if s.axis.paths[g].begun then s else setPathState g .idle s
  else s

/-- R233: a path group at a sample: the states of its members, and the plan of the period. -/
def stepPath (g : Fin 4) (ts : T64) (tApply : Stamp) (cad : Nat) (s : State) : State :=
  if s.axis.paths[g].at_ = some ts then s
  else
    let s := redrawPath g s
    let s := beginSegment g tApply (endSegment g s)
    let pg := s.axis.paths[g]
    let (g', j) := planPath s pg cad
    let pts : List (Gen × Int) := match headGeo pg with
      | some (_, geo) =>
        if pg.begun then
          let (pos, tan) := geoAt geo pg.gen.p
          List.zipWith (fun p t => ({ p := p, v := roundDiv (t * pg.gen.v) (2 ^ 30), a := roundDiv (t * pg.gen.a) (2 ^ 30) },
            if geo.kind = 0 then roundDiv (t * j) (2 ^ 30) else 0)) pos tan
        else pg.start.map (fun p => ({ p := p * 2 ^ 32 }, 0))
      | none => pg.start.map (fun p => ({ p := p * 2 ^ 32 }, 0))
    settlePath g (modPath s g (fun p => { p with at_ := some ts, pts := pts, gen := g' }))

/-- R243: where a member of a path group is at the next sample, 2^-16 counts. -/
def pathAhead (pg : PathGroup) (i : Nat) : Int :=
  match headGeo pg with
  | some (_, geo) => if pg.begun then roundDiv (((geoAt geo pg.gen.p).1[i]?).getD 0) (2 ^ 32) else (pg.start[i]?).getD 0
  | none => (pg.start[i]?).getD 0

/-- R233: a member takes its state at a sample. -/
def runPath (n : Fin 32) (ts : T64) (tApply : Stamp) (cad : Nat) (s : State) : State :=
  let g := s.axis.slots[n].pathGroup
  let s := stepPath g ts tApply cad s
  let pg := s.axis.paths[g]
  match pg.members.findIdx? (fun m => m == n) with
  | some i =>
    match pg.pts[i]? with
    | some (x, j) => setCmd n ts x j s
    | none => s
  | none => s

end Sys2Proof.Machine
end

