-- ==== Sys2Proof/Machine/StepGen.lean ====
section
/-!
DEFINITION. Step generation (R242–R246) and stall homing (R247, R248).
-/

namespace Sys2Proof.Machine

/-! ### The rate multiplier (R242, R243) -/

/-- R242: the greatest increment: 0.0125 × 2^48. -/
def maxInc : Int := 3518437208883

/-- Microsteps that have been carried out of the accumulator, emitted or about to be. -/
def carried (t : StepSt) : Int := t.emitted + Int.fdiv t.acc (2 ^ 48)

/-- R243: the increment that emits so many microsteps in a period of so many ticks, and whether the clamp acts. -/
def incFor (owed : Int) (ticks : Nat) : Int × Bool :=
  let raw := Int.tdiv (owed * 2 ^ 48) (max 1 ticks)
  (clampI (-maxInc) maxInc raw, decide (maxInc < raw.natAbs))

/-- R243: ticks of 2.5 ns in a period of `cad` cadences. -/
def ticksOf (cad : Nat) : Nat := 3125 * cad

/-- R244: since when a step slot is at rest: no increment, and its command at rest. -/
def restFrom (now : Nat) (sl : Slot) (t : StepSt) (inc : Int) : Option Nat :=
  if inc = 0 ∧ sl.cmdV = 0 ∧ sl.cmdA = 0 then some (t.restSince.getD now) else none

/-- R243: the increment of the coming period is set for a target. -/
def applyStep (n : Fin 32) (target : Int) (s : State) : State :=
  let sl := s.axis.slots[n]
  let cad := (sl.bind.map (fun b => 2 ^ b.outCad)).getD 1
  let t := syncStep s.time.now sl.step
  let owed := target - carried t
  let (inc, hit) := incFor owed (ticksOf cad)
  let run := if hit then min 16 (t.clamped + 1) else 0
  let raise := hit && run == 16 && !t.rateLimited
  let s := modSlot s n (fun sl => { sl with step := { t with
    inc := inc, clamped := run, rateLimited := run == 16, commanded := target, owed := target - t.emitted
    restSince := restFrom s.time.now sl t inc } })
  if raise then slotEv n .warning 0x26 (sgnBytes 4 owed) s else s

/-- R207: a manual rate, V32 microsteps per ms: 400,000 ticks. -/
def applyRate (n : Fin 32) (v : Int) (s : State) : State :=
  modSlot s n (fun sl =>
    let t := syncStep s.time.now sl.step
    let inc := clampI (-maxInc) maxInc (roundDiv (v * 2 ^ 40) 400000)
    { sl with step := { t with
        inc := inc, commanded := carried t, owed := carried t - t.emitted
        restSince := if inc = 0 then some (t.restSince.getD s.time.now) else none } })

/-! ### Microsteps (R242, R244) -/

/-- R244: the tick, in LSB of D0, at which the next carry or borrow happened or will happen. -/
def carryAt (t : StepSt) : Nat :=
  let f := if 2 ^ 48 ≤ t.acc then t.acc - 2 ^ 48 else if t.acc < 0 then -1 - t.acc else 0
  let back := if t.inc = 0 then 0 else f / t.inc.natAbs
  (t.tick - back.toNat) * 40

/-- R244: a pulse and, where the direction pin has another level by then, the direction edge. -/
def stepPulse (n : Fin 32) (c : StepCfg) (neg : Bool) (at' : Nat) (s : State) : State :=
  let t := s.axis.slots[n].step
  let start := at' + t.delay
  let dp := pinPlacer (Fin.ofNat 4 c.dirPin)
  let sp := pinPlacer (Fin.ofNat 4 c.stepPin)
  let edge (at' : Nat) (level : Bool) : Edge :=
    { target := BitVec.ofNat 64 at', dom := .d0, level := level, owner := .step n }
  let turn := finalLevel s dp != (neg == c.invOut)
  let s := if turn then putEdge dp (edge start (neg == c.invOut)) true s else s
  let first := if turn then start + c.setupNs * nsLsb else start
  let s := modSlot s n (fun sl => { sl with step := { sl.step with
    delay := if turn then t.delay + c.setupNs * nsLsb else t.delay } })
  let s := putEdge sp (edge first (!c.activeLow)) true s
  putEdge sp (edge (first + c.pulseNs * nsLsb) c.activeLow) true s

/-- R242: MICROSTEP: one carry or borrow of the accumulator is emitted. -/
def microstepEff (n : Fin 32) (s : State) : State :=
  let t := syncStep s.time.now s.axis.slots[n].step
  if decide (0 ≤ t.acc) && decide (t.acc < 2 ^ 48) then s
  else
    let neg := decide (t.acc < 0)
    let d : Int := if neg then -1 else 1
    let at' := carryAt t
    let s := modSlot s n (fun sl => { sl with step := { t with
      acc := t.acc - d * 2 ^ 48, emitted := t.emitted + d, owed := t.commanded - (t.emitted + d) } })
    match t.cfg with
    | some c => if c.endpoint then s else stepPulse n c neg at' s
    | none => s

/-! ### STEP_CONFIG (R245) -/

/-- R245: the configuration that a payload spells. -/
def stepCfgOf (p : BitVec 384) : StepCfg :=
  let fl := pU p 22 1
  { endpoint := pU p 16 1 == 1, stepPin := pU p 17 1, dirPin := pU p 18 1, coarse := pU p 19 1 == 1
    inStep := pU p 20 1, inDir := pU p 21 1, invOut := bit fl 0, activeLow := bit fl 1, invIn := bit fl 2, fallIn := bit fl 3
    pulseNs := pU p 24 2, setupNs := pU p 26 2, idleMs := pU p 28 2, firstUs := pU p 30 2
    runCurrent := pS p 32 2, holdCurrent := pS p 34 2, holdDelayMs := pU p 36 2 }

/-- R245: a configuration but for its currents. -/
def noCurrents (c : StepCfg) : StepCfg := { c with runCurrent := 0, holdCurrent := 0 }

/-- R245: the states that refuse a STEP_CONFIG. -/
def stepCfgState (f : InFlight) (s : State) : List Check :=
  let n := slotT f
  let sl := s.axis.slots[n]
  let c := stepCfgOf f.payload
  let pin (k : Nat) : List Check := pinClaims s (.step n) (Fin.ofNat 4 k)
  let inp (k : Nat) : Check := denied (pinMode s (Fin.ofNat 4 k) != 2) 0x22
  [denied (match sl.bind with
      | some b => b.kind != .step
      | none => true) 0x13,
    denied (sl.mode != .off && (sl.step.cfg.map noCurrents) != some (noCurrents c)) 0x18]
  ++ (if c.endpoint then [] else pin c.stepPin ++ pin c.dirPin)
  ++ (if c.coarse then [inp c.inStep, inp c.inDir] else [])

/-- R245: the checks of STEP_CONFIG. -/
def stepCfgCheck (f : InFlight) (s : State) : Option (Nat × Int) :=
  let p := f.payload
  let u := fun o => pU p o 1
  let out0 := u 16 == 0
  let src1 := u 19 == 1
  firstFail ([resv p 23 23, resv p 38 63, inval (decide (1 < u 16)) 16, inval (out0 && decide (3 < u 17)) 17,
    inval (out0 && (decide (3 < u 18) || u 18 == u 17)) 18, inval (decide (1 < u 19)) 19,
    inval (src1 && (decide (3 < u 20) || (out0 && (u 20 == u 17 || u 20 == u 18)))) 20,
    inval (src1 && (decide (3 < u 21) || (out0 && (u 21 == u 17 || u 21 == u 18)))) 21,
    inval (decide (15 < u 22)) 22,
    inval (decide (pU p 24 2 < 20) || decide (1000 < pU p 24 2)) 24,
    inval (decide (pU p 26 2 < 20) || decide (1000 < pU p 26 2)) 26,
    inval (decide (pU p 28 2 < 1) || decide (1000 < pU p 28 2)) 28,
    inval (decide (pU p 30 2 < 1) || decide (10000 < pU p 30 2)) 30] ++ stepCfgState f s)

/-- R245: the rejection of a STEP_CONFIG at its sample. -/
def lateStepCfg (f : InFlight) (s : State) : Option (Nat × Int) := firstFail (stepCfgState f s)

/-- R276: the step and direction pins of a slot are given up. -/
def releaseStepPins (n : Fin 32) (keep : List (Fin 4)) (s : State) : State :=
  ((pinsOf s (.step n)).filter (fun k => !keep.contains k)).foldl (fun s k => releasePin k s) s

/-- R219: a slot goes over to the coarse input without a step of its command: the coarse command starts where the command has come to, and
the generator brings what is left of its motion to rest beside it (log 35). -/
def toCoarse (sl : Slot) : Slot :=
  let g := if sl.source = .profile then sl.gen else nextGen sl
  let here := roundDiv g.p (2 ^ 32)
  { dropGoal sl with
    source := .coarse, goal := .rest, gen := { g with p := g.p - here * 2 ^ 32 }
    step := { sl.step with coarse := here, ramp := here, lastCoarse := none, idle := true, coarseIn := [] } }

/-- R245: STEP_CONFIG takes effect. -/
def stepCfgNow (f : InFlight) (at' : Stamp) (s : State) : State :=
  let n := slotT f
  let c := stepCfgOf f.payload
  let pins : List (Fin 4) := if c.endpoint then [] else [Fin.ofNat 4 c.stepPin, Fin.ofNat 4 c.dirPin]
  let s := releaseStepPins n pins s
  let s := pins.foldl (fun s k => claimPin (.step n) k s) s
  let s := modSlot s n (fun sl =>
    let sl := { sl with step := { sl.step with cfg := some c } }
    if sl.mode = .auto ∧ c.coarse ∧ sl.source ≠ .coarse then toCoarse sl
    else if sl.source = .coarse ∧ ¬ c.coarse then toProfile sl else sl)
  completeOk f.id (some at') s

/-! ### The coarse input (R246) -/

/-- R246: the command planned at a D0 instant, 2^-16 microsteps: the owed microsteps of the last coarse step are spread
evenly over its spreading time. -/
def coarsePlan (t : StepSt) (now : Nat) : Int :=
  let goal := t.coarse
  match t.lastCoarse with
  | none => goal
  | some t0 => if t.tc ≤ now - t0 then goal else t.ramp + Int.fdiv ((goal - t.ramp) * (now - t0 : Nat)) (max 1 t.tc)

/-- R245, R246: an accepted edge of an input pin is a coarse step of every slot that counts such edges there; its direction is the level
of the direction pin. -/
def coarseEdge (k : Fin 4) (level : Bool) (at' : Nat) (s : State) : State :=
  (List.finRange 32).foldl (fun s n =>
    let sl := s.axis.slots[n]
    match sl.step.cfg with
    | none => s
    | some c =>
      if c.coarse ∧ sl.mode = .auto ∧ sl.source = .coarse ∧ c.inStep = k.val ∧ level = !c.fallIn then
        let neg := s.pins.pins[Fin.ofNat 4 c.inDir].level == c.invIn
        modSlot s n (fun sl => { sl with step := { sl.step with coarseIn := sl.step.coarseIn ++ [(at', neg)] } })
      else s) s

/-- R246: COARSE_STEP: the coarse step at the input's oldest edge not yet taken: 256 microsteps more, spread over the time since the coarse
step before. -/
def coarseStepEff (n : Fin 32) (s : State) : State :=
  let sl := s.axis.slots[n]
  match sl.step.cfg, sl.step.coarseIn with
  | some c, (at', neg) :: rest =>
    if !c.coarse || sl.mode != .auto || sl.source != .coarse then s
    else
      let now := s.time.now
      let t := syncStep now sl.step
      let tc := match t.lastCoarse, t.idle with
        | some t0, false => at' - t0
        | _, _ => c.firstUs * usLsb
      let plan := coarsePlan t now
      let t := { t with
        coarse := t.coarse + (if neg then -256 else 256) * 65536, ramp := plan, tc := tc, lastCoarse := some at', idle := false
        coarseIn := rest }
      let (inc, _) := incFor (Int.fdiv (t.coarse - t.base) 65536 - carried t) (tc / 40)
      modSlot s n (fun sl => { sl with step := { t with
        inc := inc, commanded := Int.fdiv (t.coarse - t.base) 65536
        owed := Int.fdiv (t.coarse - t.base) 65536 - t.emitted, restSince := none } })
  | _, _ => s

/-- R246: COARSE_IDLE: no coarse step for idle_ms; the slope goes to 0 once nothing is owed. -/
def coarseIdleEff (n : Fin 32) (s : State) : State :=
  let sl := s.axis.slots[n]
  match sl.step.cfg, sl.step.lastCoarse with
  | some c, some t0 =>
    if s.time.now < t0 + c.idleMs * msLsb then s
    else
      let t := syncStep s.time.now sl.step
      let done := decide (t.commanded = carried t)
      modSlot s n (fun sl => { sl with step := { t with idle := true, inc := if done then 0 else t.inc } })
  | _, _ => s

/-- R246, R219: the command of a slot that follows the coarse input, at a sample: the coarse steps so far, with the slope planned for
them, and what is left of the motion from which the slot came. -/
def runCoarse (n : Fin 32) (ts : T64) (cad : Nat) (s : State) : State :=
  let sl := s.axis.slots[n]
  let t := sl.step
  let now := s.time.now
  let slope := roundDiv ((coarsePlan t (now + cadence * cad) - coarsePlan t now) * 128 * 2 ^ 24) (max 1 cad)
  let s := setCmd n ts { p := t.coarse * 2 ^ 32 + sl.gen.p, v := slope + sl.gen.v, a := sl.gen.a } 0 s
  let (g', _) := planPeriod sl cad
  modSlot s n (fun x => { x with gen := g' })

/-- R243: the command position of the next sample, 2^-16 counts. `publishes`: the command follows the slot's published records (R380). -/
def nextCmd (s : State) (n : Fin 32) (publishes : Bool) : Int :=
  let sl := s.axis.slots[n]
  let cad := (sl.bind.map (fun b => 2 ^ b.outCad)).getD 1
  let next : T64 := sl.cubic.t0 + BitVec.ofNat 64 (cadence * cad)
  match sl.source with
  | .profile => roundDiv (if publishes then (nextGen sl).p else sl.gen.p) (2 ^ 32)
  | .gear | .cam => sl.gear.base + cellAhead s n next + roundDiv sl.gen.p (2 ^ 32)
  | .path =>
    let pg := s.axis.paths[sl.pathGroup]
    match pg.members.findIdx? (fun m => m == n) with
    | some i => pathAhead pg i
    | none => roundDiv (nextGen sl).p (2 ^ 32)
  | .coarse => coarsePlan sl.step (toD0 s ⟨slotDom s n, next⟩).toNat + roundDiv sl.gen.p (2 ^ 32)

/-- R243: the microsteps to have been emitted by the next sample. -/
def stepTarget (s : State) (n : Fin 32) : Int :=
  Int.fdiv (nextCmd s n (s.norrak.pubs.any (fun p => p.isLocal && p.slot == n)) - s.axis.slots[n].step.base) 65536

/-- R207: on entry to AUTO the microsteps emitted so far stand for the measured position. -/
def alignStep (meas : Int) (now : Nat) (sl : Slot) : Slot :=
  let t := syncStep now sl.step
  { sl with step := { t with base := meas - carried t * 65536, coarse := meas, lastCoarse := none, idle := true
                             ramp := meas, coarseIn := [] } }

/-! ### HOME_STALL (R247, R248) -/

/-- R247: the checks of HOME_STALL. -/
def homeCheck (f : InFlight) (s : State) : Option (Nat × Int) :=
  let p := f.payload
  firstFail ([resv p 45 63, inval (decide (1 < pU p 16 1)) 16, inval (pU p 17 1 == 0) 17, inval (decide (pS p 20 4 ≤ 0)) 20,
    inval (decide (pS p 28 4 ≤ 0)) 28, inval (decide (1 < pU p 44 1)) 44] ++ courseChecks s (slotT f)
    ++ [denied (match s.axis.slots[slotT f].bind with
      | some b => b.kind != .servo && b.kind != .step
      | none => true) 0x13, homingCheck s (slotT f)])

/-- R247: the rejection of a HOME_STALL at its sample. -/
def lateHome (f : InFlight) (s : State) : Option (Nat × Int) :=
  firstFail (courseChecks s (slotT f) ++ [homingCheck s (slotT f)])

/-- R247: the search begins. -/
def homeNow (f : InFlight) (at' : Stamp) (s : State) : State :=
  let n := slotT f
  let p := f.payload
  let neg := pU p 16 1 == 1
  let v := pS p 20 4
  let s := modSlot s n (fun sl => setGoal (.velocity (if neg then -v else v)) none (v, 0, 0, 0) (toProfile sl))
  let h : Homing := {
    desc := f.id, neg := neg, nStall := pU p 17 1, iLimit := pU p 18 2, vSearch := v, lagTh := pU p 24 4, vTh := pS p 28 4
    offset := pS p 32 8, maxTravel := pU p 40 4, back := bit (pU p 44 1) 0
    start := roundDiv s.axis.slots[n].gen.p (2 ^ 32) }
  takesEffect f.id at' (modSlot s n (fun sl => { sl with homing := some h }))

/-- R247: the measured position of a slot that homes: its feedback, or for a step slot without feedback the command less
the load angle. -/
def homeMeas (sl : Slot) (neg : Bool) (lag : Int) : Int :=
  match sl.bind with
  | some b => if b.fbSource = 0 then p48 sl.cmdP - (if neg then -lag else lag) else p48 sl.fb.meas
  | none => p48 sl.cmdP

/-- R248: the homing ends. -/
def finishHome (n : Fin 32) (h : Homing) (status : Nat) (result detail : Int) (s : State) : State :=
  let s := modSlot s n (fun sl => { sl with homing := none })
  match flightOf s h.desc with
  | some f => completeAs f status result detail f.applied s.time.now s
  | none => s

/-- R247 step 5: once the re-reference has taken effect, the slot moves to 0 with its current limit restored. -/
def homeBack (n : Fin 32) (s : State) : State :=
  let sl := s.axis.slots[n]
  match sl.homing with
  | none => s
  | some h =>
    if h.returning && h.back && sl.goal == .rest && atRest sl then
      goTo n 0 ((flightOf s h.desc).map tagOf) (h.vSearch, 0, 0, 0) (modSlot s n (fun sl => { sl with stopLimits := false }))
    else s

/-- R248: how far a homing has gone, 2^-16 counts. -/
def homeTravel (sl : Slot) (h : Homing) : Nat := (roundDiv sl.cubic.p (2 ^ 32) - h.start).natAbs

/-- R247: one sample of a homing, once position, speed and lag of the sample are measured. `lag`: 2^-16 counts, in the
direction of the search; `x`: the raw position. -/
def homeSample (n : Fin 32) (ts : T64) (lag raw : Int) (s : State) : State :=
  let sl := s.axis.slots[n]
  match sl.homing with
  | none => s
  | some h =>
    let put (h : Homing) (s : State) : State := modSlot s n (fun sl => { sl with homing := some h })
    if h.returning then
      if (!h.back && atRest sl) || (h.back && sl.goal == .position 0 && sl.atGoal) then
        finishHome n h stOK h.stallPos 0 s
      else s
    else if h.failing then
      if atRest sl then
        finishHome n h 0x0080 0 (satS 32 (Int.fdiv (homeTravel sl h) 65536)) s
      else s
    else
      let armed := h.armed || decide (h.vSearch ≤ sl.cmdV.natAbs)
      let slow := decide (sl.fb.v.natAbs < h.vTh)
      let hit := armed && decide ((h.lagTh : Int) * 256 < lag) && slow
      let count := if hit then h.count + 1 else 0
      if hit && decide (h.nStall ≤ count) then
        let meas := homeMeas sl h.neg lag
        let stall := Int.fdiv meas 65536
        let s := modSlot s n (fun sl => { setGoal .rest none (0, 0, 0, 0) sl with
          gen := { p := meas * 2 ^ 32, v := 0, a := 0 }, cmdP := BitVec.ofInt 48 meas, cmdV := 0, cmdA := 0
          cubic := { sl.cubic with p := meas * 2 ^ 32, v := 0, a := 0, j := 0 } })
        let s := recordReref n 1 ts raw (-h.offset) s
        let s := slotEv n .note 0x27 (sgnBytes 4 stall ++ leBytes 4 (satU 32 (lag / 256).toNat)) s
        put { h with returning := true, stallPos := stall, armed := armed, count := count } s
      else if h.maxTravel * 65536 < homeTravel sl h then
        let s := modSlot s n (fun sl => setGoal .rest none (0, 0, 0, 0) sl)
        put { h with failing := true } s
      else put { h with armed := armed, count := count } s

end Sys2Proof.Machine
end

