-- ==== Sys2Proof/Machine/LinkPlan.lean ====
section
/-!
DEFINITION. The plan of the signature links: who uses an endpoint, its cycle, its windows (R309, R314–R318, R322, R325), and
the admission test of R146, which rests on them.
-/

namespace Sys2Proof.Machine

/-! ### Users of an endpoint (R314) -/

/-- A schedule: domain, period, phase and apply offset, in LSB. -/
structure Plan where
  dom : Dom
  period : Nat
  phase : Nat
  offset : Nat

/-- R314: the schedule of a slot that counts for its endpoint. -/
def slotPlan (b : Binding) : Plan :=
  if b.kind = .servo then ⟨b.dom, curPeriod b, b.phase, b.curOffset⟩ else ⟨b.dom, outPeriod b, b.phase, b.outOffset⟩

/-- R314: whether a slot uses an endpoint: bound to an axis, or naming it as band source or destination. -/
def slotNames (s : State) (n : Fin 32) (e : Fin 12) : Bool :=
  match s.axis.slots[n].bind with
  | none => false
  | some b => (axisOf s n).map (fun x => x.1) == some e
      || (b.kind == .band && (b.bandSrc == 3 || b.bandDst == 4) && b.bandEp == e.val)

/-- R314: the slots that use an endpoint. -/
def epSlots (s : State) (e : Fin 12) : List (Fin 32) := (List.finRange 32).filter (fun n => slotNames s n e)

/-- R314: the slots that armed compare units, armed latch units and loaded lattices naming an endpoint follow. -/
def unitSlots (s : State) (e : Fin 12) : List (Fin 32) :=
  s.pins.cmp.toList.filterMap (fun c => c.arm.bind (fun a => if a.outEp = some e then some a.slot else none))
  ++ s.pins.lat.toList.filterMap (fun l => l.arm.bind (fun a =>
      if a.source = 3 ∧ a.index = e.val then some a.slot else none))
  ++ s.pins.ltc.toList.filterMap (fun l => l.cfg.bind (fun c => if bit c.eps.toNat e then some c.slot else none))

/-- The link and the select of an endpoint: selects 0 to 2 of each link. -/
def epLink (e : Fin 12) : Fin 4 := Fin.ofNat 4 (e.val / 3)

/-- R324: the endpoints that share a command signature with an endpoint. -/
def mates (s : State) (e : Fin 12) : List (Fin 12) :=
  match s.link.eps[e].bind with
  | some b => if b.mgroup = 0 then [e] else (List.finRange 12).filter (fun x => epLink x == epLink e
      && (match s.link.eps[x].bind with
        | some y => y.mgroup == b.mgroup
        | none => false))
  | none => [e]

/-- R314: the schedules of one endpoint's users; `all`: those in OFF, too. -/
def ownPlans (s : State) (e : Fin 12) (all : Bool) : List Plan :=
  (epSlots s e).filterMap (fun n =>
    if all || s.axis.slots[n].mode != .off then s.axis.slots[n].bind.map slotPlan else none)
  ++ (unitSlots s e).filterMap (fun n => s.axis.slots[n].bind.map slotPlan)

/-- R314, R324: the schedules of the users of an endpoint, or of all the endpoints of its multicast group, which share one cycle. -/
def epPlans (s : State) (e : Fin 12) (all : Bool) : List Plan := (mates s e).flatMap (fun x => ownPlans s x all)

/-- R314: the cycle of an endpoint: the shortest schedule of its users, else 1 ms on D0. -/
def epCycle (s : State) (e : Fin 12) (all : Bool) : Plan :=
  (bestBy (fun (a b : Plan) => decide (a.period < b.period) || (a.period == b.period && decide (a.offset < b.offset)))
    (epPlans s e all)).getD ⟨.d0, msLsb, 0, msLsb / 2⟩

/-- R495: an endpoint that the park move of power-up drives now. -/
def parkEp (s : State) (e : Fin 12) : Bool :=
  s.life.runs.any (fun r => r.own && r.entry.ep == e && r.phase != .done && r.phase != .failed)

/-! ### Windows -/

/-- R306: the clock period of a link in LSB. -/
def linkClk (s : State) (k : Fin 4) : Nat := 40 * max 4 (min 40 (regF s (linkBase k) 6 1))

/-- R308, R309: the cycles of a signature of so many bytes, split into words of at most 128 bytes. -/
def sigCycles (bytes dummy : Nat) : Nat :=
  let k := max 1 ((bytes + 127) / 128)
  2 + k * (8 + dummy) + 2 * bytes + (k - 1)

/-- R339: the form and the width of feedback channel `c` of an axis of an Endpaper. -/
def chanForm (paper : List Byte) (axis c : Nat) : Nat × Nat :=
  let o := 72 + 48 * axis + 24 + 12 * c
  (byteAt paper o, byteAt paper (o + 1))

/-- R338: the axes of an Endpaper. -/
def paperAxes (paper : List Byte) : Nat := min 2 (byteAt paper 48)

/-- R316, R318: the bytes of a reply for an EP_REPLY_CFG. -/
def replyBytes (paper : List Byte) (cfg : Nat) : Nat :=
  let ax := paperAxes paper
  let chans (form : Nat) : Nat := ((List.range ax).flatMap (fun a => (List.range 2).filter (fun c =>
    (chanForm paper a c).1 == form))).length
  let on (b n : Nat) : Nat := if bit cfg b then n else 0
  10 + on 0 (12 * ax) + on 1 (10 * ax) + on 2 (18 * chans 1) + on 3 (10 * chans 2) + on 4 (6 * ax)
    + on 5 (6 * (maskBits 8 (bits cfg 15 8)).length) + on 6 (10 * (maskBits 8 (bits cfg 23 16)).length) + on 7 6

/-- R316: the reply of an endpoint: header, STATUS and CRC before its Endpaper is read. -/
def epReply (s : State) (e : Fin 12) : Nat :=
  let x := s.link.eps[e]
  if x.paper = [] then 16 else replyBytes x.paper x.replyCfg.toNat

/-- R317: the blocks that a user can need in a command signature. -/
def slotBlock (s : State) (n : Fin 32) : Nat :=
  let sl := s.axis.slots[n]
  match sl.bind with
  | none => 0
  | some b => match b.kind with
    | .servo => if b.curLeaf = 0x02 then 8 else 10
    | .step => 16
    | .band => if b.bandDst = 4 then 6 else 0
    | .virtual => 0

/-- R317, R322: the largest command signature that an endpoint's users can need. -/
def epCommand (s : State) (e : Fin 12) : Nat :=
  let cmps := (s.pins.cmp.toList.filter (fun c => match c.arm with
    | some a => a.outEp == some e
    | none => false)).length
  let ltcs := (s.pins.ltc.toList.filter (fun l => match l.cfg with
    | some c => bit c.eps.toNat e
    | none => false)).length
  24 + ((epSlots s e).map (slotBlock s)).foldl (· + ·) 0 + 40 * cmps + 130 * ltcs

/-- R324, R453: the bytes of the command signature that an endpoint receives: one header and CRC, and an STO block for each member. -/
def cmdBytes (s : State) (e : Fin 12) : Nat :=
  ((mates s e).map (fun x => epCommand s x - 18)).foldl (· + ·) 18

/-- The length of the command and the reply window of an endpoint, in LSB. -/
def cmdLen (s : State) (e : Fin 12) : Nat := sigCycles (cmdBytes s e) 0 * linkClk s (epLink e)
def replyLen (s : State) (e : Fin 12) : Nat := sigCycles (epReply s e) 2 * linkClk s (epLink e)

/-- R322: the windows of a bound endpoint: start in its cycle, length, cycle. -/
def epWindows (s : State) (e : Fin 12) : List (Int × Nat × Nat) :=
  match s.link.eps[e].bind with
  | none => []
  | some b =>
    let c := epCycle s e true
    let first := (mates s e).head? == some e
    (if first then [((c.phase : Int) + c.offset - b.lead, cmdLen s e, c.period)] else [])
      ++ [((c.phase : Int) + b.rdelay, replyLen s e, c.period)]

/-- R325: whether two windows meet, `gap` LSB kept between them. -/
def windowsMeet (gap : Nat) (a b : Int × Nat × Nat) : Bool :=
  let p : Int := (min a.2.2 b.2.2 : Nat)
  let d := (b.1 - a.1) % p
  decide (d < (a.2.1 + gap : Nat)) || decide (p - d < (b.2.1 + gap : Nat))

/-- R325: whether some two windows of a list meet. -/
def anyMeet (gap : Nat) : List (Int × Nat × Nat) → Bool
  | [] => false
  | w :: ws => ws.any (windowsMeet gap w) || anyMeet gap ws

/-- R314, R325: windows that overlap, or users that differ in domain or phase: detail 0x32. -/
def linkOverlap (s : State) (k : Fin 4) : Bool :=
  let es := (List.finRange 12).filter (fun e => epLink e == k && s.link.eps[e].bind.isSome)
  let doms := es.flatMap (fun e => (epPlans s e true).map (fun p => p.dom))
  let same {α : Type} [BEq α] (l : List α) : Bool := match l with
    | [] => true
    | x :: xs => xs.all (· == x)
  anyMeet (2 * linkClk s k) (es.flatMap (epWindows s)) || !same doms
    || es.any (fun e => !same ((epPlans s e true).map (fun p => p.phase % (epCycle s e true).period)))

/-- R338: conv_ns and setup_ns of an Endpaper, in LSB. -/
def convLsb (paper : List Byte) : Nat := leAt paper 50 2 * nsLsb
def setupLsb (paper : List Byte) : Nat := leAt paper 52 2 * nsLsb

/-- R322: whether its conditions fail for an endpoint: detail 0x33. -/
def timingFails (s : State) (e : Fin 12) : Bool :=
  match s.link.eps[e].bind with
  | none => false
  | some b =>
    let paper := s.link.eps[e].paper
    let acts := (epSlots s e).any (fun n => slotBlock s n != 0)
    (paper != [] && (decide (b.rdelay < convLsb paper) || (acts && decide (b.lead < cmdLen s e + setupLsb paper))))
      || (epPlans s e true).any (fun p => decide (p.offset < b.lead))

/-- R325: what a descriptor that changes the users of an endpoint is refused for, in the state it would leave. -/
def linkRefusal (s : State) (e : Fin 12) : Option Nat :=
  if s.link.eps[e].bind.isNone then none
  else if linkOverlap s (epLink e) then some 0x32
  else if (mates s e).any (timingFails s) then some 0x33 else none

/-! ### Admission (R146) -/

/-- R146: the worst-case time of a job of some leaves, in LSB. -/
def jobWorst (s : State) (leaves : List Byte) : Nat :=
  ((leaves.map (fun l => leafOps s l.toNat)).foldl (· + ·) 0) * 64 + 4800

/-- R146: when an input carried by an endpoint's reply is there, from t_s. -/
def replyReady (s : State) (e : Fin 12) : Nat :=
  match s.link.eps[e].bind with
  | some b => b.rdelay + replyLen s e
  | none => 0

/-- R258: when the position of a local port is there, from t_s. -/
def portReady (s : State) (p : Fin 3) : Nat := portWindow s p + 50 * nsLsb

/-- R146: when the last input of a job of a slot is there, from t_s. -/
def jobReadyAt (s : State) (n : Fin 32) (b : Binding) (sched : Sched) : Nat :=
  let ep : Nat := match axisOf s n with
    | some (e, _) => replyReady s e
    | none => 0
  let fb : Nat := match portOf b.fbSource with
    | some p => portReady s p
    | none => if b.fbSource = 0 then 0 else ep
  match b.kind, sched with
  | .servo, _ => max fb ep
  | .step, _ => max fb (if b.fbSource = 0 then 0 else ep)
  | .band, _ => if b.bandSrc = 3 then replyReady s (Fin.ofNat 12 b.bandEp)
      else portReady s (Fin.ofNat 3 (if b.bandSrc = 0 then 2 else b.bandSrc - 1))
  | .virtual, _ => 0

/-- R26: the link lead of a job's output; 0 for a local output. -/
def outLead (s : State) (n : Fin 32) (b : Binding) (sched : Sched) : Nat :=
  let lead (e : Fin 12) : Nat := (s.link.eps[e].bind.map (fun x => x.lead)).getD 0
  let axis : Nat := match axisOf s n with
    | some (e, _) => lead e
    | none => 0
  match b.kind, sched with
  | .servo, .current => axis
  | .servo, .outer => 0
  | .step, _ => if (s.axis.slots[n].step.cfg.map (fun c => c.endpoint)).getD false then axis else 0
  | .band, _ => if b.bandDst = 4 then lead (Fin.ofNat 12 b.bandEp) else 0
  | .virtual, _ => 0

/-- R27: the 400 ns of the deadline guard. -/
def guardLsb : Nat := 6400

/-- R186: the jobs of a binding: schedule, leaves, period, apply offset. -/
def jobsOf (b : Binding) : List (Sched × List Byte × Nat × Nat) :=
  (if b.kind = .servo then [(Sched.current, [b.curLeaf], curPeriod b, b.curOffset)] else [])
  ++ (if b.leaves = [] then [] else [(Sched.outer, b.leaves, outPeriod b, b.outOffset)])

/-- R146: how much a job of a slot misses the test by, in LSB; 0 when it passes. -/
def jobShort (s : State) (n : Fin 32) (b : Binding) (j : Sched × List Byte × Nat × Nat) : Nat :=
  let need : Int := 4 * (jobWorst s j.2.1 : Nat) + (j.2.2.2 : Nat)
  let have' : Int := 4 * ((j.2.2.2 : Int) - outLead s n b j.1 - guardLsb - jobReadyAt s n b j.1)
  ((need - have' + 3) / 4).toNat

/-- R146: the load of jobs, in units of a 128-cadence period. -/
def loadOf (s : State) (js : List (List Byte × Nat)) : Nat :=
  (js.map (fun j => jobWorst s j.1 * (128 * cadence / max 1 j.2))).foldl (· + ·) 0

/-- R146: the jobs enabled: slots out of OFF, and lattices that are loaded. `but`: a slot whose own jobs do not count, and the binding
that its lattices then follow. -/
def enabledJobs (s : State) (but : Option (Fin 32 × Binding)) : List (List Byte × Nat) :=
  let bindOf (n : Fin 32) : Option Binding := match but with
    | some (m, b) => if m = n then some b else s.axis.slots[n].bind
    | none => s.axis.slots[n].bind
  ((List.finRange 32).flatMap (fun n => match s.axis.slots[n].bind with
    | some b => if s.axis.slots[n].mode = .off ∨ but.map (fun x => x.1) = some n then []
        else (jobsOf b).map (fun j => (j.2.1, j.2.2.1))
    | none => []))
  ++ (List.finRange 4).filterMap (fun k => match s.pins.ltc[k].cfg with
    | some c => (bindOf c.slot).map (fun b => ([(0x28 : Byte)], outPeriod b))
    | none => none)

/-- The endpoints of a lattice. -/
def ltcEps (c : LtcCfg) : List (Fin 12) := (List.finRange 12).filter (fun e => c.eps.getLsbD e.val)

/-- R26, R299: the greatest link lead of a lattice's endpoints. -/
def ltcLead (s : State) (c : LtcCfg) : Nat :=
  ((ltcEps c).map (fun e => (s.link.eps[e].bind.map (fun x => x.lead)).getD 0)).foldl max 0

/-- R146: how much a lattice's job misses the test by on a binding of its slot, in LSB; 0 when it passes. -/
def ltcShort (s : State) (c : LtcCfg) (b : Binding) : Nat :=
  let ready := if c.measured then jobReadyAt s c.slot b .outer else 0
  let short : Int := (4 * (jobWorst s [0x28] : Int) + b.outOffset - 4 * ((b.outOffset : Int) - ltcLead s c - guardLsb - ready) + 3) / 4
  short.toNat

/-- R146: the detail of a refusal for a shortfall in LSB, and for the sum of loads. The manual does not say how a shortfall is brought to
ns: it is rounded up (log 47). -/
def shortDetail (lsb : Nat) : Int := ((2 ^ 31 + min 65535 ((lsb + 15) / 16) : Nat) : Int)

/-- R146: the admission of a slot's jobs, and of the lattices that follow it, beside those enabled: the detail of the refusal. Of several
jobs that fail the manual does not say which is reported: the current one, then the outer one, then lattices (log 47). -/
def admitSlot (s : State) (n : Fin 32) (b : Binding) : Option Int :=
  let own := (jobsOf b).map (jobShort s n b)
  let led := ((List.finRange 4).filterMap (fun k => s.pins.ltc[k].cfg)).filter (fun c => c.slot == n)
  match (own ++ led.map (fun c => ltcShort s c b)).find? (fun x => x != 0) with
  | some x => some (shortDetail x)
  | none =>
    if 6 * 128 * cadence < loadOf s (enabledJobs s (some (n, b)) ++ (jobsOf b).map (fun j => (j.2.1, j.2.2.1))) then
      some (shortDetail 0)
    else none

end Sys2Proof.Machine
end

