-- ==== Sys2Proof/Machine/Axis.lean ====
section
/-!
DEFINITION. Slots as the host sets them up (07): SLOT_CONFIG, BANK_LOAD, BANK_SWAP and MODE_SET (R189, R190, R195–R200,
R206–R208, R215).
-/

namespace Sys2Proof.Machine

/-! ### SLOT_CONFIG (R189, R190) -/

/-- R189: a field of which 0 selects a default. -/
def orDefault (x d : Nat) : Nat := if x = 0 then d else x

/-- R189: the kind of a code. -/
def kindOf (c : Nat) : Kind := match c with
  | 0 => .servo | 1 => .step | 2 => .band | _ => .virtual

/-- R185: the code of a kind. -/
def kindCode : Kind → Nat
  | .servo => 0 | .step => 1 | .band => 2 | .virtual => 3

/-- R189: the binding that a payload spells, defaults resolved. -/
def bindingOf (p : BitVec 384) : Binding :=
  let u := fun o => pU p o 1
  let kind := kindOf (u 16)
  let cur := cadence * 2 ^ u 21
  let out := cadence * 2 ^ u 22
  let table (x : Nat) : Option Nat := if x = 0xFF then none else some x
  { kind := kind, structureCode := u 17, group := Fin.ofNat 8 (u 18)
    essential := bit (u 19) 0, evBand := bit (u 19) 1, evSat := bit (u 19) 2, epModel := bit (u 19) 3
    dom := domOf (u 20), curCad := u 21, outCad := u 22, fbSource := u 23, phase := pU p 24 4
    curOffset := orDefault (pU p 28 4) (cur / 2), outOffset := orDefault (pU p 32 4) (out / 2)
    curLeaf := BitVec.ofNat 8 (u 36), leaves := pBytes p 38 (min 8 (u 37))
    compTable := table (u 46), repTable := table (u 47)
    invPos := orDefault (pU p 48 2) 0x80, invVel := orDefault (pU p 50 2) 20, standstill := orDefault (pU p 52 2) 0x10
    bandSrc := u 54, bandDst := u 55, bandEp := u 56, bandCh := u 57, safeOut := u 58 }

/-- R185: whether an outer leaf is one that a kind and structure runs; user leaves are. -/
def leafFits (kind structureCode leaf : Nat) : Bool :=
  let user := decide (0x80 ≤ leaf) && decide (leaf ≤ 0x9F)
  match kind with
  | 0 => user || [0x08, 0x0A, 0x0B, 0x0C, 0x0D, 0x30, 0x31].contains leaf || (leaf == 0x09 && structureCode == 0)
  | 1 => user || leaf == 0x18
  | 2 => user || (leaf == 0x21 && structureCode == 0) || (leaf == 0x20 && structureCode == 1)
  | _ => false

/-- R185: the outer leaves that a kind and structure cannot do without. -/
def leavesNeeded (kind structureCode : Nat) : List Nat :=
  match kind with
  | 0 => if structureCode = 0 then [0x08, 0x09] else [0x08]
  | 1 => [0x18]
  | 2 => if structureCode = 0 then [0x21] else [0x20]
  | _ => []

/-- R252: whether a kind may have a feedback source. -/
def sourceFits (kind code : Nat) : Bool :=
  match kind with
  | 0 => [1, 2, 3, 0x10, 0x11].contains code
  | 1 => [0, 1, 2, 3, 0x10, 0x11].contains code
  | _ => code == 0

/-- R190: the field checks of SLOT_CONFIG, by offset. -/
def slotFields (p : BitVec 384) : List Check :=
  let u := fun o => pU p o 1
  let k := u 16
  let servo := k == 0
  let cur := cadence * 2 ^ u 21
  let out := cadence * 2 ^ u 22
  let cnt := u 37
  let ls := (List.range (min 8 cnt)).map (fun i => u (38 + i))
  let offBad (x per : Nat) : Bool := x != 0 && (decide (x < guard2) || decide (per < x))
  [inval (decide (3 < k)) 16,
    inval (if k == 0 || k == 2 then decide (1 < u 17) else u 17 != 0) 17,
    inval (decide (7 < u 18)) 18, inval (decide (15 < u 19)) 19, inval (decide (3 < u 20)) 20,
    inval (if servo then decide (7 < u 21) || decide (u 22 < u 21) else u 21 != 0) 21,
    inval (decide (u 22 < 2) || decide (7 < u 22)) 22, inval (!sourceFits k (u 23)) 23,
    inval (decide (out ≤ pU p 24 4)) 24, inval (servo && offBad (pU p 28 4) cur) 28, inval (offBad (pU p 32 4) out) 32,
    inval (if servo then !(u 36 == 1 || u 36 == 2 || (decide (0x80 ≤ u 36) && decide (u 36 ≤ 0x9F))) else u 36 != 0) 36,
    inval (decide (8 < cnt) || (cnt == 0 && k != 3) || (k == 3 && cnt != 0)) 37]
  ++ (List.range 8).map (fun i => inval (if i < cnt then
        !leafFits k (u 17) (u (38 + i)) || (List.range i).any (fun j => u (38 + j) == u (38 + i))
      else u (38 + i) != 0) (38 + i))
  ++ [inval ((leavesNeeded k (u 17)).any (fun x => !ls.contains x)) 38,
    inval ((u 46 != 0xFF && decide (31 < u 46)) || ((u 46 != 0xFF) != ls.contains 0x30)) 46,
    inval ((u 47 != 0xFF && decide (31 < u 47)) || ((u 47 != 0xFF) != ls.contains 0x31)) 47,
    inval (decide (3 < u 54)) 54, inval (decide (4 < u 55)) 55, inval (decide (11 < u 56)) 56, inval (decide (2 < u 58)) 58]

/-- R186: how many slots other than one have a property. -/
def countOthers (s : State) (n : Fin 32) (p : Binding → Bool) : Nat :=
  ((List.finRange 32).filter (fun m => m != n && (match s.axis.slots[m].bind with
    | some b => p b
    | none => false))).length

/-- R167, R168: the leaves a binding names. -/
def bindLeaves (b : Binding) : List Nat := (if b.kind = .servo then [b.curLeaf.toNat] else []) ++ b.leaves.map BitVec.toNat

/-- R190: the state checks of SLOT_CONFIG. -/
def slotState (n : Fin 32) (b : Binding) (s : State) : List Check :=
  let short := leaseShort s (.slot n) (bindLeaves b)
  let undefined (t : Option Nat) : Bool := match t with
    | some t => (tabGet s.glade.tables t).isNone
    | none => false
  [(unset s b.dom, stDomUnset, domCode b.dom), (short != 0, stLease, short),
    denied (s.axis.slots[n].mode != .off) 1,
    denied (b.kind == .servo && decide (24 ≤ countOthers s n (fun x => x.kind == .servo))) 2,
    denied (b.kind == .servo && b.curCad == 0 && decide (8 ≤ countOthers s n (fun x => x.kind == .servo && x.curCad == 0))) 3,
    denied (b.outCad == 2 && decide (8 ≤ countOthers s n (fun x => x.outCad == 2))) 4,
    denied (undefined b.compTable || undefined b.repTable) 5]

/-- R189, R222, R242, R253: a slot bound anew. -/
def rebind (b : Binding) (sl : Slot) : Slot :=
  { dropGoal sl with
    bind := some b, source := .profile, limits := none, homing := none, entry := .none, gear := {}
    step := { sl.step with cfg := none, acc := 0, inc := 0, commanded := sl.step.emitted, owed := 0, clamped := 0
                           rateLimited := false, base := p48 sl.cmdP - sl.step.emitted * 65536 }
    fb := { sl.fb with o := 0, oRebase := 0, f := 0, meas := 0, v := 0, vPrev := 0, vLast := 0, k0 := none, stale := false
                       standstill := false, rerefs := [], first := true, rebase := true, pecSet := {}, pecAt := none
                       raw := none, rawBefore := none } }

/-- R190, R325: the checks of SLOT_CONFIG. -/
def slotConfigCheck (f : InFlight) (s : State) : Option (Nat × Int) :=
  let n := slotT f
  let p := f.payload
  match firstFail ([resv p 59 63] ++ slotFields p ++ slotState n (bindingOf p) s) with
  | some r => some r
  | none =>
    match admitSlot s n (bindingOf p) with
    | some d => some (stState, d)
    | none =>
      let s' := modSlot s n (rebind (bindingOf p))
      match (List.finRange 12).findSome? (fun e => if slotNames s' n e then linkRefusal s' e else none) with
      | some d => some (stState, d)
      | none => none

/-- R189: SLOT_CONFIG takes effect. -/
def slotConfigNow (f : InFlight) (s : State) : State :=
  let n := slotT f
  let s := releaseStepPins n [] s
  completeOk f.id (some f.accStamp) (modSlot s n (rebind (bindingOf f.payload)))

/-! ### Coefficient parts (R195, R196) -/

/-- R195: the leaf of a part. -/
def partLeaf (part : Nat) : Option Nat :=
  match part with
  | 0x01 | 0x02 => some 0x01
  | 0x03 => some 0x02
  | 0x08 => some 0x08
  | 0x09 => some 0x09
  | 0x10 | 0x11 | 0x12 | 0x13 => some 0x0A
  | 0x18 => some 0x0B
  | 0x19 => some 0x0C
  | 0x1A => some 0x0D
  | 0x1B => some 0x31
  | 0x20 => some 0x21
  | 0x21 => some 0x20
  | _ => none

/-- R196: the part codes of pairs. -/
def isPair (part : Nat) : Bool := [0x01, 0x02, 0x03, 0x08, 0x09, 0x20].contains part

/-- R197: value `k` of a BANK_LOAD, signed and unsigned. -/
def bv (p : BitVec 384) (k : Nat) : Int := pS p (20 + 3 * k) 3
def bvU (p : BitVec 384) (k : Nat) : Nat := pU p (20 + 3 * k) 3

/-- A value outside its range. -/
def badV (failed : Bool) (k : Nat) : Check := inval failed (20 + 3 * k)

/-- R196: values from `k` on that must be zero. -/
def zeroV (p : BitVec 384) (k : Nat) : List Check := (List.range (14 - k)).map (fun i => badV (bvU p (k + i) != 0) (k + i))

/-- R197: an exponent. -/
def expAt (p : BitVec 384) (o : Nat) : Int := sext 5 (pU p o 1)

/-- R196, R201–R205, R210: the value checks of a part. -/
def partChecks (p : BitVec 384) : List Check :=
  let part := pU p 16 1
  if isPair part then
    [badV (decide (bv p 6 < 0)) 6, badV (decide (bv p 7 < 0)) 7, badV (decide (bv p 8 ≤ bv p 7)) 8,
      badV (decide (bv p 10 ≤ bv p 9)) 9]
    ++ (if part = 0x09 then [] else [badV (bvU p 11 != 0) 11])
    ++ (if part = 0x01 then [badV (bvU p 12 / 65536 == 0) 12, badV (bvU p 13 == 0) 13] else zeroV p 12)
  else if 0x10 ≤ part ∧ part ≤ 0x13 then
    let e := expAt p 18
    let one : Int := 2 ^ 39
    let c (k : Nat) : Int := bv p k * 2 ^ (e + 16).toNat
    [badV (decide (one ≤ (c 4).natAbs)) 4, badV (decide (one + c 4 ≤ (c 3).natAbs)) 3, badV (decide (1 < bvU p 5)) 5]
    ++ zeroV p 6
  else if part = 0x18 ∨ part = 0x19 then zeroV p 4
  else if part = 0x1A then
    [badV (decide (bvU p 5 < 1) || decide (16 < bvU p 5)) 5, badV (decide (bvU p 6 < 1) || decide (64 < bvU p 6)) 6,
      badV (decide (bvU p 7 < 1) || decide (256 < bvU p 7)) 7] ++ zeroV p 10
  else if part = 0x1B then [badV (decide (bvU p 2 < 1) || decide (65535 < bvU p 2)) 2] ++ zeroV p 3
  else
    [badV (decide (bv p 0 < 0) || decide (bv p 1 ≤ bv p 0)) 0, badV (decide (bv p 1 < 0)) 1, badV (decide (bv p 3 ≤ bv p 2)) 3,
      badV (decide (65535 < bvU p 4)) 4] ++ zeroV p 5

/-- R195, R198: what a part needs of its slot: the leaf named, leased, and a standby area for set 1. -/
def partState (s : State) (n : Fin 32) (leaf : Nat) (standby : Bool) : List Check :=
  let named := match s.axis.slots[n].bind with
    | some b => (bindLeaves b).contains leaf
    | none => false
  let ls := (leasesOf s (.slot n)).filter (fun l => l.2.leaves.any (fun x => x.toNat == leaf))
  let short := leaseShort s (.slot n) [leaf]
  [denied (!named) 1, (short != 0, stLease, short), denied (standby && !ls.any (fun l => l.2.standby)) 2]

/-- R197, R198: the state checks of a BANK_LOAD. -/
def bankLoadState (f : InFlight) (s : State) : List Check :=
  partState s (slotT f) ((partLeaf (pU f.payload 16 1)).getD 0) (pU f.payload 17 1 == 1)

/-- R197: the checks of BANK_LOAD. -/
def bankLoadCheck (f : InFlight) (s : State) : Option (Nat × Int) :=
  let p := f.payload
  let part := pU p 16 1
  firstFail ([resv p 62 63, inval (partLeaf part).isNone 16,
    inval (decide (1 < pU p 17 1) || (pU p 17 1 == 1 && part != 0x08 && part != 0x09)) 17,
    inval (decide (31 < pU p 18 1)) 18, inval (decide (31 < pU p 19 1)) 19] ++ partChecks p ++ bankLoadState f s)

/-- R197: whether a BANK_LOAD acts on the current schedule. -/
def partCurrent (part : Nat) : Bool := decide (part ≤ 0x03)

/-- R196: the pair of a payload. -/
def pairOf (p : BitVec 384) : Pair :=
  { expHold := expAt p 18, expDrive := expAt p 19, kpHold := bv p 0, kiHold := bv p 1, kdHold := bv p 2
    kpDrive := bv p 3, kiDrive := bv p 4, kdDrive := bv p 5, kdf := bv p 6, bandIn := bv p 7, bandOut := bv p 8
    umin := bv p 9, umax := bv p 10, kvff := bvU p 11, v12 := bvU p 12, v13 := bvU p 13 }

/-- R199: the pair in force of a loop. -/
def inForce (l : Loop) : Pair := if l.inB then l.pairB else l.pairA

/-- R197: a pair written: to the one in force (`standby = false`) or to the other; `live`: the slot is not OFF. -/
def loadLoop (x : Pair) (standby live : Bool) (l : Loop) : Loop :=
  let l := if l.inB != standby then { l with pairB := x, loadedB := true } else { l with pairA := x, loadedA := true }
  if standby || !live then l else { l with transfer := true }

/-- R195–R205, R210: a part written. -/
def loadPart (p : BitVec 384) (live : Bool) (sl : Slot) : Slot :=
  let part := pU p 16 1
  let sb := pU p 17 1 == 1
  let x := pairOf p
  let e := expAt p 18
  let o := sl.out
  match part with
  | 0x01 => { sl with cur := { sl.cur with d := loadLoop x false live sl.cur.d } }
  | 0x02 => { sl with cur := { sl.cur with q := loadLoop x false live sl.cur.q } }
  | 0x03 => { sl with cur := { sl.cur with dc := loadLoop x false live sl.cur.dc } }
  | 0x08 => { sl with out := { o with vel := loadLoop x sb live o.vel } }
  | 0x09 => { sl with out := { o with pos := loadLoop x sb live o.pos } }
  | 0x18 => { sl with out := { o with dob := { o.dob with
      loaded := true, e := e, gain := bv p 0, pole := bv p 1, lo := bv p 2, hi := bv p 3 } } }
  | 0x19 => { sl with out := { o with ffwd := {
      loaded := true, e := e, kaff := bv p 0, kfric := bv p 1, koffset := bv p 2, vfric := bv p 3 } } }
  | 0x1A => { sl with out := { o with plaus := { o.plaus with
      loaded := true, g := bv p 0, gExp := e, beta := bv p 1, betaExp := expAt p 19, fric := bv p 2, velTh := bv p 3
      posTh := bv p 4, nSuspect := bvU p 5, nResume := bvU p 6, coastMax := bvU p 7, countsRev := bvU p 8
      loadRatio := bvU p 9 } } }
  | 0x1B => { sl with out := { o with rep := { o.rep with
      loaded := true, e := e, gain := bv p 0, period := bvU p 1, ramp := bvU p 2, gainFrom := o.rep.gainNow, done := 0 } } }
  | 0x20 => { sl with out := { o with band := loadLoop x false live o.band } }
  | 0x21 => { sl with out := { o with two := { o.two with
      loaded := true, levelLo := bv p 0, levelHi := bv p 1, bandIn := bv p 2, bandOut := bv p 3, minDwell := bvU p 4 } } }
  | _ =>
    if h : part - 0x10 < 4 then
      { sl with out := { o with notch := upd o.notch ⟨part - 0x10, h⟩ (fun q => { q with
          loaded := true, enabled := bit (bvU p 5) 0, e := e, b0 := bv p 0, b1 := bv p 1, b2 := bv p 2, a1 := bv p 3
          a2 := bv p 4, start := bit (bvU p 5) 0 }) } }
    else sl

/-- R217: the pairs in force of the velocity and position loops. -/
def pairBits (sl : Slot) : Nat := ofMask [sl.out.vel.inB, sl.out.pos.inB]

/-- R197: BANK_LOAD takes effect. -/
def bankLoadNow (f : InFlight) (at' : Stamp) (s : State) : State :=
  let n := slotT f
  let p := f.payload
  let part := pU p 16 1
  let live := s.axis.slots[n].mode != .off
  let s := fogSlot n (modSlot s n (loadPart p live))
  let s := if isPair part && pU p 17 1 == 0 then slotEv n .note 0x02 (b1 part ++ b1 (pairBits s.axis.slots[n])) s else s
  complete f.id stOK part 0 (some at') s

/-! ### BANK_SWAP (R199) -/

/-- R198, R199: the states that refuse a BANK_SWAP. -/
def bankSwapState (f : InFlight) (s : State) : List Check :=
  let n := slotT f
  let m := pU f.payload 16 1
  let o := s.axis.slots[n].out
  let other (l : Loop) : Bool := if l.inB then l.loadedA else l.loadedB
  (if bit m 0 then partState s n 0x08 true ++ [denied (!other o.vel) 3] else [])
  ++ (if bit m 1 then partState s n 0x09 true ++ [denied (!other o.pos) 3] else [])

/-- R199: the checks of BANK_SWAP. -/
def bankSwapCheck (f : InFlight) (s : State) : Option (Nat × Int) :=
  let p := f.payload
  firstFail ([resv p 17 63, inval (pU p 16 1 == 0 || decide (3 < pU p 16 1)) 16] ++ bankSwapState f s)

/-- R199: the pairs of a loop exchanged. -/
def swapLoop (live : Bool) (l : Loop) : Loop := { l with inB := !l.inB, transfer := l.transfer || live }

/-- R199: BANK_SWAP takes effect. -/
def bankSwapNow (f : InFlight) (at' : Stamp) (s : State) : State :=
  let n := slotT f
  let m := pU f.payload 16 1
  let live := s.axis.slots[n].mode != .off
  let s := modSlot s n (fun sl => { sl with out := { sl.out with
    vel := if bit m 0 then swapLoop live sl.out.vel else sl.out.vel
    pos := if bit m 1 then swapLoop live sl.out.pos else sl.out.pos } })
  let s := fogSlot n s
  let b := pairBits s.axis.slots[n]
  complete f.id stOK b 0 (some at') (slotEv n .note 0x02 (b1 m ++ b1 b) s)

/-! ### MODE_SET (R206–R208, R215) -/

/-- R206: the field checks of MODE_SET. -/
def modeFields (f : InFlight) (s : State) : List Check :=
  let p := f.payload
  let mode := pU p 16 1
  let kind := s.axis.slots[slotT f].bind.map (fun b => b.kind)
  let two : Bool := match s.axis.slots[slotT f].bind with
    | some b => b.kind == Kind.band && b.structureCode == 1
    | none => false
  let m := pU p 20 4
  [resv p 18 19, resv p 24 63, inval (decide (2 < mode) || (mode == 1 && kind == some Kind.virtual)) 16,
    inval (decide (3 < pU p 17 1)) 17,
    inval (mode == 1 && (bif two then decide (1 < m) else kind != some Kind.step && decide (65535 < m))) 20]

/-- R200: the parts that have not been loaded since their lease. -/
def unloadedParts (sl : Slot) (b : Binding) : List Nat :=
  let ls := bindLeaves b
  let ok (l : Loop) : Bool := if l.inB then l.loadedB else l.loadedA
  (if ls.contains 0x01 then (if ok sl.cur.d then [] else [0x01]) ++ (if ok sl.cur.q then [] else [0x02]) else [])
  ++ (if ls.contains 0x02 && b.kind == .servo && !ok sl.cur.dc then [0x03] else [])
  ++ (if ls.contains 0x08 && !ok sl.out.vel then [0x08] else [])
  ++ (if ls.contains 0x09 && !ok sl.out.pos then [0x09] else [])
  ++ (if ls.contains 0x0D && !sl.out.plaus.loaded then [0x1A] else [])
  ++ (if ls.contains 0x21 && !ok sl.out.band then [0x20] else [])
  ++ (if ls.contains 0x20 && !sl.out.two.loaded then [0x21] else [])

/-- R361: the POWER mode refuses a band slot's local output. -/
def powerModeBad (s : State) (b : Binding) : Bool :=
  b.kind == .band && ((b.bandDst == 0 && powMode s != 2) || (decide (1 ≤ b.bandDst) && decide (b.bandDst ≤ 3) && powMode s == 2))

/-- R208: leaving OFF. -/
def leaveOff (s : State) (n : Fin 32) (b : Binding) : List Check :=
  let sl := s.axis.slots[n]
  let g := s.axis.groups[b.group]
  let short := leaseShort s (.slot n) (bindLeaves b)
  let parts := unloadedParts sl b
  let why := admitSlot s n b
  [denied g.stopped 7, denied (b.kind != .band && sl.limits.isNone) 0x11, (short != 0, stLease, short),
    denied (!parts.isEmpty) (((2 ^ 30 + parts.headD 0 : Nat) : Int)), denied (powerModeBad s b) 0x41,
    denied why.isSome (why.getD 0)]

/-- R206, R208, R215: the states that refuse a MODE_SET. -/
def modeState (f : InFlight) (s : State) : List Check :=
  let n := slotT f
  let p := f.payload
  let sl := s.axis.slots[n]
  match sl.bind with
  | none => [denied true 0]
  | some b =>
    let mode := pU p 16 1
    let opts := pU p 17 1
    if mode = 0 then
      [denied (bit opts 0 && (s.firebreak.groups[b.group].demands != 0)) 8,
        denied (sl.mode != .off && !bit opts 1 && decide (b.standstill < sl.fb.v.natAbs)) 6]
    else if sl.mode = .off then leaveOff s n b
    else []

/-- R206: the checks of MODE_SET. -/
def modeSetCheck (f : InFlight) (s : State) : Option (Nat × Int) := firstFail (modeFields f s ++ modeState f s)

/-- R206: the rejection of a MODE_SET at its sample. -/
def lateMode (f : InFlight) (s : State) : Option (Nat × Int) := firstFail (modeState f s)

/-- R215: a stopped group is released. -/
def releaseGroup (g : Fin 8) (n : Fin 32) (s : State) : State :=
  if s.axis.groups[g].stopped then
    let s := modGroup s g (fun x => { x with stopped := false })
    slotEv n .note 0x09 (b1 g) s
  else s

/-- R192, R201, R209: what a slot's loops start with when it leaves OFF. -/
def startLoops (sl : Slot) : Slot :=
  let sl := modLoops (fun l => { l with fresh := true, d := 0 }) sl
  let two := { sl.out.two with hi := false, dwell := sl.out.two.minDwell }
  let plaus := { sl.out.plaus with
    first := true, suspect := 0, resume := 0, coasting := false, coastLen := 0, limited := false }
  { sl with
    out := { sl.out with two := two, plaus := plaus },
    fb := { sl.fb with first := true },
    curSched := { sl.curSched with index := 0, applied := [], appliedAt := none, overruns := [], lastOverrun := none },
    outSched := { sl.outSched with index := 0, applied := [], appliedAt := none, overruns := [], lastOverrun := none } }

/-- R206, R207, R218: a slot enters MANUAL or AUTO. -/
def enterMode (n : Fin 32) (m : Mode) (manual : BitVec 32) (s : State) : State :=
  let sl := s.axis.slots[n]
  let old := sl.mode
  if old = m then
    if m = .manual then modSlot s n (fun sl => { sl with manual := manual }) else s
  else
    let s := setMode n m s
    modSlot s n (fun sl =>
      let sl := if old = .off then startLoops sl else sl
      let sl := { endHold (dropGoal sl) with source := .profile, atGoal := false, parked := false, manual := manual }
      if m = .auto then
        let sl := transferIn (old == .off) sl
        { sl with entry := .auto, out := { sl.out with dob := { sl.out.dob with est := 0 } } }
      else { sl with entry := .none })

/-- R206: MODE_SET takes effect at a sample; the instant for OFF is the sample itself. -/
def modeSetNow (f : InFlight) (tApply ts : Stamp) (s : State) : State :=
  let n := slotT f
  let p := f.payload
  match pU p 16 1 with
  | 0 =>
    let s := match groupOf s n with
      | some g => if bit (pU p 17 1) 0 then releaseGroup g n s else s
      | none => s
    completeOk f.id (some ts) (if s.axis.slots[n].mode = .off then s else slotOff n s)
  | 1 => completeOk f.id (some tApply) (fogSlot n (enterMode n .manual (BitVec.ofNat 32 (pU p 20 4)) s))
  | _ => completeOk f.id (some tApply) (fogSlot n (enterMode n .auto 0 s))

end Sys2Proof.Machine
end

