-- ==== Sys2Proof/Machine/Loops.lean ====
section
/-!
DEFINITION. The laws of the vendor leaves (R191–R194, R201–R205, R209–R212, R541): what a job of a slot computes from its
inputs and the state its leases hold. Signal words are 24-bit; integrators and derivative states keep 16 further bits.
-/

namespace Sys2Proof.Machine

/-! ### The band law (R192) -/

/-- R191: a Q15.8 word from a value with 16 fraction bits more than its own 8. -/
def toWord (x : Int) : Int := satS 24 (roundDiv x 65536)

/-- A C24 gain times a signal word, with 16 fraction bits; `sh`: 15 where the output is a fraction (Q1.23), else 0. -/
def gainMul (m e : Int) (sh : Nat) (x : Int) : Int := scale2 (m * x) (e - 23 + sh + 16)

/-- R192: the terms of the law other than the integrator, for a pair and a bank. -/
def lawTerms (p : Pair) (drive : Bool) (sh : Nat) (e d vCmd : Int) : Int :=
  let (kp, kd, ex) := if drive then (p.kpDrive, p.kdDrive, p.expDrive) else (p.kpHold, p.kdHold, p.expHold)
  gainMul kp ex sh e + scale2 (kd * d) (ex - 23 + sh) + roundDiv (p.kvff * vCmd) (2 ^ 6)

/-- R192: ki × e, with 16 fraction bits. -/
def kiTerm (p : Pair) (drive : Bool) (sh : Nat) (e : Int) : Int :=
  if drive then gainMul p.kiDrive p.expDrive sh e else gainMul p.kiHold p.expHold sh e

/-- R192: a loop up to its clamped output: the loop with bank, derivative and preset integrator, and the output with 16
fraction bits. -/
def lawU (sh : Nat) (e fb vCmd : Int) (l : Loop) : Loop × Int :=
  let p := inForce l
  let old := if l.fresh then p else l.old
  let d := if l.fresh then 0 else roundDiv (old.kdf * l.d + (2 ^ 23 - old.kdf) * (wrapS 40 (l.fbPrev - fb) * 65536)) (2 ^ 23)
  let uOld := clampI (old.umin * 65536) (old.umax * 65536) (lawTerms old l.drive sh e d vCmd + l.i)
  let uRef := match l.entryRef with
    | some r => r * 65536
    | none => uOld
  let drive := if l.drive then !decide (e.natAbs < p.bandIn) else decide (p.bandOut < e.natAbs)
  let f := lawTerms p drive sh e d vCmd
  let i := if l.transfer || drive != l.drive then clampI (p.umin * 65536 - f) (p.umax * 65536 - f) (uRef - f) else l.i
  let u := f + i
  let sat := decide (p.umax * 65536 ≤ u) || decide (u ≤ p.umin * 65536)
  let u := clampI (p.umin * 65536) (p.umax * 65536) u
  ({ l with drive := drive, d := satS 40 d, i := satS 40 i, sat := sat, u := toWord u, fbPrev := fb, fresh := false
            transfer := false, entryRef := none, old := p }, u)

/-- R194: whether a term would push a clamped output `u` further: up at umax, down at umin; away from 0 where the voltage limit of R541
cuts it (log 48). -/
def pushes (l : Loop) (u k : Int) : Bool :=
  let top := decide (l.old.umax * 65536 ≤ u)
  let low := decide (u ≤ l.old.umin * 65536)
  if top || low then (top && decide (0 < k)) || (low && decide (k < 0)) else u != 0 && decide (sgn k = sgn u)

/-- R192, R194: the integrator moves unless it would push the clamped output further. -/
def lawI (sh : Nat) (e : Int) (u : Int) (l : Loop) : Loop :=
  let k := kiTerm l.old l.drive sh e
  if l.sat && pushes l u k then l else { l with i := satS 40 (l.i + k) }

/-- R192: one sample of a loop. -/
def law (sh : Nat) (e fb vCmd : Int) (l : Loop) : Loop :=
  let (l', u) := lawU sh e fb vCmd l
  lawI sh e u l'

/-- R207: a loop that tracks an output: its integrator is preset so that the output is the given word. -/
def trackLaw (sh : Nat) (e fb vCmd out : Int) (l : Loop) : Loop :=
  let p := inForce l
  let d := if l.fresh then 0 else roundDiv (p.kdf * l.d + (2 ^ 23 - p.kdf) * (wrapS 40 (l.fbPrev - fb) * 65536)) (2 ^ 23)
  let f := lawTerms p l.drive sh e d vCmd
  { l with d := satS 40 d, i := satS 40 (out * 65536 - f), sat := false, u := out, fbPrev := fb, fresh := false
           transfer := false, entryRef := none, old := p }

/-! ### Events of the loops (R217) -/

/-- R217: a change of bank or saturation reported, at most once per loop and millisecond. -/
def loopEvents (n : Fin 32) (b : Binding) (code : Nat) (e : Int) (was now : Loop) (s : State) : State :=
  let s := if was.drive = now.drive then s
    else modSlot s n (fun sl => { sl with bands := sl.bands + 1 })
  let s := if was.drive != now.drive && b.evBand then
      emitLim msLsb (8 + code) (fun held =>
        slotHap n .note 0x01 (b1 code ++ b1 (ofBool now.drive) ++ sgnBytes 3 e ++ cnt1 held)) s
    else s
  if was.sat != now.sat && b.evSat then
    emitLim msLsb (16 + code) (fun held => slotHap n .note 0x03 (b1 code ++ b1 (ofBool now.sat) ++ cnt1 held)) s
  else s

/-! ### Currents and duties (R541) -/

/-- R191: a fraction `num ÷ den` as a duty word. -/
def dutyOf (num : Int) (den : Nat) : Nat := (clampI 0 0xFFFF (roundDiv (num * 65536) den)).toNat

/-- R541: the electrical angle, in units of 2^-64 revolution. -/
def elecAngle (p : Pair) (q : P48) : Int :=
  let pole : Int := p.v12 / 65536
  let cr := max 1 p.v13.toNat
  (Int.fdiv (p48 q % 2 ^ 48 * pole * 2 ^ 48) cr + (p.v12 % 65536) * 2 ^ 48) % 2 ^ 64

/-- √3 with 64 fraction bits. -/
def root3 : Nat := Nat.sqrt (3 * 2 ^ 128)

/-- R541: the d and q currents, Q15.8 words, from the phase currents (I16 units) at an angle. -/
def dqCurrents (iU iV iW : Int) (θ : Int) : Int × Int :=
  let (sn, cs) := sinCos θ
  let al := roundDiv ((2 * iU - iV - iW) * 2 ^ 64) 3
  let be := roundDiv ((iV - iW) * 2 ^ 128) root3
  (satS 24 (roundDiv (256 * (al * cs + be * sn)) (2 ^ 128)), satS 24 (roundDiv (256 * (be * cs - al * sn)) (2 ^ 128)))

/-- R541: the duties of three phases from v_d and v_q (Q1.23 words with 16 further bits). -/
def phaseDuties (vd vq θ : Int) : Nat × Nat × Nat :=
  let (sn, cs) := sinCos θ
  let al := vd * cs - vq * sn
  let be := vd * sn + vq * cs
  -- al and be have 23 + 16 + 64 fraction bits; a phase duty is (1 + v) ÷ 2
  let one : Int := 2 ^ 103
  let r := roundDiv (be * root3) (2 ^ 64)
  (dutyOf (one + al) (2 ^ 104), dutyOf (2 * one - al + r) (2 ^ 105), dutyOf (2 * one - al - r) (2 ^ 105))

/-- R187: the current set-point of a current job: the newest outer output applied, or 0 before the first. -/
def currentSp (s : State) (n : Fin 32) : Int :=
  match s.axis.slots[n].outSched.applied.head? with
  | some (.current i) => i
  | _ => 0

/-- R207: the manual current within the limits of the current pair, whose words have the full scale of the current's (log 48). -/
def manualCurrent (sl : Slot) : Int :=
  let p := if (sl.bind.map (fun b => b.curLeaf)) = some 0x02 then inForce sl.cur.dc else inForce sl.cur.q
  clampI p.umin p.umax (sext 16 sl.manual.toNat * 256)

/-- R247, R3: the factor of the current limit during the search of a homing, in units of 2^-16; none otherwise. -/
def homeScale (sl : Slot) : Option Int :=
  match sl.homing with
  | some h => if h.returning || h.failing then none else some (if h.iLimit = 0xFFFF then 65536 else h.iLimit)
  | none => none

/-- R247: the current limit during a homing. -/
def homeLimit (sl : Slot) (x : Int) : Int :=
  match homeScale sl with
  | some k =>
    let p := inForce sl.out.vel
    clampI (roundDiv (p.umin * k) 65536) (roundDiv (p.umax * k) 65536) x
  | none => x

/-- R187, R541: a current job of a servo slot. -/
def currentLaw (n : Fin 32) (ins : JobIn) (s : State) : State × OutVal :=
  let sl := s.axis.slots[n]
  match sl.bind with
  | none => (s, .words [])
  | some b =>
    let sp := ins.sp
    if b.curLeaf = 0x01 then
      let θ := elecAngle (inForce sl.cur.d) ins.comm
      let (id, iq) := dqCurrents ins.iU ins.iV ins.iW θ
      let ed := satS 24 (-id)
      let eq := satS 24 (sp - iq)
      let (d, _) := lawU 15 ed id 0 sl.cur.d
      let (q, _) := lawU 15 eq iq 0 sl.cur.q
      -- R191: the outputs are words; R541: the voltage limit
      let (ud, uq) := (d.u * 65536, q.u * 65536)
      let lim : Nat := (2 ^ 23 - 1) * 65536
      let over' := decide (lim ^ 2 < ud.natAbs ^ 2 + uq.natAbs ^ 2)
      let cut (u : Int) : Int := if over' then Int.tdiv (u * lim) (Nat.sqrt (ud.natAbs ^ 2 + uq.natAbs ^ 2) + 1) else u
      let d := if over' then { d with sat := true, u := toWord (cut ud) } else d
      let q := if over' then { q with sat := true, u := toWord (cut uq) } else q
      let d := lawI 15 ed (cut ud) d
      let q := lawI 15 eq (cut uq) q
      let s := loopEvents n b 3 ed sl.cur.d d (loopEvents n b 0 eq sl.cur.q q s)
      let m (x : Mon) : Mon := { x with id := id, iq := iq, iU := ins.iU, iV := ins.iV, iW := ins.iW }
      let s := modSlot s n (fun sl => { sl with cur := { sl.cur with d := d, q := q }, mon := m sl.mon })
      let (u, v, w) := phaseDuties (cut ud) (cut uq) θ
      (s, .duty3 u v w)
    else if b.curLeaf = 0x02 then
      let i := satS 24 ((ins.iU - ins.iV) * 128)
      let e := satS 24 (sp - i)
      let l := law 15 e i 0 sl.cur.dc
      let s := loopEvents n b 0 e sl.cur.dc l s
      let m (x : Mon) : Mon := { x with iq := i, iU := ins.iU, iV := ins.iV }
      let s := modSlot s n (fun sl => { sl with cur := { sl.cur with dc := l }, mon := m sl.mon })
      let one : Int := 2 ^ 23
      (s, .duty2 (dutyOf (one + l.u) (2 ^ 24)) (dutyOf (one - l.u) (2 ^ 24)))
    else (s, .words [])

/-! ### Filters and feedforward (R202–R205) -/

/-- R202: one biquad at an input word. -/
def biquad (q : Biquad) (x : Int) : Biquad × Int :=
  if !q.enabled then ({ q with x1 := x, x2 := x, y1 := x, y2 := x, start := false }, x)
  else
    let q := if q.start then { q with x1 := x, x2 := x, y1 := x, y2 := x, start := false } else q
    let y := satS 24 (scale2 (q.b0 * x + q.b1 * q.x1 + q.b2 * q.x2 - q.a1 * q.y1 - q.a2 * q.y2) (q.e - 23))
    ({ q with x2 := q.x1, x1 := x, y2 := q.y1, y1 := y }, y)

/-- R202: the four biquads in series. -/
def notch4 (v : Vector Biquad 4) (x : Int) : Vector Biquad 4 × Int :=
  (List.finRange 4).foldl (fun (acc : Vector Biquad 4 × Int) k =>
    let (q, y) := biquad acc.1[k] acc.2
    (upd acc.1 k (fun _ => q), y)) (v, x)

/-- R203: the observer: `acc` the measured acceleration and `i` the measured current, Q15.8. -/
def observe (d : Dob) (acc i : Int) : Dob :=
  let implied := scale2 (d.gain * acc) (d.e - 23 + 16)
  let est := roundDiv (d.pole * d.est + (2 ^ 23 - d.pole) * (implied - i * 65536)) (2 ^ 23)
  { d with est := satS 40 (clampI (d.lo * 65536) (d.hi * 65536) est) }

/-- R204: the feedforward current, Q15.8. -/
def feedforward (f : Ffwd) (a v : Int) : Int :=
  let fric : Int := if f.vfric = 0 ∨ (0 < f.vfric ∧ f.vfric ≤ v.natAbs) then f.kfric * sgn v
    else roundDiv (f.kfric * v * sgn f.vfric) f.vfric.natAbs
  scale2 (f.kaff * a) (f.e - 23) + fric + f.koffset

/-- R205: one sample of the ramp: the gain in units of 2^-39. -/
def rampGain (r : RepMap) : RepMap :=
  let goal := r.gain * 2 ^ (r.e + 16).toNat
  let k := min (r.done + 1) (max 1 r.ramp)
  { r with done := k, gainNow := r.gainFrom + roundDiv ((goal - r.gainFrom) * k) (max 1 r.ramp) }

/-- R205: the phase of the map at a position (2^-16 counts): the period, the two entries it lies between and the fraction over the
period. The manual gives no phase for a period of 0: a free value (log 1). -/
def repPhase (r : RepMap) (t : Table) (pos : Int) (free : Nat) : Int × Nat × Nat × Int :=
  let per : Int := if r.period = 0 then 65536 else r.period * 65536
  let x : Int := if r.period = 0 then ((free % (65536 * t.len) : Nat) : Int) else (pos % per) * t.len
  let i := (x / per).toNat
  (per, i, if i + 1 < t.len then i + 1 else 0, x % per)

/-- R205: the correction of the map at a position, in 2^-16 counts. -/
def repValue (s : State) (r : RepMap) (t : Table) (pos : Int) (free : Nat) : Int :=
  let (per, i, k, fr) := repPhase r t pos free
  let a := folioEntry s t i
  let b := folioEntry s t k
  let y := a * per + (b - a) * fr
  roundDiv (r.gainNow * y) (per * 2 ^ 23).toNat

/-! ### Plausibility (R209–R212) -/

/-- R209: the acceleration the model gives a current (Q15.8), in 2^-40 counts/ms². `ep`: flags bit 3 of the slot. -/
def modelAcc (ep : Bool) (p : Plaus) (i : Int) : Int :=
  let g := match (if ep then p.epG else none) with
    | some g => roundDiv (g * i) (2 ^ 31)
    | none => scale2 (p.g * i) (p.gExp + 9)
  let be := match (if ep then p.epBeta else none) with
    | some b => roundDiv (b * p.vm) (2 ^ 63)
    | none => scale2 (p.beta * p.vm) (p.betaExp - 23)
  g - be - p.fric * 2 ^ 32 * sgn p.vm

/-- R209: the prediction of the next sample. -/
def modelAdvance (ep : Bool) (p : Plaus) (i : Int) (cad : Nat) : Plaus :=
  let g := advance { p := p.pm, v := p.vm, a := modelAcc ep p i } 0 cad
  { p with pm := g.p, vm := g.v }

/-- R211: a slot starts to coast. reason: 1 residual, 2 departure. -/
def coastStart (n : Fin 32) (reason : Nat) (s : State) : State :=
  let p := s.axis.slots[n].out.plaus
  if p.coasting then s
  else
    let s := modSlot s n (fun sl => { sl with
      coasts := satU 16 (sl.coasts + 1)
      out := { sl.out with plaus := { sl.out.plaus with coasting := true, coastLen := 0, resume := 0, limited := false } } })
    slotEv n .warning 0x05 (b1 reason ++ sgnBytes 3 p.rv ++ sgnBytes 3 p.rp) s

/-- R212: one coast sample counted; at coast_max SS1 is requested. -/
def coastCount (n : Fin 32) (s : State) : State :=
  let s := modSlot s n (fun sl =>
    let k := sl.out.plaus.coastLen + 1
    { sl with longest := min 511 (max sl.longest k), out := { sl.out with plaus := { sl.out.plaus with coastLen := k } } })
  let p := s.axis.slots[n].out.plaus
  if p.coastMax ≤ p.coastLen ∧ ¬ p.limited then
    let s := modSlot s n (fun sl => { sl with out := { sl.out with plaus := { sl.out.plaus with limited := true } } })
    match groupOf s n with
    | some g => raiseSs1 { slotHap n .stop 0x07 (b1 g) with idx := g, handler := 2 } 2 [g] s
    | none => s
  else s

/-- R209–R212: the model at a sample: the residuals, the choice between measurement and model, and the prediction. `i`: the
current, Q15.8. -/
def runPlaus (n : Fin 32) (ins : JobIn) (i : Int) (cad : Nat) (s : State) : State :=
  let set (f : Plaus → Plaus) (s : State) : State :=
    modSlot s n (fun sl => { sl with out := { sl.out with plaus := f sl.out.plaus } })
  let s := set (fun p => if p.first then
    { p with pm := p48 ins.pos * 2 ^ 32, vm := ins.vel * 2 ^ 32, first := false, suspect := 0, resume := 0 } else p) s
  let s := set (fun p => { p with
    rv := satS 24 (ins.vel - roundDiv p.vm (2 ^ 32))
    rp := satS 24 (roundDiv (wrapS 48 (p48 ins.pos - roundDiv p.pm (2 ^ 32))) 256) }) s
  let p := s.axis.slots[n].out.plaus
  let fail := decide (p.velTh < p.rv.natAbs) || decide (p.posTh < p.rp.natAbs) || ins.fbStale
  let s :=
    if !p.coasting then
      let k := if fail then p.suspect + 1 else 0
      let s := set (fun p => { p with suspect := k }) s
      if p.nSuspect ≤ k then coastCount n (coastStart n 1 (set (fun p => { p with suspect := 0 }) s)) else s
    else
      let k := if fail then 0 else p.resume + 1
      let s := set (fun p => { p with resume := k }) s
      if p.nResume ≤ k then
        let s := set (fun p => { p with coasting := false, resume := 0, suspect := 0 }) s
        let s := modSlot s n (fun sl => { sl with fb := { sl.fb with meas := ins.pos, v := ins.vel } })
        slotEv n .note 0x06 (leBytes 2 p.coastLen) s
      else coastCount n s
  let s := set (fun p => if p.coasting then p else { p with pm := p48 ins.pos * 2 ^ 32, vm := ins.vel * 2 ^ 32 }) s
  let p := s.axis.slots[n].out.plaus
  let s := if p.coasting then modSlot s n (fun sl => { sl with fb := { sl.fb with
      meas := BitVec.ofInt 48 (roundDiv p.pm (2 ^ 32)), v := satS 32 (roundDiv p.vm (2 ^ 32)) } }) else s
  let ep := (s.axis.slots[n].bind.map (fun b => b.epModel)).getD false
  set (fun p => modelAdvance ep p i cad) s

/-! ### The outer job -/

/-- R209, R541: the measured current of a servo slot, Q15.8; the last commanded one when it is stale. -/
def measuredCurrent (s : State) (n : Fin 32) (ins : JobIn) : Int :=
  let sl := s.axis.slots[n]
  if ins.iStale then currentSp s n
  else if (sl.bind.map (fun b => b.curLeaf)) = some 0x01 then
    (dqCurrents ins.iU ins.iV ins.iW (elecAngle (inForce sl.cur.d) ins.comm)).2
  else satS 24 ((ins.iU - ins.iV) * 128)

/-- R191: the position error, Q15.8, from two positions of 2^-16 counts. -/
def posError (sp fb : Int) : Int := satS 24 (roundDiv (wrapS 48 (sp - fb)) 256)

/-- R188: the outer job of a servo slot: the current set-point it latches. -/
def servoLaw (n : Fin 32) (ins : JobIn) (s : State) : State × OutVal :=
  let sl := s.axis.slots[n]
  match sl.bind with
  | none => (s, .words [])
  | some b =>
    let cad := 2 ^ b.outCad
    let has (l : Nat) : Bool := b.leaves.any (fun x => x.toNat == l)
    let i := measuredCurrent s n ins
    let s := if has 0x0D then runPlaus n ins i cad s else s
    let sl := s.axis.slots[n]
    let pos := p48 sl.fb.meas
    let vel := satS 24 sl.fb.v
    let man := sl.mode = .manual
    let rep := if has 0x31 && !man then rampGain sl.out.rep else sl.out.rep
    let (x, s) := if has 0x31 && !man && rep.loaded && rep.period == 0 then takeFree s else (0, s)
    let corr : Int := if has 0x31 && !man && rep.loaded then
        (match b.repTable.bind (fun t => tabGet s.glade.tables t) with
          | some t => repValue s rep t pos x
          | none => 0)
      else 0
    let vCmd := satS 24 sl.cmdV
    let sp := if man then pos else p48 sl.cmdP + corr
    let ep := posError sp pos
    let pl := if has 0x09 then (if man then trackLaw 0 ep (roundDiv pos 256) 0 0 sl.out.pos else law 0 ep (roundDiv pos 256) vCmd sl.out.pos)
      else sl.out.pos
    let vsp := if has 0x09 then pl.u else vCmd
    let ev := satS 24 (vsp - vel)
    let cur := manualCurrent sl
    let vl := if man then trackLaw 0 ev vel 0 cur sl.out.vel else law 0 ev vel 0 sl.out.vel
    let x := vl.u
    let (nt, x) := if has 0x0A && !man then notch4 sl.out.notch x else (sl.out.notch, x)
    let acc := satS 24 (roundDiv ((sl.fb.v - sl.fb.vPrev) * 128) cad)
    let dob := if has 0x0B && sl.out.dob.loaded && !man then observe sl.out.dob acc i else sl.out.dob
    let x := if has 0x0B && !man then satS 24 (x - roundDiv dob.est 65536) else x
    let p := vl.old
    let ffc := if has 0x0C && sl.out.ffwd.loaded && !man then feedforward sl.out.ffwd (satS 24 sl.cmdA) vCmd else 0
    let x := if has 0x0C && sl.out.ffwd.loaded && !man then clampI p.umin p.umax (x + ffc) else x
    let x := homeLimit sl x
    let s := if has 0x09 then loopEvents n b 2 ep sl.out.pos pl s else s
    let s := loopEvents n b 1 ev sl.out.vel vl s
    let m (x : Mon) : Mon := { x with ep := ep, ev := ev, ffc := satS 24 ffc, rep := satS 24 (roundDiv corr 256) }
    let s := modSlot s n (fun sl => { sl with mon := m sl.mon, out := { sl.out with
      pos := pl, vel := vl, notch := nt, dob := dob, rep := rep } })
    let s := if man then modSlot s n (fun sl => { sl with
        cmdP := BitVec.ofInt 48 pos, cmdV := 0, cmdA := 0, gen := { p := pos * 2 ^ 32 }
        cubic := { sl.cubic with p := pos * 2 ^ 32, v := 0, a := 0, j := 0 } }) else s
    (s, .current (satS 24 x))

/-- R201: the two-level law at an error. -/
def twoLevel (t : TwoLevel) (e : Int) : TwoLevel :=
  let ready := decide (t.minDwell ≤ t.dwell)
  let t := if !t.hi && decide (t.bandOut < e) && ready then { t with hi := true, dwell := 0 }
    else if t.hi && decide (e < t.bandIn) && ready then { t with hi := false, dwell := 0 } else t
  { t with dwell := min (t.dwell + 1) 65535 }

/-- R220: the process set-point of a band slot, Q15.8. -/
def bandSp (sl : Slot) : Int := satS 24 (Int.fdiv (p48 sl.cmdP) 256)

/-- R192, R201, R214: the job of a band slot: its output fraction. -/
def bandLaw (n : Fin 32) (ins : JobIn) (s : State) : State × OutVal :=
  let sl := s.axis.slots[n]
  match sl.bind with
  | none => (s, .words [])
  | some b =>
    let pv := ins.band
    let e := satS 24 (bandSp sl - pv)
    let s := modSlot s n (fun sl => { sl with mon := { sl.mon with band := pv } })
    let two := b.structureCode = 1
    if sl.ss1 then
      let t := sl.out.two
      let last : Int := match sl.outSched.applied.head? with
        | some (.band f) => f
        | _ => 0
      (s, .band (if b.safeOut = 1 then last else if b.safeOut = 2 ∧ two then t.levelLo else 0))
    else if two then
      let t := if sl.mode = .manual then { sl.out.two with hi := sl.manual == 1 } else twoLevel sl.out.two e
      let was := sl.out.two.hi
      let s := modSlot s n (fun sl => { sl with out := { sl.out with two := t } })
      let s := loopEvents n b 0 e { drive := was } { drive := t.hi } s
      (s, .band (if t.hi then t.levelHi else t.levelLo))
    else
      let l := if sl.mode = .manual then trackLaw 15 e pv 0 ((sl.manual.toNat % 65536 * 128 : Nat) : Int) sl.out.band
        else law 15 e pv 0 sl.out.band
      let s := loopEvents n b 0 e sl.out.band l s
      let s := modSlot s n (fun sl => { sl with out := { sl.out with band := l } })
      (s, .band l.u)

/-- R243, R207: the job of a step slot. -/
def stepLaw (n : Fin 32) (s : State) : State × OutVal :=
  let sl := s.axis.slots[n]
  if sl.mode = .manual then (s, .rate (sext 32 sl.manual.toNat)) else (s, .step (stepTarget s n))

/-! ### The PARK leaf (R495) -/

/-- An IEEE 754 single as mantissa and binary exponent. -/
def single (x : Nat) : Int × Int :=
  let m : Nat := if bits x 30 23 = 0 then bits x 22 0 else bits x 22 0 + 2 ^ 23
  (if bit x 31 then -(m : Int) else m, (if bits x 30 23 = 0 then -149 else (bits x 30 23 : Int) - 150))

/-- A quotient scaled by a power of two, rounded to the nearest. -/
def scaleDiv (num : Int) (den : Nat) (e : Int) : Int :=
  if 0 ≤ e then roundDiv (num * 2 ^ e.toNat) den else roundDiv num (den * 2 ^ (-e).toNat)

/-- R340: the motor constants block of an axis: Endpaper or identity record, and its offset. -/
def motorBlock (s : State) (e : Fin 12) (a : Nat) : List Byte :=
  let x := s.link.eps[e]
  let r : Option (Fin 8) := x.bind.bind (fun b => if a = 0 then b.idRec0 else b.idRec1)
  match r with
  | some r => (s.link.recs[r].data.drop 72).take 48
  | none => (x.paper.drop (72 + 48 * a)).take 48

/-- R495: the entry of the park move of power-up that drives a slot. -/
def ownPark (s : State) (n : Fin 32) : Option ParkRun :=
  s.life.runs.find? (fun r => r.own && r.entry.slot == n && r.phase != .done && r.phase != .failed)

/-- R339: the motor of an entry's axis. -/
def parkMotor (s : State) (n : Fin 32) : Nat := ((ownPark s n).map (fun r => byteAt (motorBlock s r.entry.ep 0) 0)).getD 0

/-- R495: the output of a current demand (2^-24 I16 units): a duty vector from the phase resistance and the bus voltage. The
manual does not say at which electrical angle a three-phase vector lies: a free value (log 26). -/
def parkDuty (s : State) (n : Fin 32) (ep : Fin 12) (i : Int) : State × OutVal :=
  let sc := single (leAt s.link.eps[ep].paper 68 4)
  let r := single (leAt (motorBlock s ep 0) 16 4)
  let bus := ((s.link.eps[ep].bus.find? (fun x => x.1 == 0)).map (fun x => x.2)).getD 0
  -- a bus voltage of 0 leaves the quotient open
  let (x, s) := if bus = 0 then takeFree s else (0, s)
  let q : Int := if bus = 0 then (x : Int) - 2 ^ 39 else scaleDiv (i * sc.1 * r.1 * 100) bus (sc.2 + r.2 + 15)
  let u := clampI (-(2 ^ 39 - 2 ^ 16)) (2 ^ 39 - 2 ^ 16) q
  match parkMotor s n with
  | 0 => (s, .duty3 0x8000 0x8000 0x8000)
  | 2 => (s, .duty2 (dutyOf (2 ^ 39 + u) (2 ^ 40)) (dutyOf (2 ^ 39 - u) (2 ^ 40)))
  | _ =>
    let (x, s) := takeFree s
    let (a, b, c) := phaseDuties 0 u (x % 2 ^ 64 : Nat)
    (s, .duty3 a b c)

/-- R495: the PARK leaf of a servo entry: position loop, velocity loop, and the demand clamped to ±i_limit. -/
def parkLaw (n : Fin 32) (ins : JobIn) (s : State) : State × OutVal :=
  match ownPark s n with
  | none => (s, .words [])
  | some r =>
    let e := r.entry
    let sl := s.axis.slots[n]
    let vSp := roundDiv (e.kpPos * wrapS 48 (p48 sl.cmdP - p48 ins.pos)) 65536
    let ev := vSp - ins.vel
    let lim : Int := e.iLimit * 2 ^ 24
    let i := e.kpVel * ev * 256 + r.integ
    let out := clampI (-lim) lim i
    -- R194: the integrator does not grow against the clamp
    let step := e.kiVel * ev
    let integ := if i ≠ out ∧ sgn step = sgn i then r.integ else clampI (-lim) lim (r.integ + step)
    let s := { s with life := { s.life with runs := s.life.runs.map (fun x =>
      if x.own && x.entry.slot == n then { x with integ := integ } else x) } }
    parkDuty s n e.ep out

/-- R188: what a job of a slot computes. -/
def slotLaw (n : Fin 32) (sched : Sched) (ins : JobIn) (s : State) : State × OutVal :=
  match sched with
  | .current => currentLaw n ins s
  | .outer =>
    let k : Option Kind := s.axis.slots[n].bind.map (fun b => b.kind)
    match k with
    | some .servo => if (s.axis.slots[n].bind.map (fun b => b.leaves.contains 0x38)).getD false then parkLaw n ins s else servoLaw n ins s
    | some .step => stepLaw n s
    | some .band => bandLaw n ins s
    | _ => (s, .words [])

end Sys2Proof.Machine
end

