-- ==== Sys2Proof/Machine/Poly.lean ====
section
/-!
DEFINITION. Windows and crossings (R279–R282): the cubic a compare unit or a lattice holds for a window, and the instants at
which it crosses a target, to one LSB.
-/

namespace Sys2Proof.Machine

/-- A cubic in the LSB since a start: coefficients of 1, u, u², u³, in the units of `cubicNum`. -/
structure CPoly where
  c0 : Int
  c1 : Int
  c2 : Int
  c3 : Int

/-- The value of a polynomial. -/
def polyAt (q : CPoly) (u : Int) : Int := q.c0 + q.c1 * u + q.c2 * u ^ 2 + q.c3 * u ^ 3

/-- R280: the polynomial of a cubic, from the cubic's own start. -/
def polyOf (c : Cubic) : CPoly :=
  let D : Int := msLsb
  ⟨6 * D ^ 3 * c.p, 256 * (6 * D ^ 2 * c.v), 256 * (3 * D * c.a), 256 * c.j⟩

/-- A polynomial counted from a later start. -/
def polyFrom (q : CPoly) (t : Int) : CPoly :=
  ⟨polyAt q t, q.c1 + 2 * q.c2 * t + 3 * q.c3 * t ^ 2, q.c2 + 3 * q.c3 * t, q.c3⟩

/-- R280: the polynomial of a window from the window's start. -/
def windowPoly (w : Window) : CPoly := polyFrom (polyOf w.cubic) (diff64 w.from_ w.cubic.t0)

/-- R296: `x + v·t_flight` for a flight time in LSB. -/
def landingPoly (q : CPoly) (tf : Int) : CPoly :=
  ⟨q.c0 + tf * q.c1, q.c1 + 2 * tf * q.c2, q.c2 + 3 * tf * q.c3, q.c3⟩

/-- One 2^-16 count in the units of a polynomial. -/
def polyUnit : Int := cubicDen * 2 ^ 32

/-- R6: a difference in the units of a polynomial, signed and modulo 2^32 counts. -/
def polyWrap (x : Int) : Int :=
  let m := 2 ^ 48 * polyUnit
  Int.fmod (x + m / 2) m - m / 2

/-- A polynomial relative to a target in 2^-16 counts. -/
def polyRel (q : CPoly) (target : Int) : CPoly := { q with c0 := polyWrap (q.c0 - target * polyUnit) }

/-- R282: below the target. -/
def below (r : CPoly) (u : Int) : Bool := decide (polyAt r u < 0)

/-- The integers next to the extrema of a polynomial within (lo, hi), rising, and then hi. -/
def breaks (q : CPoly) (lo hi : Int) : List Int :=
  let roots : List Int :=
    if q.c3 = 0 then (if q.c2 = 0 then [] else [Int.fdiv (-q.c1) (2 * q.c2)])
    else
      let disc := q.c2 ^ 2 - 3 * q.c3 * q.c1
      if disc < 0 then []
      else
        let r : Int := Nat.sqrt disc.toNat
        [Int.fdiv (-q.c2 - r) (3 * q.c3), Int.fdiv (-q.c2 + r) (3 * q.c3)]
  sortBy (fun a b => decide (a ≤ b)) ((roots.flatMap (fun r => [r - 1, r, r + 1, r + 2])).filter
    (fun u => decide (lo < u) && decide (u < hi))) ++ [hi]

/-- The least integer in (lo, hi] whose side differs from that of lo, on a monotone piece whose ends differ. -/
def bisect (r : CPoly) (side : Bool) : Nat → Int → Int → Int
  | 0, _, hi => hi
  | n + 1, lo, hi =>
    if hi ≤ lo + 1 then hi
    else
      let m := (lo + hi) / 2
      if below r m = side then bisect r side n m hi else bisect r side n lo m

/-- The first change of side after `lo`, where the side is `side`, along the given break points. -/
def changeAlong (r : CPoly) (side : Bool) : Int → List Int → Option Int
  | _, [] => none
  | lo, h :: hs => if below r h = side then changeAlong r side h hs else some (bisect r side 64 lo h)

/-- R282: the first instant in (lo, hi] at which the side is no longer `side`. -/
def firstChange (r : CPoly) (lo hi : Int) (side : Bool) : Option Int :=
  if hi ≤ lo then none else changeAlong r side lo (breaks r lo hi)

/-- R282: the first crossing in (lo, hi] in an admitted direction: 0 either, 1 positive, 2 negative. -/
def nextCross (r : CPoly) (hi : Int) (dir : Nat) : Nat → Int → Bool → Option Int
  | 0, _, _ => none
  | n + 1, lo, side =>
    match firstChange r lo hi side with
    | none => none
    | some u => if dir = 0 ∨ (dir = 1) = side then some u else nextCross r hi dir n u (!side)

/-- The greatest value of a polynomial at the break points of an interval. -/
def polyMax (q : CPoly) (lo hi : Int) : Int := (breaks q lo hi).foldl (fun m u => max m (polyAt q u)) (polyAt q lo)

/-! ### The windows of a slot (R279, R280) -/

/-- R57, R279: the slot's last outer sample. -/
def lastSample (s : State) (n : Fin 32) : Option T64 :=
  match s.axis.slots[n].bind with
  | some b => s.axis.slots[n].outSched.next.map (fun t => t - BitVec.ofNat 64 (outPeriod b))
  | none => none

/-- R279: the start of the window of an outer sample. -/
def windowStart (b : Binding) (ts : T64) : T64 := ts + BitVec.ofNat 64 b.outOffset

/-- R280: the window of a sample. The measured position of a slot without feedback is nowhere given: a free value. -/
def windowAt (n : Fin 32) (b : Binding) (measured : Bool) (ts : T64) (s : State) : Window × State :=
  let sl := s.axis.slots[n]
  let (m, s) : Int × State := if measured && b.fbSource == 0 then
      (let (x, s) := takeFree s
       (sext 48 x, s))
    else (p48 sl.fb.meas, s)
  let c : Cubic := if measured then { t0 := ts, p := m * 2 ^ 32, v := sl.fb.v * 2 ^ 32, a := sl.cubic.a, j := sl.cubic.j }
    else { sl.cubic with t0 := windowStart b ts }
  ({ from_ := windowStart b ts, len := outPeriod b, cubic := c, coast := measured && sl.out.plaus.coasting }, s)

/-- R280: whether the cubic of a sample can be formed: a measured one needs the sample's feedback input, and a command that
waits for a measurement of the sample is not there before it. -/
def windowReady (s : State) (n : Fin 32) (b : Binding) (measured : Bool) (ts : T64) : Bool :=
  let sl := s.axis.slots[n]
  sl.outSched.forming.map (fun j => j.ts.t) != some ts
    || ((!measured || b.fbSource == 0) && sl.entry == .none && sl.waitMaster.isNone)

/-- The D0 instant of an instant of a slot's domain. -/
def slotD0 (s : State) (n : Fin 32) (t : T64) : Int := toD0 s ⟨slotDom s n, t⟩

/-- R97: the descriptors that a test picks and that take effect at an update point, by acceptance. -/
def readyAt (s : State) (at' : Int) (p : InFlight → Bool) : List InFlight :=
  s.host.flight.filter (fun f => updateReadyAt s at' f && p f)

end Sys2Proof.Machine
end

