-- ==== Sys2Proof/Machine/Pins.lean ====
section
/-!
DEFINITION. Time pins and latch units (R276–R278, R289–R292).
-/

namespace Sys2Proof.Machine

/-! ### Latch units (R289–R292) -/

/-- R292: the record of a trigger: the unit's registers, LATCH_TAKEN and the re-reference. `raw`: C + f at the trigger, where the
slot's position has one. -/
def latchRecord (u : Fin 16) (a : LatArm) (t : Stamp) (merged : Bool) (pos : P48) (raw : Int) (s : State) : State :=
  let n := a.slot
  let st := restamp s a.dom t
  let s := modLat s u (fun l => { l with
    taken := l.taken + 1, pos := pos, stamp := st.t, source := a.source, reref := a.reref, slot := n, dom := domCode st.dom })
  let s := if a.reref then recordReref n 2 (restamp s (slotDom s n) t).t raw (p48 a.value) s else s
  emit { source := 112, sev := .note, idx := u, stamp := some st
         payload := b1 u ++ b1 (ofMask [merged, a.reref]) ++ b1 n ++ leBytes 6 pos.toNat } s

/-- R292: what is left of an arming that has taken a trigger: nothing of one in single mode, and of a continuous one nothing after
`count` triggers. -/
def armLeft (a : LatArm) : Option LatArm :=
  let a := { a with taken := a.taken + 1 }
  if !a.continuous || (a.count != 0 && decide (a.count ≤ a.taken)) then none else some a

/-- R291, R292: an arming of a unit takes a trigger. -/
def latchTake (u : Fin 16) (a : LatArm) (t : Stamp) (d0 : Nat) (merged : Bool) (s : State) : State :=
  let n := a.slot
  match s.axis.slots[n].bind with
  | none => s
  | some b =>
    match portOf b.fbSource with
    | some p =>
      let raw := portRaw s p d0
      let ref := refOf s.axis.slots[n].fb raw
      latchRecord u a t merged (BitVec.ofInt 48 (ref + pecPure s n ref)) raw s
    | none =>
      if b.fbSource = 0 then
        let (x, s) := takeFree s
        latchRecord u a t merged (BitVec.ofNat 48 x) (sext 48 x + s.axis.slots[n].fb.o) s
      else
        { s with pins := { s.pins with waits := s.pins.waits ++
            [{ unit := u, arm := a, t := (restamp s (slotDom s n) t).t, d0 := d0, merged := merged }] } }

/-- R292: the replaced armings of a unit after the one at a place in the list has taken a trigger. -/
def oldLeft (l : List (LatArm × Nat)) (i : Nat) : List (LatArm × Nat) :=
  match l[i]? with
  | some (a, t) => l.take i ++ ((armLeft a).toList.map (fun x => (x, t))) ++ l.drop (i + 1)
  | none => l

/-- R22, R289, R290, R292: a trigger at a stamp goes to every unit in service whose arming at that stamp names it. -/
def latchTrigger (source index : Nat) (edgeFits : Nat → Bool) (t : Stamp) (merged : Bool) (s : State) : State :=
  let d0 := (toD0 s t).toNat
  (List.finRange 16).foldl (fun s (u : Fin 16) =>
    let l := s.pins.lat[u]
    let fits (a : LatArm) : Bool := a.source == source && a.index == index && edgeFits a.edge && decide (a.since ≤ d0)
    if isolated s (.latch u) then s
    else match l.arm.filter fits, l.old.findIdx? (fun x => fits x.1 && decide (d0 < x.2)) with
    | some a, _ => latchTake u a t d0 merged (modLat s u (fun l => { l with arm := armLeft a }))
    | none, some i => match l.old[i]? with
      | some (a, _) => latchTake u a t d0 merged (modLat s u (fun l => { l with old := oldLeft l.old i }))
      | none => s
    | none, none => s) s

/-- R291: the position of an endpoint-fed slot at a trigger, between the outer samples on either side of it. -/
def between (f : FbSt) (t : T64) (s : State) : P48 × State :=
  match f.rawBefore, f.raw with
  | some (t0, p0, _), some (t1, p1, _) =>
    let len := diff64 t1 t0
    let x := p48 p0 + roundDiv (wrapS 48 (p48 p1 - p48 p0) * diff64 t t0) (max 1 len).toNat
    (BitVec.ofInt 48 x, s)
  | _, _ =>
    let (x, s) := takeFree s
    (BitVec.ofNat 48 x, s)

/-- R262: C + f between the same two samples, before the pitch-error correction. -/
def rawBetween (f : FbSt) (t : T64) (pos : P48) : Int :=
  match f.rawBefore, f.raw with
  | some (t0, _, r0), some (t1, _, r1) => r0 + roundDiv (wrapS 48 (r1 - r0) * diff64 t t0) (max 1 (diff64 t1 t0)).toNat
  | _, _ => p48 pos + f.o

/-- R291: the waiting triggers of a slot whose later sample has been measured. -/
def formWaits (n : Fin 32) (s : State) : State :=
  let now : Option T64 := s.axis.slots[n].fb.raw.map (fun r => r.1)
  match now with
  | none => s
  | some t1 =>
    let ready (w : LatWait) : Bool := w.arm.slot == n && decide (0 ≤ diff64 t1 w.t)
    let due := s.pins.waits.filter ready
    let s := { s with pins := { s.pins with waits := s.pins.waits.filter (fun w => !ready w) } }
    due.foldl (fun s w =>
      let (pos, s) := between s.axis.slots[n].fb w.t s
      let f := s.axis.slots[n].fb
      latchRecord w.unit w.arm ⟨slotDom s n, w.t⟩ w.merged pos (rawBetween f w.t pos) s) s

/-- R289: the unit of a LATCH_ARM. -/
def latchT (f : InFlight) : Fin 16 := Fin.ofNat 16 f.target.idx

/-- R289: the arming that a LATCH_ARM spells. -/
def latArmOf (p : BitVec 384) (since : Nat) : LatArm :=
  { source := pU p 16 1, index := if pU p 16 1 = 1 ∨ pU p 16 1 = 2 then 0 else pU p 17 1, edge := pU p 18 1
    slot := Fin.ofNat 32 (pU p 19 1), continuous := pU p 20 1 == 1, reref := bit (pU p 21 1) 0, dom := domOf (pU p 22 1)
    count := pU p 24 4, value := BitVec.ofNat 48 (pU p 28 6), since := since }

/-- R289: the states that refuse a LATCH_ARM. -/
def latchState (f : InFlight) (s : State) : List Check :=
  let p := f.payload
  let a := latArmOf p 0
  if pU p 20 1 = 2 then []
  else
    [denied (s.axis.slots[a.slot].bind.isNone) 0x23,
      denied (a.source == 0 && pinMode s (Fin.ofNat 4 a.index) != 2) 0x22,
      denied (a.source == 1 && !regB s (portBase 0) 10) 0x24, denied (a.source == 2 && !regB s (portBase 1) 10) 0x24,
      denied (a.source == 3 && s.link.eps[Fin.ofNat 12 a.index].bind.isNone) 0x25]
    ++ (if a.source = 3 then
        (match linkRefusal (modLat s (latchT f) (fun l => { l with arm := some a })) (Fin.ofNat 12 a.index) with
          | some d => [denied true d]
          | none => [])
      else [])

/-- R289: the checks of LATCH_ARM. -/
def latchCheck (f : InFlight) (s : State) : Option (Nat × Int) :=
  let p := f.payload
  let src := pU p 16 1
  firstFail ([resv p 23 23, resv p 34 63, inval (decide (3 < src)) 16,
    inval ((src == 0 && decide (3 < pU p 17 1)) || (src == 3 && decide (11 < pU p 17 1))) 17,
    inval ((src == 0 && decide (2 < pU p 18 1)) || ((src == 1 || src == 2) && pU p 18 1 != 0)) 18,
    inval (decide (31 < pU p 19 1)) 19, inval (decide (2 < pU p 20 1)) 20,
    inval (decide (1 < pU p 21 1) || (bit (pU p 21 1) 0 && pU p 20 1 != 0)) 21, inval (decide (3 < pU p 22 1)) 22]
    ++ latchState f s)

/-- R289, R292: a LATCH_ARM takes effect at an update point of its unit. -/
def latchNow (f : InFlight) (at' : Nat) (s : State) : State :=
  let u := latchT f
  match firstFail (latchState f s) with
  | some (st, d) => complete f.id st 0 d none s
  | none =>
    let a := latArmOf f.payload at'
    -- R5, R292: no T32 reaches further back than 2^31 LSB
    let s := modLat s u (fun l => { l with
      old := l.arm.toList.map (fun x => (x, at')) ++ l.old.filter (fun x => decide (s.time.now < x.2 + 2 ^ 31)) })
    let s := modLat s u (fun l =>
      if pU f.payload 20 1 = 2 then { l with arm := none }
      else { l with arm := some a, source := a.source, reref := a.reref, slot := a.slot, dom := domCode a.dom })
    completeOk f.id (some ⟨.d0, BitVec.ofNat 64 at'⟩) s

/-- R290: LATCH_UPDATE_POINT: the last update point of a unit has come. -/
def latchUpdateEff (u : Fin 16) (s : State) : State :=
  let at' := s.time.now / 16000 * 16000
  takeAll (fun f s => latchNow f at' s) (readyAt s at' (fun f => f.opcode == 0x41 && latchT f == u)) s

/-! ### Input pins (R277, R278) -/

/-- R277: 40 ns. -/
def mergeLsb : Nat := 640

/-- R277: an edge is accepted at a D0 instant. -/
def acceptEdge (k : Fin 4) (level : Bool) (at' : Nat) (merged : Bool) (s : State) : State :=
  let s := modPin s k (fun p => { p with
    last := some at', lastLevel := level, merging := true, edges := p.edges + 1, stuck := false, stuckDone := false })
  let s := if quireWatches s then { s with quire := { s.quire with pinsSeen := (k.val, at') :: s.quire.pinsSeen } } else s
  latchTrigger 0 k (fun e => e == 2 || (e == 0) == level) ⟨.d0, BitVec.ofNat 64 at'⟩ merged (coarseEdge k level at' s)

/-- R277: TP_INPUT_EDGE: the level at a pin's ball changes. -/
def tpEdgeEff (k : Fin 4) (level : Bool) (s : State) : State :=
  let p := s.pins.pins[k]
  if p.level = level then s
  else
    let s := modPin s k (fun p => { p with level := level })
    if pinMode s k ≠ 2 then s
    else
      let early := match p.last with
        | some t => p.merging && decide (s.time.now < t + mergeLsb)
        | none => false
      if early then
        let s := modPin s k (fun p => { p with suppressed := p.suppressed + 1 })
        emitLim msLsb k (fun held => { source := 114, sev := .note, idx := k, payload := b1 k ++ cnt1 (held + 1) }) s
      else acceptEdge k level s.time.now false s

/-- R277: TP_MERGE_END: the 40 ns after an accepted edge have passed. -/
def tpMergeEndEff (k : Fin 4) (s : State) : State :=
  let p := s.pins.pins[k]
  match p.last with
  | some t =>
    if p.merging && decide (t + mergeLsb ≤ s.time.now) then
      let s := modPin s k (fun p => { p with merging := false })
      if pinMode s k = 2 ∧ p.level ≠ p.lastLevel then acceptEdge k p.level (t + mergeLsb) true s else s
    else s
  | none => s

/-- R278: PIN_STUCK: an input has held its stuck level. -/
def pinStuckEff (k : Fin 4) (s : State) : State :=
  let p := s.pins.pins[k]
  let us := regF s (pinBase k) 31 16
  match p.last with
  | some t =>
    if pinMode s k = 2 ∧ us ≠ 0 ∧ !p.stuckDone ∧ p.lastLevel = regB s (pinBase k) 3 ∧ p.level = p.lastLevel
        ∧ t + us * 100 * usLsb ≤ s.time.now then
      let s := modPin s k (fun p => { p with stuck := true, stuckDone := true })
      emit { source := 113, sev := .warning, idx := k, payload := b1 k ++ b1 (ofBool p.level) } s
    else s
  | none => s

/-- R276, R302: a write of TPk_CFG. -/
def tpCfgWrite (k : Fin 4) (value : Nat) (s : State) : State :=
  let old := reg s (pinBase k)
  let owned := s.pins.pins[k].owner.isSome
  let s := writeRw s (pinBase k) (if owned then putBits value 1 0 (bits old 1 0) else value)
  if pinMode s k = 1 ∧ !owned then idlePin k s else s

/-- R257, R289: ENC_Z_EDGE: a transition of a Z line. -/
def encZEff (p : Fin 2) (held : Nat) (s : State) : State :=
  let (s, z) := encZEdge p held s
  if z then latchTrigger (1 + p.val) 0 (fun _ => true) ⟨.d0, BitVec.ofNat 64 s.time.now⟩ false s else s

end Sys2Proof.Machine
end

