-- ==== Sys2Proof/Machine/Compare.lean ====
section
/-!
DEFINITION. Compare units (R283–R288).
-/

namespace Sys2Proof.Machine

/-- R283: the unit and the followed slot of a COMPARE_ARM. -/
def cmpT (f : InFlight) : Fin 16 := Fin.ofNat 16 f.target.idx
def cmpSlot (f : InFlight) : Fin 32 := Fin.ofNat 32 (pU f.payload 16 1)

/-- R283: the arming that a COMPARE_ARM spells. -/
def cmpArmOf (f : InFlight) : CmpArm :=
  let p := f.payload
  let fl := pU p 23 1
  { slot := cmpSlot f, measured := pU p 17 1 == 1, mode := pU p 18 1, dir := pU p 19 1
    outPin := if pU p 20 1 = 255 then none else some (Fin.ofNat 4 (pU p 20 1))
    outEp := if pU p 21 1 = 255 then none else some (Fin.ofNat 12 (pU p 21 1))
    action := pU p 22 1, lateFire := bit fl 0, record := bit fl 1, activeLow := bit fl 2, widthNs := pU p 24 2
    channel := BitVec.ofNat 8 (pU p 26 1), a := BitVec.ofNat 48 (pU p 28 6), b := BitVec.ofNat 48 (pU p 34 6)
    period := pU p 40 8, count := pU p 48 4, accepted := f.accStamp.t }

/-- R276, R283: the states that refuse a COMPARE_ARM. -/
def cmpState (f : InFlight) (s : State) : List Check :=
  let a := cmpArmOf f
  let u := cmpT f
  denied (s.axis.slots[a.slot].bind.isNone) 0x23
  :: (if a.mode = 3 then [] else
      (match a.outPin with
        | some k => pinClaims s (.compare u) k
        | none => [])
      ++ (match a.outEp with
        | some e => denied (s.link.eps[e].bind.isNone) 0x25
            :: (match linkRefusal (modCmp s u (fun c => { c with arm := some a })) e with
              | some d => [denied true d]
              | none => [])
        | none => []))

/-- R283: the checks of COMPARE_ARM. -/
def cmpCheck (f : InFlight) (s : State) : Option (Nat × Int) :=
  let p := f.payload
  let m := pU p 18 1
  let arms := m != 3
  let per := m == 2
  let act := m == 0 || per
  let pin := pU p 20 1
  let minNs : Nat := if pin < 4 then 10 * max 2 (regF s (pinBase pin) 11 4) else 0
  firstFail ([resv p 27 27, resv p 52 63, inval (decide (31 < pU p 16 1)) 16, inval (decide (1 < pU p 17 1)) 17,
    inval (decide (3 < m)) 18, inval ((act && decide (2 < pU p 19 1)) || (per && pU p 19 1 == 0)) 19,
    inval (arms && ((decide (3 < pin) && pin != 255) || (pin == 255 && pU p 21 1 == 255))) 20,
    inval (arms && decide (11 < pU p 21 1) && pU p 21 1 != 255) 21, inval (act && decide (3 < pU p 22 1)) 22,
    inval (decide (7 < pU p 23 1)) 23, inval (arms && (decide (pU p 24 2 < 20) || decide (pU p 24 2 < minNs))) 24,
    inval (per && (pU p 40 8 == 0 || decide (2 ^ 47 ≤ pU p 40 8))) 40] ++ cmpState f s)

/-! ### Fires -/

/-- R322, R323: the usable instant of the command signature for an apply instant, at the largest signature. -/
def epUsable (s : State) (e : Fin 12) (tApply : T64) : T64 :=
  let x := s.link.eps[e]
  tApply - BitVec.ofNat 64 ((x.bind.map (fun b => b.lead)).getD 0) + BitVec.ofNat 64 (cmdLen s e + setupLsb x.paper)

/-- R287, R325, R333: how many fires of a unit a window admits: 16, or 4 where its only output is an endpoint in cyclic
exchange, and none where that endpoint is absent. -/
def fireCap (s : State) (a : CmpArm) : Nat :=
  match a.outPin, a.outEp with
  | none, some e => if s.link.eps[e].state = .cyclic then 4 else 0
  | _, _ => 16

/-- R325, R333: the fires of a window that an endpoint output drops beside a pin. `n`: those queued before the window. -/
def trimItems (u : Fin 16) (a : CmpArm) (n : Nat) (s : State) : State × Nat :=
  match a.outEp with
  | none => (s, 0)
  | some e =>
    let cap := n + (if s.link.eps[e].state = .cyclic then 4 else 0)
    let m := s.pins.cmp[u].items.length
    (modCmp s u (fun c => { c with items := c.items.take cap }), m - cap)

/-- R284: an action at an instant: 0 pulse, 1 set active, 2 set inactive, 3 toggle. Answers the D0 instant of a late edge. -/
def cmpAct (u : Fin 16) (a : CmpArm) (act : Nat) (t : T64) (s : State) : State × Option Int :=
  let n := a.slot
  let d := slotDom s n
  let on := !a.activeLow
  let s := match a.outEp with
    | some e => modCmp s u (fun c => { c with items := c.items ++
        [{ ep := e, channel := a.channel, action := BitVec.ofNat 8 (act + 128 * ofBool a.activeLow), widthNs := a.widthNs, time := t, unit := u }] })
    | none => s
  let link : Option Int := match a.outEp, s.axis.slots[n].bind, lastSample s n with
    | some e, some b, some ts =>
      let x := epUsable s e (windowStart b ts)
      if diff64 t x < 0 then some (toD0 s ⟨d, x⟩) else none
    | _, _, _ => none
  match a.outPin with
  | none => (s, link)
  | some k =>
    let p := pinPlacer k
    let edge (t : T64) (level : Bool) : Edge := { target := t, dom := d, level := level, owner := .compare u }
    let level := if act = 2 then !on else if act = 3 then !finalLevel s p else on
    let (s, late, due) := queueEdge p (edge t level) false s
    let s := if act = 0 then putEdge p (edge (t + BitVec.ofNat 64 (a.widthNs * nsLsb)) (!on)) true s else s
    (s, if late then some due else link)

/-- R287, R288: one fire: the action, the counts and the record. `force`: the acceptance stamp of a late fire of R285. -/
def cmpFire (u : Fin 16) (a : CmpArm) (act idx : Nat) (t : T64) (jump coast : Bool) (force : Option T64) (s : State) : State :=
  let n := a.slot
  let (s, late) := cmpAct u a act t s
  let isLate := late.isSome || force.isSome
  let s := modCmp s u (fun c => { c with
    fires := c.fires + 1, last := round4 t, active := if act = 1 then true else if act = 2 then false else
      if act = 3 then !c.active else c.active })
  if a.record || isLate || jump || coast then
    let (x, s) := takeFree s
    let second : Nat := match late, force with
      | some d0, _ => (t32 (fromD0 s (slotDom s n) d0)).toNat
      | none, some t => (t32 t).toNat
      | none, none => x
    emit { source := 96 + u, sev := if isLate then .warning else .note, code := 1
           stamp := some (restamp s (slotDom s n) ⟨slotDom s n, round4 t⟩)
           payload := b1 1 ++ b1 (ofMask [isLate, jump, coast]) ++ leBytes 4 idx ++ leBytes 4 second } s
  else s

/-- R284: target `k` of a unit, 2^-16 counts. -/
def cmpTarget (a : CmpArm) (k : Nat) : Int := p48 a.a + (if a.mode = 2 then k * a.period else 0 : Nat)

/-- A fire found: instant from the window's start, index, jump. -/
abbrev Found := Int × Nat × Bool

/-- R284: the crossings of a single or periodic unit in a window, at most `n`, from target `k` on. `prev`: the end of the last
window, for the jump rule; `u`: where the search goes on. Answers the fires, the next target and where the search stands. -/
def cmpFinds (q : CPoly) (len : Int) (a : CmpArm) (prev : Option Int) : Nat → Nat → Int → List Found → List Found × Nat × Int
  | 0, k, u, acc => (acc, k, u)
  | n + 1, k, u, acc =>
    if (a.mode = 2 ∧ a.count ≠ 0 ∧ a.count ≤ k) ∨ (a.mode = 0 ∧ 1 ≤ k) then (acc, k, u)
    else
      let r := polyRel q (cmpTarget a k)
      let now := below r 0
      let was : Bool := match prev with
        | some x => decide (polyWrap (x - cmpTarget a k * polyUnit) < 0)
        | none => now
      if u = 0 ∧ was ≠ now ∧ (a.dir = 0 ∨ (a.dir = 1) = was) then
        let jump := match prev with
          | some x => decide (polyUnit < (polyWrap (x - q.c0)).natAbs)
          | none => false
        cmpFinds q len a prev n (k + 1) 0 (acc ++ [(0, k, jump)])
      else
        let lo := if u = 0 then 0 else u - 1
        match nextCross r len a.dir 4 lo (below r lo) with
        | some t => cmpFinds q len a prev n (k + 1) t (acc ++ [(t, k, false)])
        | none => (acc, k, u)

/-- R287: how many further fires a window holds after the last one admitted. -/
def cmpDropped (q : CPoly) (len : Int) (a : CmpArm) (prev : Option Int) (k : Nat) (u : Int) : Nat :=
  if a.mode = 2 ∧ a.dir = 1 then
    match cmpFinds q len a prev 1 k u [] with
    | (_ :: _, k', u') =>
      let top := polyMax q (max 0 (u' - 1)) len
      let m := (polyRel q (cmpTarget a k')).c0 + (top - q.c0)
      let more := if m < 0 then 0 else (Int.fdiv m (a.period * polyUnit)).toNat + 1
      1 + (if a.count = 0 then more else min more (a.count - k'))
    | _ => 0
  else (cmpFinds q len a prev 8 k u []).2.1 - k

/-- R284: whether a position of the polynomial lies inside the window of a window-mode unit. -/
def cmpInside (q : CPoly) (a : CmpArm) (u : Int) : Bool :=
  let m := 2 ^ 48 * polyUnit
  decide (Int.fmod (polyAt q u - p48 a.a * polyUnit) m < (p48 (a.b - a.a) % 2 ^ 48) * polyUnit)

/-- R284: the instants at which a window-mode unit is entered or left: instant, entered, jump. -/
def cmpEnters (q : CPoly) (len : Int) (a : CmpArm) : Nat → Int → Bool → List (Int × Bool × Bool) → List (Int × Bool × Bool)
  | 0, _, _, acc => acc
  | n + 1, u, inside, acc =>
    let change (target : P48) : Option Int := let r := polyRel q (p48 target); firstChange r u len (below r u)
    match bestBy (fun (x y : Int) => decide (x < y)) ((change a.a).toList ++ (change a.b).toList) with
    | none => acc
    | some t =>
      let i := cmpInside q a t
      if i = inside then cmpEnters q len a n t inside acc else cmpEnters q len a n t i (acc ++ [(t, i, false)])

/-- R276: the unit disarms. -/
def cmpDisarm (u : Fin 16) (s : State) : State :=
  let s := modCmp s u (fun c => { c with arm := none, fresh := false, window := none, lastX := none })
  (pinsOf s (.compare u)).foldl (fun s k => releasePin k s) s

/-- R287: the fires that a window drops. -/
def reportDropped (u : Fin 16) (n : Nat) (s : State) : State :=
  if n = 0 then s else emit { source := 96 + u, sev := .warning, code := 3, payload := b1 3 ++ cnt1 n } s

/-- R284, R285: the window of a unit. One that is armed late fires on the next crossing in d, the sign of the speed for dir 0. -/
def cmpSolve (u : Fin 16) (a : CmpArm) (b : Binding) (w : Window) (s : State) : State :=
  let c := s.pins.cmp[u]
  let q := windowPoly w
  let len : Int := w.len
  let at' (x : Int) : T64 := w.from_ + BitVec.ofInt 64 x
  let prev := if c.fresh then none else c.lastX
  let fin (s : State) : State := modCmp s u (fun c => { c with fresh := false, lastX := some (polyAt q len), window := some w })
  if a.mode = 1 then
    let i0 := cmpInside q a 0
    let jump := match prev with
      | some x => decide (polyUnit < (polyWrap (x - q.c0)).natAbs)
      | none => false
    let first := if i0 = c.active then [] else [((0 : Int), i0, jump)]
    let es := first ++ cmpEnters q len a 12 0 i0 []
    let cap := fireCap s a
    let s := (es.take cap).foldl (fun s (t, enter, j) =>
      cmpFire u a (if enter then 1 else 2) (ofBool (!enter)) (at' t) j w.coast none s) s
    let (s, cut) := trimItems u a c.items.length s
    fin (reportDropped u (es.length - cap + cut) s)
  else
    -- R285: a target that is behind at the start of the arming window
    let v0 := roundDiv q.c1 (256 * 6 * msLsb ^ 2)
    let d : Int := if a.dir = 1 then 1 else if a.dir = 2 then -1 else sgn v0
    let gap := (polyRel q (cmpTarget a 0)).c0
    let behind := c.fresh && decide (b.standstill * 2 ^ 32 < v0.natAbs) && decide (0 < gap * d)
    let late := behind && !a.lateFire
    let a := if late then { a with dir := if d = 1 then 1 else 2 } else a
    let s := if late then
        emit { source := 96 + u, sev := .warning, code := 2
               payload := b1 2 ++ leBytes 6 a.a.toNat ++ leBytes 6 (toW 48 (roundDiv q.c0 polyUnit.toNat)) }
          (modCmp s u (fun c => { c with lateArmed := true, arm := some a })) else s
    let cap := fireCap s a
    let force := behind && a.lateFire
    let s := if force && cap != 0 then cmpFire u a a.action 0 w.from_ false w.coast (some a.accepted) s else s
    let k0 := if force then 1 else c.k
    let left := if force then cap - 1 else cap
    let (found, k, t) := cmpFinds q len a prev left k0 0 []
    let s := found.foldl (fun s (t, i, j) => cmpFire u a a.action i (at' t) j w.coast none s) s
    let full := found.length = left
    let more := if full then cmpDropped q len a prev k t else 0
    let (s, cut) := trimItems u a c.items.length s
    let s := reportDropped u (more + cut + (if force && cap == 0 then 1 else 0)) s
    let k := k + more
    let s := fin (modCmp s u (fun c => { c with k := k, lateArmed := c.lateArmed && found.isEmpty }))
    if (a.mode = 0 ∧ 1 ≤ k) ∨ (a.mode = 2 ∧ a.count ≠ 0 ∧ a.count ≤ k) then cmpDisarm u s else s

/-- R22, R279: COMPARE_WINDOW: the cubic of a new window is there, and the unit's fires in it are solved. -/
def compareWindowEff (u : Fin 16) (s : State) : State :=
  let c := s.pins.cmp[u]
  match c.arm with
  | none => s
  | some a =>
    match s.axis.slots[a.slot].bind, lastSample s a.slot with
    | some b, some ts =>
      let done := match c.window with
        | some w => w.from_ == windowStart b ts
        | none => false
      if done || isolated s (.compare u) || !windowReady s a.slot b a.measured ts then s
      else
        let (w, s) := windowAt a.slot b a.measured ts s
        cmpSolve u a b w s
    | _, _ => s

/-! ### Arming (R283, R286) -/

/-- R286: what the old arming placed from an instant on is withdrawn, and its window-mode output goes inactive there. -/
def cmpWithdraw (u : Fin 16) (dom : Dom) (t : T64) (s : State) : State :=
  let c := s.pins.cmp[u]
  match c.arm with
  | none => s
  | some a =>
    let d0 := toD0 s ⟨dom, t⟩
    let pulse := a.mode != 1 && a.action == 0
    let s := modCmp s u (fun c => { c with items := c.items.filter (fun i => decide (toD0 s ⟨slotDom s a.slot, i.time⟩ < d0)) })
    let s := match a.outPin with
      | some k => withdrawPin k (.compare u) (!a.activeLow) pulse d0 s
      | none => s
    if a.mode = 1 ∧ c.active then
      (cmpAct u a 2 (restamp s (slotDom s a.slot) ⟨dom, t⟩).t (modCmp s u (fun c => { c with active := false }))).1
    else s

/-- R283, R286: a COMPARE_ARM takes effect at the start of the window of a sample. -/
def cmpNow (f : InFlight) (n : Fin 32) (b : Binding) (ts : T64) (s : State) : State :=
  let u := cmpT f
  match firstFail (cmpState f s) with
  | some (st, d) => complete f.id st 0 d none s
  | none =>
    let a := cmpArmOf f
    let t := windowStart b ts
    let s := cmpWithdraw u b.dom t s
    let keep : List (Fin 4) := if a.mode = 3 then [] else a.outPin.toList
    let s := modCmp s u (fun c => { c with
      arm := if a.mode = 3 then none else some a, mode := a.mode, slot := n, k := 0, fresh := true, lateArmed := false
      active := false, lastX := none, window := none })
    let s := (pinsOf s (.compare u)).foldl (fun s k => if keep.contains k then s else releasePin k s) s
    let s := keep.foldl (fun s k => claimPin (.compare u) k s) s
    completeOk f.id (some ⟨b.dom, t⟩) s

/-- R279, R89: the COMPARE_ARMs that follow a slot and take effect at its outer sample. -/
def armCompares (n : Fin 32) (b : Binding) (ts : T64) (s : State) : State :=
  takeAll (fun f s => cmpNow f n b ts s) (readyAt s (slotD0 s n ts) (fun f => f.opcode == 0x40 && cmpSlot f == n)) s

end Sys2Proof.Machine
end

