-- ==== Sys2Proof/Machine/Lattice.lean ====
section
/-!
DEFINITION. Fire lattices (R293–R301).
-/

namespace Sys2Proof.Machine

/-- R294, R300: the lattice of a descriptor. -/
def ltcT (f : InFlight) : Fin 4 := Fin.ofNat 4 f.target.idx

/-- R294: the configuration that a LATTICE_LOAD spells. -/
def ltcCfgOf (p : BitVec 384) : LtcCfg :=
  { slot := Fin.ofNat 32 (pU p 16 1), measured := pU p 17 1 == 1, pins := BitVec.ofNat 4 (pU p 18 1)
    activeLow := bit (pU p 19 1) 0, eps := BitVec.ofNat 12 (pU p 20 2), widthNs := pU p 22 2, pitch := pU p 24 4
    start := BitVec.ofNat 48 (pU p 28 6), stop := BitVec.ofNat 48 (pU p 34 6), dots := 0, minSpacing := pU p 40 2
    ofsFwd := pS p 44 4, ofsRev := pS p 48 4, tFlight := pU p 52 4 }

/-- R295: the length of a grid and the number of its dots. -/
def gridLen (c : LtcCfg) : Int := p48 (c.stop - c.start)
def gridDots (c : LtcCfg) : Nat := (gridLen c).toNat / max 1 c.pitch + 1

/-- The direct pins of a lattice, and its outputs in the numbering of R295. -/
def ltcPins (c : LtcCfg) : List (Fin 4) := (List.finRange 4).filter (fun k => c.pins.getLsbD k.val)
def ltcOuts (c : LtcCfg) : List (Fin 16) :=
  (ltcPins c).map (fun k => Fin.ofNat 16 k.val) ++ (ltcEps c).map (fun e => Fin.ofNat 16 (4 + e.val))

/-- R146: how much a lattice's job misses the admission test by, in LSB, and whether the sum of loads does. -/
def ltcAdmit (s : State) (n : Fin 4) (c : LtcCfg) (b : Binding) : Option Int :=
  if ltcShort s c b ≠ 0 then some (shortDetail (ltcShort s c b))
  else if 6 * 128 * cadence
      < loadOf s (enabledJobs (modLtc s n (fun l => { l with cfg := none })) none ++ [([(0x28 : Byte)], outPeriod b)]) then
    some (shortDetail 0)
  else none

/-- R294: the states that refuse a LATTICE_LOAD. -/
def ltcLoadState (f : InFlight) (s : State) : List Check :=
  let n := ltcT f
  let c := ltcCfgOf f.payload
  let l := s.pins.ltc[n]
  [denied (l.state != .unloaded && l.state != .idle) 0x20, denied (s.axis.slots[c.slot].bind.isNone) 0x23]
  ++ (ltcPins c).flatMap (fun k => pinClaims s (.lattice n) k)
  ++ (ltcEps c).map (fun e => denied (s.link.eps[e].bind.isNone) 0x25)
  ++ (let s' := modLtc s n (fun l => { l with cfg := some c })
      (ltcEps c).filterMap (fun e => (linkRefusal s' e).map (fun d => denied true d)))
  ++ (let short := leaseShort s (.lattice n) [0x28]
      [(short != 0, stLease, (short : Int))])
  ++ (match s.axis.slots[c.slot].bind with
    | some b => (match ltcAdmit s n c b with
      | some d => [denied true d]
      | none => [])
    | none => [])

/-- R294: the checks of LATTICE_LOAD. -/
def ltcLoadCheck (f : InFlight) (s : State) : Option (Nat × Int) :=
  let p := f.payload
  let c := ltcCfgOf p
  let narrow := (ltcPins c).any (fun k => decide (c.widthNs < 10 * max 2 (regF s (pinBase k) 11 4)))
  let per : Nat := (s.axis.slots[c.slot].bind.map outPeriod).getD 0
  firstFail ([resv p 42 43, resv p 56 63, inval (decide (31 < pU p 16 1)) 16, inval (decide (1 < pU p 17 1)) 17,
    inval (decide (15 < pU p 18 1) || (pU p 18 1 == 0 && pU p 20 2 == 0)) 18, inval (decide (1 < pU p 19 1)) 19,
    inval (decide (4095 < pU p 20 2) || decide (8 < (ltcEps c).length)) 20,
    inval (decide (c.widthNs < 20) || decide (2000 < c.widthNs) || narrow) 22, inval (decide (c.pitch < 65536)) 24,
    inval (decide (gridLen c < 0)) 34, inval (decide (2 ^ 20 < gridDots c)) 24,
    inval (decide (32 * cadence < per)) 16,
    inval (decide (c.minSpacing < 5000) || decide (14 * c.minSpacing * nsLsb < per)) 40,
    inval (decide (16000000 < c.tFlight)) 52] ++ ltcLoadState f s)

/-- R294: a LATTICE_LOAD takes effect. -/
def ltcLoadNow (f : InFlight) (at' : Stamp) (s : State) : State :=
  let n := ltcT f
  match firstFail (ltcLoadState f s) with
  | some (st, d) => complete f.id st 0 d none s
  | none =>
    let c := ltcCfgOf f.payload
    let c := { c with dots := gridDots c }
    let s := (pinsOf s (.lattice n)).foldl (fun s k => if (ltcPins c).contains k then s else releasePin k s) s
    let s := (ltcPins c).foldl (fun s k => claimPin (.lattice n) k s) s
    completeOk f.id (some at') (modLtc s n (fun l => { l with
      state := .idle, cfg := some c, poly := none, lastPoly := none, coast := false, sched := {} }))

/-- R300: the states that refuse a LATTICE_RUN. -/
def ltcRunState (f : InFlight) (s : State) : List Check :=
  let l := s.pins.ltc[ltcT f]
  match pU f.payload 16 1 with
  | 0 => [denied (l.state == .unloaded) 0x21, denied (l.state != .idle) 0x20]
  | 1 => [denied (l.state == .unloaded) 0x21]
  | _ => [denied (l.state != .idle) 0x20]

/-- R300: the checks of LATTICE_RUN. -/
def ltcRunCheck (f : InFlight) (s : State) : Option (Nat × Int) :=
  let p := f.payload
  let run := pU p 16 1 == 0
  let over' := match s.pins.ltc[ltcT f].cfg with
    | some c => decide (c.dots ≤ pU p 24 4)
    | none => false
  firstFail ([resv p 18 19, resv p 28 63, inval (decide (2 < pU p 16 1)) 16,
    inval (run && (pU p 17 1 == 0 || decide (3 < pU p 17 1))) 17, inval (run && decide (pU p 24 4 < pU p 20 4)) 20,
    inval (run && over') 24] ++ ltcRunState f s)

/-- R300: the pass direction is known: PASS_START and the first dots. -/
def startPass (n : Fin 4) (neg : Bool) (s : State) : State :=
  let l := s.pins.ltc[n]
  let used := match l.cfg with
    | some c => ltcOuts c
    | none => []
  let s := modLtc s n (fun l => { l with
    neg := neg, undecided := false
    outs := Vector.ofFn (fun j : Fin 16 =>
      { (l.outs[j]) with next := if used.contains j then some (if neg then l.last else l.first) else none
                         lastFire := none, items := [], prov := [], base := none }) })
  emit (ltcHap n .note 0x01 (b1 (if neg then 2 else 1) ++ leBytes 4 l.first ++ leBytes 4 l.last)) s

/-- R300: a LATTICE_RUN takes effect at the start of the window of a sample. -/
def ltcRunNow (f : InFlight) (at' : Stamp) (s : State) : State :=
  let n := ltcT f
  let p := f.payload
  match firstFail (ltcRunState f s) with
  | some (st, d) => complete f.id st 0 d none s
  | none =>
    match pU p 16 1 with
    | 0 =>
      let s := modLtc s n (fun l => { l with
        state := .armed, undecided := pU p 17 1 == 3, first := pU p 20 4, last := pU p 24 4, tag := f.tag
        sq := (match f.src with | .sq k => k.val | _ => 0), fresh := true, passEnd := false, poly := none, lastPoly := none
        passFired := 0, passShifted := 0, passSkipped := 0, orphan := false, sched := {} })
      let s := if pU p 17 1 = 3 then s else startPass n (pU p 17 1 == 2) s
      completeOk f.id (some at') s
    | 1 => completeOk f.id (some at') (ltcDisarm n 3 (toD0 s at') s)
    | _ =>
      let s := (pinsOf s (.lattice n)).foldl (fun s k => releasePin k s) s
      completeOk f.id (some at') (modLtc s n (fun l => { l with state := .unloaded, cfg := none }))

/-- The slot whose samples are the update points of a lattice's descriptor. -/
def ltcSlot (s : State) (f : InFlight) : Option (Fin 32) :=
  if f.opcode = 0x42 then some (ltcCfgOf f.payload).slot else s.pins.ltc[ltcT f].cfg.map (fun c => c.slot)

/-- R89, R279: a lattice's descriptor takes effect at an outer sample of the slot. -/
def ltcNow (f : InFlight) (b : Binding) (ts : T64) (s : State) : State :=
  let at' : Stamp := ⟨b.dom, windowStart b ts⟩
  if f.opcode = 0x42 then ltcLoadNow f at' s else ltcRunNow f at' s

/-- R89, R279: the LATTICE_LOADs and LATTICE_RUNs that take effect at an outer sample of a slot. -/
def takeLattices (n : Fin 32) (b : Binding) (ts : T64) (s : State) : State :=
  takeAll (fun f s => if ltcSlot s f = some n ∨ ltcSlot s f = none then ltcNow f b ts s else s)
    (readyAt s (slotD0 s n ts) (fun f => f.opcode == 0x42 || f.opcode == 0x43)) s

/-! ### The leaf (R293, R152) -/

/-- R293: what the LATTICE leaf commits for a sample: the window's polynomial. -/
def latticeLaw (n : Fin 4) (ts : T64) (s : State) : State :=
  match s.pins.ltc[n].cfg with
  | none => s
  | some c =>
    match s.axis.slots[c.slot].bind with
    | none => s
    | some b =>
      let (w, s) := windowAt c.slot b c.measured ts s
      modLtc s n (fun l => { l with poly := some w, coast := w.coast })

/-- R152: after an overrun the last polynomial is extended over the window of the sample. -/
def latticeHold (n : Fin 4) (ts : T64) (s : State) : State :=
  match s.pins.ltc[n].cfg with
  | none => s
  | some c =>
    match s.axis.slots[c.slot].bind with
    | none => s
    | some b => modLtc s n (fun l => { l with poly := l.lastPoly.map (fun w => { w with from_ := windowStart b ts }) })

/-! ### Fires (R295–R298) -/

/-- R295: the landing target of a dot at an output, 2^-16 counts. -/
def dotTarget (s : State) (n : Fin 4) (c : LtcCfg) (neg : Bool) (j : Fin 16) (k : Nat) : Int :=
  p48 c.start + k * c.pitch + (if neg then c.ofsRev else c.ofsFwd) + sext 32 (reg s (ltcBase n + 0x40 + 4 * j))

/-- R296: the landing polynomial relative to a target, turned so that a crossing in the pass direction is positive. -/
def dotRel (q : CPoly) (neg : Bool) (target : Int) : CPoly :=
  let r := polyRel q target
  if neg then ⟨-r.c0 - 1, -r.c1, -r.c2, -r.c3⟩ else r

/-- R296: the dot after a dot; none after the last of the pass. -/
def nextDot (l : Lattice) (k : Nat) : Option Nat :=
  if l.neg then (if k ≤ l.first then none else some (k - 1)) else if l.last ≤ k then none else some (k + 1)

/-- R297: dots skipped at an output: counted, and reported at most once a millisecond per lattice. -/
def skipDots (n : Fin 4) (j : Fin 16) (k reason count : Nat) (s : State) : State :=
  if count = 0 then s
  else
    let s := modLtc s n (fun l => { l with
      state := .firing, skipped := l.skipped + BitVec.ofNat 32 count, passSkipped := l.passSkipped + count })
    let key := 0x300
    let s := emitLim msLsb key (fun held =>
      ltcHap n .warning 0x03 (b1 j ++ leBytes 3 k ++ b1 reason ++ cnt1 held)) s
    { s with fault := { s.fault with limits := s.fault.limits.map (fun r =>
        if r.source = 120 + n.val ∧ r.index = key then { r with held := r.held + (count - 1) } else r) } }

/-- R297: how many dots from `k` on the landing position has passed, at most to the end of the pass. -/
def dotsPast (l : Lattice) (c : LtcCfg) (r : CPoly) (k : Nat) : Nat :=
  if r.c0 < 0 then 0
  else min ((Int.fdiv r.c0 (c.pitch * polyUnit)).toNat + 1) (if l.neg then k - l.first + 1 else l.last - k + 1)

/-- The dot `m` places after `k` in the pass direction. -/
def stepDot (l : Lattice) (k m : Nat) : Option Nat :=
  if l.neg then (if k < l.first + m then none else some (k - m)) else if l.last < k + m then none else some (k + m)

/-- What an output has reached, changed. -/
def modOut (n : Fin 4) (j : Fin 16) (f : LtcOut → LtcOut) (s : State) : State :=
  modLtc s n (fun l => { l with outs := upd l.outs j f })

/-- R299: an item of an output's fire list: at most 15 for the window. -/
def listItem (n : Fin 4) (j : Fin 16) (k : Nat) (t : T64) (shifted skipped : Bool) (s : State) : State :=
  modOut n j (fun o => if o.items.length < 15 then { o with items := o.items ++ [(k, t, shifted, skipped)] } else o) s

/-- R298, R297, R333: a dot is fired at an instant, or skipped where its edge cannot enter the placer in time or its endpoint
is absent. -/
def fireDot (n : Fin 4) (c : LtcCfg) (j : Fin 16) (k : Nat) (t : T64) (shifted : Bool) (s : State) : State :=
  let dom := slotDom s c.slot
  let direct := j.val < 4
  let absent := !direct && s.link.eps[Fin.ofNat 12 (j.val - 4)].state != .cyclic
  let lead : Edge := { target := t, dom := dom, level := !c.activeLow, owner := .lattice n }
  if absent then skipDots n j k 5 1 s
  else if direct && decide (edgeD0 s lead - s.time.now < lateLsb) then
    listItem n j k t false true (skipDots n j k 3 1 s)
  else
    let s := if direct then
        let p := pinPlacer (Fin.ofNat 4 j.val)
        putEdge p { lead with target := t + BitVec.ofNat 64 (c.widthNs * nsLsb), level := c.activeLow } true (putEdge p lead true s)
      else s
    let s := listItem n j k t shifted false (modOut n j (fun o => { o with lastFire := some t }) s)
    let s := modLtc s n (fun l => { l with
      state := .firing, fired := l.fired + 1, passFired := l.passFired + 1
      shifted := if shifted then l.shifted + 1 else l.shifted
      passShifted := if shifted then l.passShifted + 1 else l.passShifted })
    if shifted then
      emitLim msLsb 0x400 (fun held => ltcHap n .note 0x04 (b1 j ++ leBytes 3 k ++ cnt1 held)) s
    else s

/-- R297: least time between fires, LSB. -/
def spacing (c : LtcCfg) : Int := c.minSpacing * nsLsb

/-- R296, R297: the dots of an output from `u` on, by their roots. -/
def rootDots (n : Fin 4) (c : LtcCfg) (w : Window) (q : CPoly) (j : Fin 16) : Nat → Int → State → State
  | 0, _, s => s
  | fuel + 1, u, s =>
    let l := s.pins.ltc[n]
    match l.outs[j].next with
    | none => s
    | some k =>
      let r := dotRel q l.neg (dotTarget s n c l.neg j k)
      let lo := if u = 0 then 0 else u - 1
      match nextCross r w.len 1 4 lo (below r lo) with
      | none => s
      | some t =>
        let at' := w.from_ + BitVec.ofInt 64 t
        let early := (l.outs[j].lastFire.map (fun x => decide (diff64 at' x < spacing c))).getD false
        let s := if early then listItem n j k at' false true (skipDots n j k 2 1 s) else fireDot n c j k at' false s
        rootDots n c w q j fuel t (modOut n j (fun o => { o with next := nextDot l k }) s)

/-- R297: the dots already passed at the start of a window: all skipped in the first window of a pass; later the first is
shifted and the others are skipped. -/
def startDots (n : Fin 4) (c : LtcCfg) (w : Window) (q : CPoly) (j : Fin 16) (s : State) : State :=
  let l := s.pins.ltc[n]
  match l.outs[j].next with
  | none => s
  | some k =>
    let r := dotRel q l.neg (dotTarget s n c l.neg j k)
    let m := dotsPast l c r k
    if m = 0 then s
    else
      let s := modOut n j (fun o => { o with next := stepDot l k m }) s
      if l.fresh then skipDots n j k 4 m s
      else
        let t := match l.outs[j].lastFire with
          | some x => laterT w.from_ (x + BitVec.ofInt 64 (spacing c))
          | none => w.from_
        let s := fireDot n c j k t true s
        let more := m - 1
        let s := skipDots n j ((stepDot l k 1).getD k) 1 more s
        (List.range (min more 15)).foldl (fun s i => match stepDot l k (1 + i) with
          | some x => listItem n j x w.from_ false true s
          | none => s) s

/-- R299: the provisional fires of the next window, from the polynomial extended by one period. -/
def provisional (s : State) (n : Fin 4) (c : LtcCfg) (w : Window) (q : CPoly) (j : Fin 16) :
    Nat → Option Nat → Int → List (Nat × T64) → List (Nat × T64)
  | 0, _, _, acc => acc
  | _, none, _, acc => acc
  | fuel + 1, some k, u, acc =>
    let l := s.pins.ltc[n]
    let r := dotRel q l.neg (dotTarget s n c l.neg j k)
    match nextCross r (2 * w.len) 1 4 (u - 1) (below r (u - 1)) with
    | none => acc
    | some t => provisional s n c w q j fuel (nextDot l k) t (acc ++ [(k, w.from_ + BitVec.ofInt 64 t)])

/-- R296–R299: one output in a window. -/
def windowOut (n : Fin 4) (c : LtcCfg) (w : Window) (q : CPoly) (s : State) (j : Fin 16) : State :=
  let s := modOut n j (fun o => { o with items := [], prov := [], base := some w.from_ }) s
  let s := rootDots n c w q j 4096 0 (startDots n c w q j s)
  let prov := provisional s n c w q j 15 s.pins.ltc[n].outs[j].next (w.len + 1) []
  modOut n j (fun o => { o with prov := prov }) s

/-- R300: the pass ends when every output has dealt with its last dot. -/
def passDone (n : Fin 4) (s : State) : State :=
  let l := s.pins.ltc[n]
  if l.outs.toList.any (fun o => o.next.isSome) then s
  else
    let s := emit (ltcHap n .note 0x02 (l.tag :: b1 l.sq ++ leBytes 3 (min l.passFired 16777215)
      ++ leBytes 3 (min l.passShifted 16777215) ++ leBytes 3 (min l.passSkipped 16777215))) s
    let s := dropJobs (.lattice n) s
    modLtc s n (fun l => { l with
      state := .idle, passEnd := true, passes := l.passes + 1, orphan := false, sched := { l.sched with latch := [] } })

/-- R22, R296: LATTICE_WINDOW: the fires of a window are solved from the polynomial that the leaf committed. -/
def latticeWindowEff (n : Fin 4) (s : State) : State :=
  let l := s.pins.ltc[n]
  match l.cfg, l.poly with
  | some c, some w =>
    if !ltcArmed l || isolated s (.lattice n) then s
    else
      let s := modLtc s n (fun l => { l with poly := none, lastPoly := some w })
      let x := windowPoly w
      let v := roundDiv x.c1 (256 * 6 * msLsb ^ 2)
      let still : Nat := ((s.axis.slots[c.slot].bind.map (fun b => b.standstill)).getD 0) * 2 ^ 32
      if l.undecided && !decide (still < v.natAbs) then
        (ltcOuts c).foldl (fun s j => modOut n j (fun o => { o with items := [], prov := [], base := some w.from_ }) s) s
      else
        let s := if l.undecided then startPass n (decide (v < 0)) s else s
        let s := (ltcOuts c).foldl (windowOut n c w (landingPoly x c.tFlight)) s
        passDone n (modLtc s n (fun l => { l with fresh := false }))
  | _, _ => s

end Sys2Proof.Machine
end

