-- ==== Sys2Proof/Machine/Link.lean ====
section
/-!
DEFINITION. Signature links, endpoints and the identity bus (11), and what Firebreak sends on the links (R452–R454).
-/

namespace Sys2Proof.Machine

/-- An endpoint, a link, an identity record changed. -/
def modEp (s : State) (e : Fin 12) (f : Endpoint → Endpoint) : State :=
  { s with link := { s.link with eps := upd s.link.eps e f } }
def modLink (s : State) (k : Fin 4) (f : Link → Link) : State :=
  { s with link := { s.link with links := upd s.link.links k f } }
def modRec (s : State) (r : Fin 8) (f : IdRecord → IdRecord) : State :=
  { s with link := { s.link with recs := upd s.link.recs r f } }

/-- R22, R116, R306, R490: whether a link runs as a signature link. -/
def linkOn (s : State) (k : Fin 4) : Bool :=
  (regB s (linkBase k) 0 || (List.finRange 12).any (fun e => epLink e == k && parkEp s e)) && !(k == 3 && s.svc.strap)
    && !isolated s (.lanePair k)

/-- R347: a happening of an endpoint. -/
def epHap (e : Fin 12) (sev : Sev) (code : Nat) (rest : List Byte) : Hap :=
  { source := 128 + e, sev := sev, code := code, payload := b1 code ++ rest }

/-- R316, R331: whether the cyclic exchange of an endpoint has had its first good reply. -/
def epPresent (s : State) (e : Fin 12) : Bool := s.link.eps[e].state == .cyclic && !s.link.eps[e].arriving

/-! ### Check values (R319, R342) -/

/-- One byte of a CRC-16 without reflection. -/
def crcByte (poly c : Nat) (b : Byte) : Nat :=
  (List.range 8).foldl (fun c _ => if 32768 ≤ c then (2 * c - 65536) ^^^ poly else 2 * c) (c ^^^ (b.toNat * 256))

/-- A CRC-16 with initial value 0xFFFF and no final inversion. -/
def crc16 (poly : Nat) (bs : List Byte) : Nat := bs.foldl (crcByte poly) 0xFFFF

/-- R319: the CRC of a signature's command byte and data, as it is sent: high byte first (R307). -/
def sigCrc (bs : List Byte) : List Byte := (leBytes 2 (crc16 0x8BB7 bs)).reverse

/-- R342: why a record of 256 bytes is no valid Endpaper: 1 magic, 2 CRC, 3 version or kind. -/
def paperBad (p : List Byte) : Option Nat :=
  if leAt p 0 2 ≠ 0x4550 then some 1
  else if p.length ≠ 256 ∨ crc16 0x1021 (p.take 254) ≠ leAt p 254 2 then some 2
  else if byteAt p 2 ≠ 1 ∨ byteAt p 3 = 0 ∨ byteAt p 3 = 255 then some 3
  else none

/-- R341: whether a kind is passive. -/
def passive (k : Nat) : Bool := decide (0x10 ≤ k) && decide (k ≤ 0x12)

/-! ### The cycle of an endpoint (R314) -/

/-- R314: the cycle an endpoint runs: every 1 ms on D0 while no user is out of OFF. -/
def runPlan (s : State) (e : Fin 12) : Plan :=
  if (epPlans s e false).isEmpty then ⟨.d0, msLsb, 0, msLsb / 2⟩ else epCycle s e true

/-- The first instant of a plan's grid after a stamp. -/
def planNext (s : State) (p : Plan) (x : Stamp) : Stamp := ⟨p.dom, gridAt p.period p.phase ((restamp s p.dom x).t + 1)⟩

/-- R322, R26: the link lead of an endpoint. -/
def epLead (s : State) (e : Fin 12) : Nat := (s.link.eps[e].bind.map (fun b => b.lead)).getD 0

/-- R314: the sample instant of the next command signature of an endpoint: the one announced, or where its cycle has changed
since, the last instant of the new grid whose command signature leaves by now. -/
def cmdInstant (s : State) (e : Fin 12) : Option Stamp :=
  let p := runPlan s e
  s.link.eps[e].cmdT.map (fun x =>
    let now := domNow s p.dom
    if x.dom = p.dom ∧ gridAt p.period p.phase x.t = x.t ∧ diff64 x.t now ≤ p.period then x
    else ⟨p.dom, gridAt p.period p.phase (now - BitVec.ofNat 64 p.offset + BitVec.ofNat 64 (epLead s e) + 1)
      - BitVec.ofNat 64 p.period⟩)

/-- R322: the start of an endpoint's next reply window in D0, for the reply of an instant. -/
def replyStart (s : State) (e : Fin 12) (x : Stamp) : Int :=
  toD0 s x + ((s.link.eps[e].bind.map (fun b => b.rdelay)).getD 0 : Nat)

/-- R142: whether the reply of an instant has come or been declared missing. -/
def replyOver (s : State) (e : Fin 12) (x : Stamp) : Bool :=
  let ep := s.link.eps[e]
  ep.state != .cyclic || (match ep.cycleT with
    | none => true
    | some y => decide (toD0 s x < toD0 s y))

/-- R142: whether the data of an endpoint is that of an instant. -/
def replyFresh (s : State) (e : Fin 12) (x : Stamp) : Bool :=
  let ep := s.link.eps[e]
  ep.state == .cyclic && (match ep.sampleT with
    | some y => y == x || decide (toD0 s x = toD0 s y)
    | none => false)

/-! ### Command signatures (R315, R317, R324) -/

/-- R28, R317: the set-point that the command signature for an apply instant carries: the newest result waiting for it, or the
one applied last. -/
def outputFor (sc : SchedSt) (t : T64) : Option OutVal :=
  match bestBy (fun (a b : Latched) => decide (diff64 b.tApply.t a.tApply.t < 0))
      (sc.latch.filter (fun l => decide (0 ≤ diff64 t l.tApply.t))) with
  | some l => some l.val
  | none => sc.applied.head?

/-- A block: type, length, body. -/
def block (route : Nat) (ty : Nat) (body : List Byte) : List Byte := b1 (64 * route + ty) ++ b1 body.length ++ body

/-- R317: whether a slot's outputs are enabled. -/
def outputsOn (sl : Slot) : Bool := sl.mode != .off

/-- R317: en: bit 0 outputs enabled, bit 1 brake released, which follows it. -/
def enByte (sl : Slot) : Nat := if outputsOn sl then 3 else 0

/-- R244, R317: the body of STEPVEC: microstep position at t_apply, the increment from there on, and the amplitude. -/
def stepVec (s : State) (n : Fin 32) (a : Nat) (t : Stamp) : List Byte :=
  let sl := s.axis.slots[n]
  let at' := (toD0 s t).toNat
  let s' := { s with time := { s.time with now := max s.time.now at' } }
  let s' := match outputFor sl.outSched t.t with
    | some (.step x) => if outputsOn sl then applyStep n x s' else s'
    | some (.rate v) => if outputsOn sl then applyRate n v s' else s'
    | _ => s'
  let st := syncStep s'.time.now s'.axis.slots[n].step
  let held := match st.restSince, st.cfg with
    | some r, some c => decide (r + c.holdDelayMs * msLsb ≤ s'.time.now)
    | _, _ => false
  let amp : Int := match st.cfg with
    | some c =>
      let i := if held then c.holdCurrent else c.runCurrent
      match homeScale sl with
      | some k => roundDiv (i * k) 65536
      | none => i
    | none => 0
  b1 a ++ b1 (enByte sl) ++ leBytes 4 (toW 32 (carried st)) ++ leBytes 6 (toW 48 st.inc) ++ leBytes 2 (toW 16 amp)

/-- R317: the block of an axis for its slot. -/
def axisBlock (s : State) (route : Nat) (n : Fin 32) (a : Nat) (t : Stamp) : List (List Byte) :=
  let sl := s.axis.slots[n]
  match sl.bind with
  | none => []
  | some b =>
    let v := if outputsOn sl then outputFor sl.curSched t.t else none
    match b.kind with
    | .servo =>
      let park := b.leaves.contains 0x38
      let v := if park && outputsOn sl then outputFor sl.outSched t.t else v
      if (if park then parkMotor s n == 2 else b.curLeaf == 0x02) then
        let (x, y) := match v with
          | some (.duty2 x y) => (x, y)
          | _ => (0, 0)
        [block route 0x02 (b1 a ++ b1 (enByte sl) ++ leBytes 2 x ++ leBytes 2 y)]
      else
        let (x, y, z) := match v with
          | some (.duty3 x y z) => (x, y, z)
          | _ => (0, 0, 0)
        [block route 0x01 (b1 a ++ b1 (enByte sl) ++ leBytes 2 x ++ leBytes 2 y ++ leBytes 2 z)]
    | .step =>
      if (sl.step.cfg.map (fun c => c.endpoint)).getD false then [block route 0x03 (stepVec s n a t)] else []
    | _ => []

/-- R317: the OUTPUT blocks of the band slots that an endpoint drives. -/
def outputBlocks (s : State) (route : Nat) (e : Fin 12) (t : Stamp) : List (List Byte) :=
  (List.finRange 32).filterMap (fun n =>
    let sl := s.axis.slots[n]
    match sl.bind with
    | some b =>
      if b.kind = .band ∧ b.bandDst = 4 ∧ b.bandEp = e.val then
        let d := match (if outputsOn sl then outputFor sl.outSched t.t else none) with
          | some (.band f) => dutyOf f (2 ^ 23)
          | _ => 0
        some (block route 0x04 (b1 b.bandCh ++ b1 (ofBool (outputsOn sl)) ++ leBytes 2 d))
      else none
    | none => none)

/-- R288, R317: the EDGE items that wait for an endpoint. -/
def edgeItems (s : State) (e : Fin 12) : List EdgeItem :=
  (List.finRange 16).flatMap (fun u => s.pins.cmp[u].items.filter (fun i => i.ep == e))

/-- R317: an EDGE block. -/
def edgeBlock (route : Nat) (i : EdgeItem) : List Byte :=
  block route 0x05 (b1 i.channel.toNat ++ b1 i.action.toNat ++ leBytes 2 (min i.widthNs 65535) ++ leBytes 4 (t32 i.time).toNat)

/-- R299: the output of a lattice that an endpoint is. -/
def ltcOutOf (e : Fin 12) : Fin 16 := ⟨4 + e.val, by omega⟩

/-- R299: whether a lattice's fire list for an endpoint travels in the command signature for an apply instant. -/
def fireDue (s : State) (n : Fin 4) (e : Fin 12) (t : Stamp) : Bool :=
  let l := s.pins.ltc[n]
  (ltcArmed l || l.passEnd) && (match l.outs[ltcOutOf e].base with
    | some b => decide (0 ≤ diff64 t.t b)
    | none => false)

/-- R299: a fire list. -/
def fireList (s : State) (n : Fin 4) (e : Fin 12) : List Byte :=
  let l := s.pins.ltc[n]
  let o := l.outs[ltcOutOf e]
  let base := o.base.getD 0
  let final := if l.neg then l.first else l.last
  let first := match o.items, o.prov with
    | (k, _) :: _, _ => k
    | [], (k, _) :: _ => k
    | [], [] => o.next.getD 0
  let item (k : Nat) (t : T64) (sh sk : Bool) : List Byte :=
    leBytes 4 (packBits [(23, 0, (t - base).toNat % 2 ^ 24), (24, 24, ofBool sh), (25, 25, ofBool sk), (26, 26, ofBool (k == final))])
  leBytes 4 (t32 base).toNat
    ++ leBytes 4 (packBits [(19, 0, first), (20, 20, ofBool l.neg), (21, 21, ofBool l.passEnd), (23, 22, n), (27, 24, o.items.length),
      (31, 28, o.prov.length)])
    ++ o.items.flatMap (fun (k, t, sh, sk) => item k t sh sk) ++ o.prov.flatMap (fun (k, t) => item k t false false)

/-- R451, R453: the STO bits of an endpoint's axes; an axis without a slot keeps its torque removed. -/
def stoBits (s : State) (e : Fin 12) : Nat :=
  match s.link.eps[e].bind with
  | none => 3
  | some b =>
    let off (a : Option (Fin 32)) : Bool := match a.bind (groupOf s) with
      | some g => s.firebreak.groups[g].sto
      | none => true
    ofMask [off b.axis0, off b.axis1]

/-- R453: the STO block. -/
def stoBlock (s : State) (route : Nat) (e : Fin 12) : List Byte :=
  let x := stoBits s e
  block route 0x07 (b1 x ++ b1 (255 - x) ++ leBytes 2 s.firebreak.fseq.toNat)

/-- R329: the slots of an endpoint's axes. -/
def axisSlots (s : State) (e : Fin 12) : List (Nat × Fin 32) :=
  match s.link.eps[e].bind with
  | some b => (b.axis0.map (fun n => (0, n))).toList ++ (b.axis1.map (fun n => (1, n))).toList
  | none => []

/-- R317: every block of one endpoint, and STO in every command signature. -/
def epBlocks (s : State) (route : Nat) (e : Fin 12) (t : Stamp) : List (List Byte) :=
  (axisSlots s e).flatMap (fun (a, n) => axisBlock s route n a t) ++ outputBlocks s route e t
    ++ (edgeItems s e).map (edgeBlock route)
    ++ (List.finRange 4).filterMap (fun n => if fireDue s n e t then some (block route 0x06 (fireList s n e)) else none)
    ++ [stoBlock s route e]

/-- R503: en bit 1 of each axis as it is sent, and its changes counted. -/
def noteBrakes (e : Fin 12) (s : State) : State :=
  let now := (axisSlots s e).foldl (fun m (a, n) =>
    match s.axis.slots[n].bind with
    | some b => if (b.kind = .servo ∨ b.kind = .step) ∧ outputsOn s.axis.slots[n] then m ||| 2 ^ a else m
    | none => m) 0
  let was := s.link.eps[e].brake
  let s := (List.finRange 2).foldl (fun s (a : Fin 2) =>
    if was.getLsbD a.val != bit now a.val then
      { s with tally := { s.tally with brakes := upd s.tally.brakes ⟨2 * e.val + a.val, by omega⟩ (· + 1) } }
    else s) s
  modEp s e (fun x => { x with brake := BitVec.ofNat 2 now })

/-- R335, R337: a protected transfer whose response has been acknowledged completes. -/
def xferAcked (x : Xfer) (s : State) : State :=
  match flightOf s x.desc with
  | none => s
  | some f =>
    if x.status ≠ 0 then completeAs f 0x0084 0 x.status.toNat f.applied s.time.now s
    else if x.op = 2 then
      if !f.buf.ok then completeAs f stBufferDma 0 (min f.buf.data.length x.got.length : Nat) f.applied s.time.now s
      else completeAs f stOK x.got.length 0 f.applied s.time.now (hostWrite f x.bufAddr.toNat x.got s)
    else completeAs f stOK x.len 0 f.applied s.time.now s

/-- R327: the responses of an endpoint that a command signature acknowledges. -/
def ackSent (e : Fin 12) (s : State) : State :=
  if !s.link.eps[e].ack then s
  else
    let k := epLink e
    let done := s.link.links[k].queue.filter (fun x => x.ep == e && x.phase == 3)
    let s := modLink s k (fun l => { l with queue := l.queue.filter (fun x => !(x.ep == e && x.phase == 3)) })
    done.foldl (fun s x => xferAcked x s) (modEp s e (fun x => { x with ack := false }))

/-- R319, R324: the alive value of the next command signature: a group shares the sequence of its first member, which comes first. -/
def nextAlive (s : State) (e : Fin 12) : BitVec 4 :=
  match ((mates s e).filter (fun x => s.link.eps[x].state == .cyclic)).head? with
  | some h => if h = e then s.link.eps[e].aliveCmd + 1 else s.link.eps[h].aliveCmd
  | none => s.link.eps[e].aliveCmd + 1

/-- What has been sent to an endpoint is sent. -/
def cmdSent (e : Fin 12) (ts tn t : Stamp) (s : State) : State :=
  let alive := nextAlive s e
  let s := noteBrakes e s
  let s := (List.finRange 4).foldl (fun s (n : Fin 4) =>
    if fireDue s n e t then modOut n (ltcOutOf e) (fun o => { o with base := none }) s else s) s
  let s := { s with pins := { s.pins with cmp := s.pins.cmp.map (fun c => { c with items := c.items.filter (fun i => i.ep != e) }) } }
  let sto := stoBits s e != 0
  let sent := s.time.now + cmdLen s e
  let s := modEp s e (fun x => { x with
    aliveCmd := alive, cmdT := some tn
    cycleT := if x.cycleT = some ts then x.cycleT else some tn
    sto := sto
    stoSince := if sto then some (x.stoSince.getD sent) else none
    stoReported := sto && x.stoReported, stoFailed := sto && x.stoFailed })
  ackSent e s

/-- R315: CMD_SIGNATURE: at t_out a command signature leaves for the endpoints that share it. -/
def cmdSignatureEff (e : Fin 12) (s : State) : State :=
  let group := (mates s e).filter (fun x => s.link.eps[x].state == .cyclic)
  match cmdInstant s e with
  | none => s
  | some ts =>
    let p := runPlan s e
    let t : Stamp := ⟨ts.dom, ts.t + BitVec.ofNat 64 p.offset⟩
    let leave : Int := toD0 s t - (epLead s e : Nat)
    if !linkOn s (epLink e) || group.head? != some e || decide ((s.time.now : Int) < leave) then s
    else
      let tn := planNext s p ts
      let several := decide (1 < (mates s e).length)
      let blocks := group.flatMap (fun x => epBlocks s (if several then x.val % 3 + 1 else 0) x t)
      let ep := s.link.eps[e]
      let any (f : Endpoint → Bool) : Nat := ofBool (group.any (fun x => f s.link.eps[x]))
      let start := t.t - BitVec.ofNat 64 (epLead s e) + BitVec.ofNat 64 (linkClk s (epLink e))
      let body := b1 (packBits [(7, 4, ep.aliveCmd.toNat), (3, 3, any (fun x => x.nack)), (2, 2, any (fun x => x.ack))])
        ++ b1 blocks.length ++ leBytes 2 0 ++ leBytes 4 (t32 start).toNat ++ leBytes 4 (t32 t.t).toNat
        ++ leBytes 4 (t32 tn.t).toNat ++ blocks.flatten
      let s := { s with out := s.out ++ [.signature e (body ++ sigCrc (0xC1 :: body))] }
      group.foldl (fun s x => cmdSent x ts tn t s) s

/-! ### Reply signatures (R316, R318–R320) -/

/-- R317: the blocks of a reply, type and body; none where one runs past the end. -/
def replyBlocks : Nat → List Byte → Option (List (Nat × List Byte))
  | _, [] => some []
  | 0, _ => none
  | _ + 1, [_] => none
  | n + 1, ty :: len :: rest =>
    if rest.length < len.toNat then none
    else (replyBlocks n (rest.drop len.toNat)).map (fun bs => (ty.toNat, rest.take len.toNat) :: bs)

/-- The blocks of a whole reply. -/
def blocksOf (data : List Byte) : Option (List (Nat × List Byte)) :=
  replyBlocks data.length ((data.drop 8).take (data.length - 10))

/-- R319: why a reply is bad: 1 CRC, 2 length, 3 repeat, 4 t_sample; 0 good. -/
def replyCheck (s : State) (e : Fin 12) (data : List Byte) (ts : Stamp) : Nat :=
  let ep := s.link.eps[e]
  if data.length < 10 ∨ crc16 0x8BB7 (0xC2 :: data) ≠ 0 then 1
  else if data.length ≠ epReply s e ∨ (blocksOf data).isNone then 2
  else if ep.aliveReply = some (BitVec.ofNat 4 (byteAt data 0 / 16)) then 3
  else if leAt data 4 4 ≠ (t32 ts.t).toNat then 4
  else 0

/-- R290, R267: a T32 of a reply as a stamp. -/
def replyStamp (s : State) (d : Dom) (x : Nat) : Stamp := ⟨d, resolve32 (domNow s d) (BitVec.ofNat 32 x)⟩

/-- R267, R268: what a good reply brings a slot fed by an axis. -/
def feedSlot (e : Fin 12) (ts : Stamp) (blocks : List (Nat × List Byte)) (a : Nat) (n : Fin 32) (s : State) : State :=
  match s.axis.slots[n].bind.bind fbChannel with
  | none => s
  | some c =>
    let t := (restamp s (slotDom s n) ts).t
    let mine (x : Nat × List Byte) : Bool := byteAt x.2 0 == a && byteAt x.2 1 == c
    let s : State := match blocks.find? (fun x => (x.1 == 0x83 && decide (16 ≤ x.2.length) || x.1 == 0x84 && decide (8 ≤ x.2.length)) && mine x) with
      | some (0x83, bs) =>
        if bit (byteAt bs 14) 2 then
          let at' (o : Nat) : T64 := (restamp s (slotDom s n) (replyStamp s ts.dom (leAt bs o 4))).t
          remoteIncr n t (BitVec.ofNat 32 (leAt bs 2 4)) [(at' 6, bit (byteAt bs 14) 0), (at' 10, bit (byteAt bs 14) 1)] s
        else modFbk s n (fun f => { f with stale := true })
      | some (_, bs) =>
        let w := max 8 (min 32 (chanForm s.link.eps[e].paper a c).2)
        remoteAbs n t w (BitVec.ofNat 32 (leAt bs 4 4)) (bit (byteAt bs 2) 0) s
      | none => modFbk s n (fun f => { f with stale := true })
    if s.axis.slots[n].mode = .off then formWaits n (measureSlot n t s) else s

/-! ### Motor constants (R210, R340) -/

/-- R210: g and beta of a slot with flags bit 3, at the arrival of its endpoint. -/
def epModelEff (e : Fin 12) (a : Nat) (n : Fin 32) (s : State) : State :=
  match s.axis.slots[n].bind with
  | none => s
  | some b =>
    if !b.epModel then s
    else
      let m := motorBlock s e a
      let kt := single (leAt m 4 4)
      let j := single (leAt m 8 4)
      let bb := single (leAt m 12 4)
      let sc := single (leAt s.link.eps[e].paper 68 4)
      let p := s.axis.slots[n].out.plaus
      let set (g h : Option Int) (s : State) : State :=
        modSlot s n (fun sl => { sl with out := { sl.out with plaus := { sl.out.plaus with epG := g, epBeta := h } } })
      if j.1 = 0 then slotEv n .warning 0x05 (b1 3 ++ sgnBytes 3 p.rv ++ sgnBytes 3 p.rp) (set none none s)
      else if p.loadRatio = 0 then
        -- the manual gives no quotient for a load ratio of 0 (log 1)
        let (g, s) := takeFree s
        let (h, s) := takeFree s
        set (some (zigzag g)) (some (zigzag h)) s
      else
        let lr := p.loadRatio
        let g := scaleDiv (sgn j.1 * kt.1 * sc.1 * (p.countsRev * 2 ^ 16 * 2 ^ 63 * 2 ^ 80 : Nat))
          (twoPi80.toNat * j.1.natAbs * lr * 1000000) (kt.2 + sc.2 - j.2)
        let h := scaleDiv (sgn j.1 * bb.1 * (2 ^ 16 * 2 ^ 63 : Nat)) (j.1.natAbs * lr * 1000) (bb.2 - j.2)
        set (some g) (some h) s

/-! ### Tallies of a reply (R503) -/

/-- R503: the peak events of a slot's phase current. `i`: the largest of the phase currents, I16 units. -/
def tallyPeak (s : State) (e : Fin 12) (i : Nat) (t : SlotTally) : SlotTally :=
  let paper := s.link.eps[e].paper
  let sc := single (leAt paper 68 4)
  let num : Int := i * sc.1 * 1000
  let lim (k : Nat) : Int := (k * leAt paper 58 2 : Nat)
  let ge (k : Nat) : Bool := if 0 ≤ sc.2 then decide (lim k ≤ num * 2 ^ sc.2.toNat) else decide (lim k * 2 ^ (-sc.2).toNat ≤ num)
  let t := match t.peakSince with
    | some x => if !t.peakCounted && decide (x + msLsb ≤ s.time.now) then { t with peaks := t.peaks + 1, peakCounted := true } else t
    | none => t
  if !ge 8 then { t with peakSince := none, peakCounted := false }
  else if ge 10 then { t with peakSince := some (t.peakSince.getD s.time.now) } else t

/-- R503: the thermal cycles of a slot, from its endpoint's temperature. -/
def tallyTemp (x : Int) (t : SlotTally) : SlotTally :=
  let low := min x (t.lowest.getD x)
  if low + 40 ≤ x then { t with cycles := t.cycles + 1, lowest := some x } else { t with lowest := some low }

/-- A slot's tallies changed. -/
def modTally (s : State) (n : Fin 32) (f : SlotTally → SlotTally) : State :=
  { s with tally := { s.tally with slots := upd s.tally.slots n f } }

/-- R503: link errors: bad and missing replies. -/
def tallyLink (k : Fin 8) (s : State) : State :=
  { s with tally := { s.tally with linkErrors := upd s.tally.linkErrors k (· + 1) } }

/-! ### A good reply -/

/-- R318: the blocks of a reply that the endpoint's record keeps. -/
def keepBlocks (bs : List (Nat × List Byte)) (x : Endpoint) : Endpoint :=
  let s16 (b : List Byte) (o : Nat) : Int := sext 16 (leAt b o 2)
  { x with
    cur := bs.filterMap (fun (t, b) =>
      if t = 0x81 ∧ 10 ≤ b.length then some (byteAt b 0, s16 b 2, s16 b 4, s16 b 6)
      else if t = 0x82 ∧ 8 ≤ b.length then some (byteAt b 0, s16 b 2, s16 b 4, 0) else none)
    count0 := ((bs.filterMap (fun (t, b) =>
      if t = 0x83 ∧ 16 ≤ b.length ∧ byteAt b 0 = 0 ∧ byteAt b 1 = 0 ∧ bit (byteAt b 14) 2 then some (BitVec.ofNat 32 (leAt b 2 4))
      else if t = 0x84 ∧ 8 ≤ b.length ∧ byteAt b 0 = 0 ∧ byteAt b 1 = 0 ∧ bit (byteAt b 2) 0 then some (BitVec.ofNat 32 (leAt b 4 4))
      else none)).head?).getD x.count0
    bus := bs.filterMap (fun (t, b) =>
      if t = 0x81 ∧ 10 ≤ b.length then some (byteAt b 0, leAt b 8 2)
      else if t = 0x82 ∧ 8 ≤ b.length then some (byteAt b 0, leAt b 6 2) else none)
    meas := bs.filterMap (fun (t, b) => if t = 0x86 ∧ 4 ≤ b.length then some (byteAt b 0, sext 24 (leAt b 1 3)) else none)
    angle := bs.filterMap (fun (t, b) => if t = 0x85 ∧ 4 ≤ b.length then some (byteAt b 0, s16 b 2) else none) }

/-- R318, R347, R453: the STATUS block. -/
def takeStatus (e : Fin 12) (b : List Byte) (s : State) : State :=
  let was := s.link.eps[e].epFault
  let fl := byteAt b 0
  let s := modEp s e (fun x => { x with
    status := BitVec.ofNat 8 fl, temp := BitVec.ofNat 8 (byteAt b 1), faultCode := BitVec.ofNat 16 (leAt b 2 2)
    epFault := bit fl 0, outputs := bit fl 5, stoReported := x.sto && (x.stoReported || bit fl 1) })
  let s := (axisSlots s e).foldl (fun s (_, n) => modTally s n (tallyTemp (sext 8 (byteAt b 1)))) s
  if bit fl 0 && !was then emit (epHap e .warning 0x08 (b1 fl ++ leBytes 2 (leAt b 2 2))) s else s

/-- R290: an EVENT block triggers the latch units that name the endpoint and channel. -/
def takeEvent (e : Fin 12) (d : Dom) (b : List Byte) (s : State) : State :=
  if byteAt b 1 < 2 then
    latchTrigger 3 e (fun c => c == byteAt b 0) (replyStamp s d (leAt b 4 4)) false s
  else s

/-- R331: the first good reply is the arrival. -/
def arrive (e : Fin 12) (s : State) : State :=
  let x := s.link.eps[e]
  let s := modEp s e (fun x => { x with arriving := false, arrivals := satU 16 (x.arrivals + 1) })
  let s := emit (epHap e .note 0x01 (b1 x.kind.toNat ++ (x.paper.drop 28).take 8)) s
  (axisSlots s e).foldl (fun s (a, n) => epModelEff e a n (modFbk s n (fun f => { f with rebase := true }))) s

/-- R328: credits returned by the cumulative count of a good reply. -/
def takeCredits (e : Fin 12) (count : Byte) (s : State) : State :=
  modEp s e (fun x => { x with creditSeen := count, creditFree := min x.creditTotal (x.creditFree + (count - x.creditSeen).toNat) })

/-- R337: a protected transfer has exhausted its repeats. -/
def xferFailed (k : Fin 4) (x : Xfer) (repeats : Nat) (s : State) : State :=
  let s := modLink s k (fun l => { l with queue := l.queue.filter (fun y => y.desc != x.desc) })
  match flightOf s x.desc with
  | some f => completeAs f 0x0083 0 repeats f.applied s.time.now s
  | none => s

/-- R327: a transfer of a link changed, by its descriptor. -/
def modXfer (k : Fin 4) (desc : Nat) (f : Xfer → Xfer) (s : State) : State :=
  modLink s k (fun l => { l with queue := l.queue.map (fun x => if x.desc = desc then f x else x) })

/-- R327: areq_nack and apend of a good reply. A nack that is held since an earlier reply speaks for no later request. -/
def takeAcyclic (e : Fin 12) (nack pend : Bool) (s : State) : State :=
  let k := epLink e
  let fresh := nack && !s.link.eps[e].areqNack
  let s := modEp s e (fun x => { x with areqNack := nack, apend := pend })
  let sent := (s.link.links[k].queue.filter (fun x => x.ep == e && x.phase == 1)).getLast?
  let s := match fresh, sent with
    | true, some x =>
      let s := modEp s e (fun y => { y with creditFree := min y.creditTotal (y.creditFree + 1) })
      if x.requests < 4 then modXfer k x.desc (fun x => { x with phase := 0, credit := false }) s else xferFailed k x 3 s
    | _, _ => s
  if pend then
    match s.link.links[k].queue.find? (fun x => x.ep == e && (x.phase == 1 || x.phase == 2)) with
    | some x => modXfer k x.desc (fun x => { x with phase := 2 }) s
    | none => s
  else s

/-- R503: the phase currents of a reply in the tallies of the slots they drive. -/
def tallyCurrents (e : Fin 12) (s : State) : State :=
  (axisSlots s e).foldl (fun s (a, n) => match s.link.eps[e].cur.find? (fun c => c.1 == a) with
    | some (_, i, j, k) => modTally s n (tallyPeak s e (max i.natAbs (max j.natAbs k.natAbs)))
    | none => s) s

/-- R316–R319: a good reply. -/
def replyGood (e : Fin 12) (ts : Stamp) (data : List Byte) (s : State) : State :=
  let bs := (blocksOf data).getD []
  let ctl := byteAt data 0
  let alive : BitVec 4 := BitVec.ofNat 4 (ctl / 16)
  let x := s.link.eps[e]
  let skipped : Nat := match x.aliveReply with
    | some a => (alive - a - 1).toNat
    | none => 0
  let s := modEp s e (fun x => keepBlocks bs { x with
    aliveReply := some alive, gaps := x.gaps + BitVec.ofNat 32 skipped, missRun := 0, nack := false
    lastGood := BitVec.ofNat 64 s.time.now, sampleT := some ts })
  let s := if x.arriving then arrive e s else s
  let s := takeCredits e (BitVec.ofNat 8 (byteAt data 2)) s
  let s := if bit ctl 3 then
      let s := modEp s e (fun x => { x with nacks := x.nacks + 1 })
      emit { epHap e .note 0x07 (leBytes 4 s.link.eps[e].nacks.toNat) with logged := true } s
    else s
  let s := takeAcyclic e (bit ctl 0) (bit ctl 2) s
  let s := (axisSlots s e).foldl (fun s (a, n) => feedSlot e ts bs a n s) s
  let s := tallyCurrents e s
  bs.foldl (fun s (t, b) =>
    if t = 0x88 ∧ 4 ≤ b.length then takeStatus e b s
    else if t = 0x87 ∧ 8 ≤ b.length then takeEvent e ts.dom b s else s) s

/-! ### Departure (R332, R333) -/

/-- R328, R337: the transfers of a departed endpoint. -/
def dropXfers (e : Fin 12) (s : State) : State :=
  let k := epLink e
  let gone := s.link.links[k].queue.filter (fun x => x.ep == e)
  let s := modLink s k (fun l => { l with queue := l.queue.filter (fun x => x.ep != e) })
  gone.foldl (fun s x => match flightOf s x.desc with
    | some f => completeAs f 0x0082 0 (if x.phase = 3 then x.got.length else 0 : Nat) f.applied s.time.now s
    | none => s) s

/-- R332, R329: the cyclic exchange of an endpoint stops. -/
def stopCyclic (e : Fin 12) (s : State) : State :=
  modEp s e (fun x => { x with
    state := .absent, arriving := false, paper := [], kind := 0, cmdT := none, cycleT := none, sampleT := none, creditTotal := 0
    creditFree := 0, nack := false, ack := false, areqNack := false, apend := false, epFault := false, outputs := false, cur := []
    meas := [], angle := [], sto := false, stoSince := none, stoReported := false, safetyOk := false, lastPoll := none })

/-- R333: a slot with an optional endpoint is detached. -/
def detachSlot (n : Fin 32) (s : State) : State :=
  let s := if s.axis.slots[n].mode = .off then s else slotOff n s
  purge (fun f => f.target.cls == 1 && f.target.idx == n.val) stStopped (fun _ => 2 ^ 31) s

/-- R332, R333: an endpoint departs at the declared-missing instant of the eighth reply that is not good. -/
def depart (e : Fin 12) (s : State) : State :=
  let x := s.link.eps[e]
  let users := epSlots s e
  let ess (n : Fin 32) : Bool := (s.axis.slots[n].bind.map (fun b => b.essential)).getD false
  let s := dropXfers e s
  let s := stopCyclic e s
  if x.arriving then s
  else
    let s := modEp s e (fun x => { x with departures := satU 16 (x.departures + 1) })
    let stamp := t32 (restamp s (evtDomain s) ⟨.d0, x.lastGood⟩).t
    let must := users.filter ess
    let h := epHap e (if must = [] then .warning else .fault) 0x02 (leBytes 4 stamp.toNat)
    let groups := (List.finRange 8).filter (fun g => must.any (fun n => groupOf s n == some g))
    let s := must.foldl (fun s n =>
      let runs := (s.axis.slots[n].bind.map (fun b => b.leaves.contains 0x0D)).getD false
      if runs && s.axis.slots[n].mode != .off then coastStart n 2 s else s) s
    let s := if must = [] then emit h s else raiseSs1 h 3 groups s
    (users.filter (fun n => !ess n)).foldl (fun s n => detachSlot n s) s

/-! ### Replies that are not good (R320) -/

/-- The next instant whose reply an endpoint awaits. -/
def nextReply (e : Fin 12) (ts : Stamp) (s : State) : State :=
  modEp s e (fun x => { x with cycleT := some (planNext s (runPlan s e) ts) })

/-- R320: a reply that is missing or bad. -/
def replyLost (e : Fin 12) (ts : Stamp) (s : State) : State :=
  let s := nextReply e ts (tallyLink ⟨(epLink e).val, by omega⟩ s)
  let s := modEp s e (fun x => { x with nack := true, missRun := min 8 (x.missRun + 1) })
  let s := (axisSlots s e).foldl (fun s (_, n) =>
    if (s.axis.slots[n].bind.bind fbChannel).isSome then modFbk s n (fun f => { f with stale := true }) else s) s
  if s.link.eps[e].missRun = 8 then depart e s else s

/-- R316, R320: the instant whose reply window has ended. -/
def replyDue (s : State) (e : Fin 12) : Option Stamp :=
  match s.link.eps[e].cycleT with
  | some ts =>
    if s.link.eps[e].state = .cyclic ∧ replyStart s e ts + (replyLen s e : Nat) ≤ s.time.now then some ts else none
  | none => none

/-- R316, R319: REPLY_SIGNATURE. -/
def replySignatureEff (e : Fin 12) (data : List Byte) (s : State) : State :=
  match replyDue s e with
  | none => s
  | some ts =>
    match replyCheck s e data ts with
    | 0 => replyGood e ts data (nextReply e ts s)
    | why =>
      let s := modEp s e (fun x => { x with rxBad := x.rxBad + 1 })
      let s := emitLim msLsb 5 (fun held => { epHap e .note 0x05 (b1 why ++ cnt1 held) with logged := true }) s
      replyLost e ts s

/-- R320: REPLY_MISSING. -/
def replyMissingEff (e : Fin 12) (s : State) : State :=
  match replyDue s e with
  | none => s
  | some ts =>
    let s := modEp s e (fun x => { x with rxMissing := x.rxMissing + 1 })
    let run := min 8 (s.link.eps[e].missRun + 1)
    let s := emitLim msLsb 6 (fun held => epHap e .warning 0x06 (b1 run ++ cnt1 held)) s
    replyLost e ts s

/-! ### Discovery and arrival (R331, R452) -/

/-- R331, R490: whether discovery polls a select now. -/
def pollDue (s : State) (e : Fin 12) : Bool :=
  let k := epLink e
  let x := s.link.eps[e]
  let every := if x.badIdentity then 100 * msLsb else msLsb
  linkOn s k && x.state != .cyclic && (parkEp s e || s.chip.fullService && regB s (linkBase k) (8 + e.val % 3))
    && (match x.lastPoll with
      | some t => decide (t + every ≤ s.time.now)
      | none => true)

/-- R331, R312, R318: the EP_REPLY_CFG of an endpoint (log 25). -/
def replyCfgOf (s : State) (e : Fin 12) (paper : List Byte) : Nat :=
  let ax := List.range (paperAxes paper)
  let motor (t : Nat) : Nat := ofBool (ax.any (fun a => byteAt paper (72 + 48 * a) == t))
  let form (f : Nat) : Nat := ofBool (ax.any (fun a => (List.range 2).any (fun c => (chanForm paper a c).1 == f)))
  let io := byteAt paper 3 == 4
  let chans : Nat := (List.range 8).foldl (fun m c =>
    if io || (epSlots s e).any (fun n => match s.axis.slots[n].bind with
      | some b => b.kind == .band && b.bandSrc == 3 && b.bandEp == e.val && b.bandCh == c
      | none => false) then m + 2 ^ c else m) 0
  let evts : Nat := (List.range 8).foldl (fun m c =>
    if io || s.pins.lat.toList.any (fun l => match l.arm with
      | some a => a.source == 3 && a.index == e.val && a.edge == c
      | none => false) then m + 2 ^ c else m) 0
  packBits [(0, 0, motor 1), (1, 1, motor 2), (2, 2, form 1), (3, 3, form 2), (4, 4, motor 3), (5, 5, ofBool (chans != 0)),
    (6, 6, ofBool (evts != 0)), (7, 7, 1), (15, 8, chans), (23, 16, evts)]

/-- R308, R310, R311: a plain WRITE word. -/
def writeWord (addr : Nat) (data : List Byte) : List Byte := 0x02 :: (leBytes 3 addr).reverse ++ data

/-- R452, R457: the safety configuration of an endpoint: check value of the record, seq_timeout_ms and axis mask. -/
def safetyConfig (s : State) (paper : List Byte) : List Byte :=
  leBytes 4 (leAt s.firebreak.record 92 4) ++ leBytes 4 (packBits [(15, 0, 5), (17, 16, 2 ^ paperAxes paper - 1)])
    ++ List.replicate 56 0

/-- R331, R340: whether an endpoint fails its binding: 1 kind, 2 serial, 3 timing, 4 identity record. -/
def mismatch (s : State) (e : Fin 12) (b : EpBind) : Option Nat :=
  let paper := s.link.eps[e].paper
  let recBad (r : Option (Fin 8)) : Bool := match r with
    | some r => !(s.link.recs[r].valid && passive (byteAt s.link.recs[r].data 3))
    | none => false
  if b.kind ≠ 0 ∧ b.kind.toNat ≠ byteAt paper 3 then some 1
  else if b.serialMust ∧ (paper.drop 28).take 16 ≠ b.serial then some 2
  else if timingFails s e then some 3
  else if recBad b.idRec0 || recBad b.idRec1 then some 4
  else none

/-- R331: the cyclic exchange of an endpoint starts with the next cycle. -/
def startCyclic (e : Fin 12) (s : State) : State :=
  let p := runPlan s e
  let t0 : Stamp := match (mates s e).findSome? (fun x => if s.link.eps[x].state = .cyclic then s.link.eps[x].cmdT else none) with
    | some x => x
    | none => ⟨p.dom, gridAt p.period p.phase (domNow s p.dom)⟩
  let s := modEp s e (fun x => { x with
    state := .cyclic, arriving := true, missRun := 0, cmdT := some t0, safetyOk := true, aliveReply := none, aliveArsp := none
    nack := false, ack := false, creditTotal := byteAt x.paper 49, creditFree := byteAt x.paper 49, creditSeen := 0 })
  nextReply e t0 s

/-- R331: IDENT_REPLY: the arrival sequence. -/
def identReplyEff (e : Fin 12) (ident : List Byte) (a : Arrival) (s : State) : State :=
  let x := s.link.eps[e]
  if !linkOn s (epLink e) || x.state == .cyclic || x.lastPoll.isNone || leAt ident 0 2 != 0x4550 then s
  else
    match paperBad a.endpaper with
    | some why =>
      let s := modEp s e (fun x => { x with
        state := .answering, answered := true, paper := [], kind := 0, attempts := x.attempts + 1 })
      if x.attempts + 1 < 3 then s
      else emit (epHap e .warning 0x04 (b1 why)) (modEp s e (fun x => { x with attempts := 0, badIdentity := true }))
    | none =>
      let s := modEp s e (fun x => { x with
        state := .answering, answered := true, paper := a.endpaper, kind := BitVec.ofNat 8 (byteAt a.endpaper 3), attempts := 0, badIdentity := false })
      -- R495: a park endpoint's rdelay is its conv_ns
      let bind := if parkEp s e then x.bind.map (fun b => { b with rdelay := convLsb a.endpaper }) else x.bind
      let s := modEp s e (fun x => { x with bind := bind })
      match bind with
      | none => s
      | some b =>
        let cfg := replyCfgOf s e a.endpaper
        let s := modEp s e (fun x => { x with replyCfg := BitVec.ofNat 32 cfg })
        match mismatch s e b with
        | some why => emit (epHap e .warning 0x03 (b1 why)) (modEp s e (fun x => { x with state := .mismatch }))
        | none =>
          let send (bs : List Byte) (s : State) : State := { s with out := s.out ++ [.xfer (epLink e) e bs] }
          let s := send (writeWord 0x10C (leBytes 4 cfg)) s
          let s := send (writeWord 0xFF40 (leBytes 4 1)) (send (writeWord 0xFF00 (safetyConfig s a.endpaper)) s)
          if !a.safetyBack then
            emit { source := 224, sev := .stop, handler := 1, idx := e, payload := b1 e ++ b1 2 } s
          else startCyclic e s

/-! ### Transfers (R326, R327, R335) -/

/-- R308, R309: the cycles of words with a common address and dummy phase, the select held across them. -/
def wordCycles (bytes addr dummy perByte : Nat) : Nat :=
  let k := max 1 ((bytes + 127) / 128)
  2 + k * (8 + addr + dummy) + perByte * bytes + (k - 1)

/-- R327: the bytes of an AREQ before its CRC, and of an ARSP. -/
def areqLen (x : Xfer) : Nat := 8 + (if x.op = 1 then x.len else 0)
def arspLen (x : Xfer) : Nat := 6 + (if x.op = 2 then x.len else 0)

/-- R308–R310, R335: the clock cycles of a transfer's words; of a protected one, of its request or its response. -/
def xferCycles (x : Xfer) (response : Bool) : Nat :=
  match x.mode with
  | 0 => if x.op = 3 then wordCycles 16 0 8 2 else wordCycles x.len 12 (if x.op = 2 then 8 else 0) 2
  | 1 => if response then wordCycles (arspLen x) 0 2 2 else wordCycles (areqLen x + 2) 0 0 2
  | _ => 2 + 8 + x.addrBits / max 1 x.addrLanes + x.dummy + (if x.dataLanes = 2 then 2 * x.len else 4 * x.len)

/-- R322, R325: the cyclic windows of a link laid over its longest period: start and length in LSB. -/
def linkSpans (s : State) (k : Fin 4) : Nat × List (Int × Nat) :=
  let ws := ((List.finRange 12).filter (fun e => epLink e == k)).flatMap (epWindows s)
  let L := ws.foldl (fun m w => max m w.2.2) 0
  (L, sortBy (fun (a b : Int × Nat) => decide (a.1 ≤ b.1)) (ws.flatMap (fun (t, len, p) =>
    (List.range (L / max 1 p)).map (fun (i : Nat) => ((t + ((i * p : Nat) : Int)) % (L : Int), len)))))

/-- R346: the longest gap of a link in LSB; none without windows. -/
def linkGap (s : State) (k : Fin 4) : Option Nat :=
  match linkSpans s k with
  | (_, []) => none
  | (L, w :: ws) =>
    let next := ws ++ [(w.1 + (L : Int), w.2)]
    some (((w :: ws).zip next).foldl (fun (m : Nat) (a, b) => max m (b.1 - a.1 - (a.2 : Int)).toNat) 0)

/-- R346: the share of a link's cyclic windows in per cent. -/
def linkLoad (s : State) (k : Fin 4) : Nat :=
  match linkSpans s k with
  | (L, ws) => min 100 ((ws.map (fun w => w.2)).foldl (· + ·) 0 * 100 / max 1 L)

/-- R326: whether words of so many cycles, with 2 idle cycles, end before the next cyclic window of a link, and none is open. -/
def gapFits (s : State) (k : Fin 4) (cycles : Nat) : Bool :=
  let stop : Int := s.time.now + ((cycles + 2) * linkClk s k : Nat)
  (List.finRange 12).all (fun e =>
    if epLink e == k && s.link.eps[e].state == .cyclic then
      let p := runPlan s e
      let clear (start : Int) (len : Nat) : Bool := decide (stop ≤ start) && decide (start - p.period + len ≤ s.time.now)
      (match cmdInstant s e with
        | some x => clear (toD0 s x + (p.offset : Int) - (epLead s e : Nat)) (cmdLen s e)
        | none => true)
      && (match s.link.eps[e].cycleT with
        | some x => clear (replyStart s e x) (replyLen s e)
        | none => true)
    else true)

/-- R327: an AREQ, and R335: the bytes sent for a plain or raw transfer. -/
def areqBytes (x : Xfer) (alive : BitVec 4) : List Byte :=
  let body := b1 (16 * alive.toNat) ++ b1 x.op ++ leBytes 3 x.addr ++ leBytes 2 x.len ++ [0] ++ (if x.op = 1 then x.data.take x.len else [])
  body ++ sigCrc (0xC4 :: body)
def plainBytes (x : Xfer) : List Byte :=
  let addr := (leBytes (x.addrBits / 8) x.addr).reverse
  match x.mode, x.op with
  | 0, 1 => writeWord x.addr (x.data.take x.len)
  | 0, 2 => 0x0B :: (leBytes 3 x.addr).reverse
  | 0, _ => [0x9F]
  | _, 1 => x.cmd :: addr ++ x.data.take x.len
  | _, _ => x.cmd :: addr

/-- R335: a plain or raw transfer ends. `inbound`: what the endpoint drove; lanes that nothing drives read 0. -/
def plainDone (x : Xfer) (inbound : List Byte) (s : State) : State :=
  match flightOf s x.desc with
  | none => s
  | some f =>
    let reads := (x.mode = 0 ∧ x.op ≠ 1) ∨ (x.mode = 2 ∧ x.op = 2)
    let len := if x.mode = 0 ∧ x.op = 3 then 16 else x.len
    let got := (inbound ++ List.replicate len 0).take len
    let at' := some (nowStamp s)
    let done := s.time.now + xferCycles x false * linkClk s (epLink x.ep)
    if reads then
      -- R434, R435: a unit in check mode strips its field
      let (failed, k, s) := chkIncoming 2 x.ep.val got s
      let n := len - k
      if !f.buf.ok then completeAs f stBufferDma 0 (min f.buf.data.length n : Nat) at' done s
      else
        let s := hostWrite f x.bufAddr.toNat (got.take n) s
        match failed with
        | some u => completeAs f 0x0085 n u.val at' done s
        | none => completeAs f stOK n 0 at' done s
    else completeAs f stOK len 0 at' done s

/-- R326, R327: XFER_START: the first entry of a link's queue that has not started. -/
def xferStartEff (k : Fin 4) (inbound : List Byte) (s : State) : State :=
  if !linkOn s k then s
  else match s.link.links[k].queue.find? (fun x => x.phase == 0) with
    | none => s
    | some x =>
      let more := if x.mode != 1 && x.op == 1 then appendLen s 2 x.ep.val else 0
      if !gapFits s k (xferCycles { x with len := x.len + more } false) then s
      else
        let send (bs : List Byte) (s : State) : State := { s with out := s.out ++ [.xfer k x.ep bs] }
        if x.mode = 1 then
          let ep := s.link.eps[x.ep]
          if ep.creditFree = 0 then s
          else
            let s := send (0xC4 :: areqBytes x ep.aliveAreq) s
            let s := modEp s x.ep (fun y => { y with aliveAreq := y.aliveAreq + 1, creditFree := y.creditFree - 1, areqNack := false })
            let s := modFlight s x.desc (fun f => { f with applied := some (f.applied.getD (nowStamp s)) })
            modXfer k x.desc (fun x => { x with phase := 1, requests := x.requests + 1, credit := true }) s
        else
          let s := modLink s k (fun l => { l with queue := l.queue.filter (fun y => y.desc != x.desc) })
          if x.op == 1 then
            let (data, s) := chkOutgoing x.ep.val (x.data.take x.len) s
            plainDone x inbound (send (plainBytes { x with data := data, len := data.length }) s)
          else plainDone x inbound (send (plainBytes x) s)

/-- R327, R319: whether a response is good. -/
def arspGood (ep : Endpoint) (x : Xfer) (data : List Byte) : Bool :=
  data.length == (if byteAt data 1 = 0 then arspLen x else 6 + leAt data 2 2) && crc16 0x8BB7 (0xC5 :: data) == 0
    && ep.aliveArsp != some (BitVec.ofNat 4 (byteAt data 0 / 16))

/-- R327: ARSP_READ. -/
def arspReadEff (e : Fin 12) (data : List Byte) (s : State) : State :=
  let k := epLink e
  match s.link.links[k].queue.find? (fun x => x.ep == e && x.phase == 2) with
  | none => s
  | some x =>
    if !linkOn s k || !gapFits s k (xferCycles x true) then s
    else
      let s := { s with out := s.out ++ [.xfer k e [0xC5]] }
      if arspGood s.link.eps[e] x data then
        let s := modEp s e (fun y => { y with ack := true, aliveArsp := some (BitVec.ofNat 4 (byteAt data 0 / 16)) })
        modXfer k x.desc (fun x => { x with
          phase := 3, status := BitVec.ofNat 8 (byteAt data 1), got := (data.drop 4).take (leAt data 2 2) }) s
      else if x.responses < 3 then modXfer k x.desc (fun x => { x with responses := x.responses + 1 }) s
      else xferFailed k x 3 s

/-- R346: a select whose last poll has had no answer is absent. -/
def pollMissed (x : Endpoint) : Endpoint :=
  if x.lastPoll.isSome && !x.answered then { x with state := .absent, paper := [], kind := 0, attempts := 0 } else x

/-- R22, R331, R326: IDENT_POLL, in a gap that no queued entry can use. -/
def identPollEff (e : Fin 12) (s : State) : State :=
  let k := epLink e
  let wanted := match s.link.links[k].queue.find? (fun x => x.phase == 0) with
    | some x => gapFits s k (xferCycles x false)
    | none => false
  if pollDue s e && !isolated s (.select e) && !wanted && gapFits s k (wordCycles 16 0 8 2) then
    let s := modEp s e (fun x => { pollMissed x with lastPoll := some s.time.now, answered := false })
    { s with out := s.out ++ [.xfer (epLink e) e [0x9F]] }
  else s

/-! ### Descriptors (R329, R330, R335–R337) -/

/-- The endpoint a descriptor names. -/
def epT (f : InFlight) : Fin 12 := Fin.ofNat 12 f.target.idx

/-- R335: the transfer a SIGLINK_XFER spells. -/
def xferOf (f : InFlight) : Xfer :=
  let p := f.payload
  { desc := f.id, ep := epT f, mode := pU p 16 1, op := pU p 17 1, cmd := BitVec.ofNat 8 (pU p 18 1), addrBits := pU p 19 1
    addrLanes := pU p 20 1, dummy := pU p 21 1, dataLanes := pU p 22 1, addr := pU p 24 4, len := pU p 28 2
    bufAddr := BitVec.ofNat 64 (pU p 32 8), data := f.buf.data }

/-- R336: where a transfer writes: start and length; none: it writes nothing the privileged range can be in. -/
def xferWrites (x : Xfer) : Option (Nat × Nat) :=
  if x.op ≠ 1 then none
  else if x.mode < 2 then some (x.addr, x.len)
  else if x.cmd = 0xC4 then (if byteAt x.data 1 = 1 then some (leAt x.data 2 3, leAt x.data 5 2) else none)
  else some (x.addr % 2 ^ x.addrBits, x.len)

/-- R336: whether a transfer may not write where it does. -/
def xferForbidden (s : State) (x : Xfer) : Bool :=
  match xferWrites x with
  | none => false
  | some (a, n) =>
    let meets (lo hi : Nat) : Bool := decide (a < hi) && decide (lo < a + n)
    meets 0xFF00 0xFF44 || (meets 0xFF44 0xFF48
      && !(s.life.state == .factory || s.life.state == .integration || s.life.state == .service))

/-- R330, R335: the checks of SIGLINK_XFER. -/
def xferCheck (f : InFlight) (s : State) : Option (Nat × Int) :=
  let p := f.payload
  let x := xferOf f
  let k := epLink x.ep
  let raw := x.mode == 2
  let writes := x.op == 1
  let more := if x.mode != 1 && x.op == 1 then appendLen s 2 x.ep.val else 0
  let badLen := match x.mode with
    | 0 => decide (x.len < 4) || decide (512 < x.len + more) || x.len % 4 != 0
    | 1 => decide (x.len < 1) || decide (256 < x.len)
    | _ => decide (128 < x.len + more)
  let gap := linkGap s k
  let need := (max (xferCycles { x with len := x.len + more } false) (xferCycles x (x.mode == 1)) + 2) * linkClk s k
  firstFail [resv p 23 23, resv p 30 31, resv p 40 63, inval (decide (2 < x.mode)) 16,
    inval (x.op == 0 || decide ((if x.mode = 0 then 3 else 2) < x.op)) 17,
    inval (raw && x.addrBits != 0 && x.addrBits != 16 && x.addrBits != 24) 19,
    inval (raw && x.addrLanes != 1 && x.addrLanes != 2) 20, inval (raw && decide (15 < x.dummy)) 21,
    inval (raw && x.dataLanes != 1 && x.dataLanes != 2) 22, inval (decide (2 ^ 24 ≤ x.addr)) 24, inval badLen 28,
    denied (!linkOn s k) 0x35, denied (x.mode == 1 && s.link.eps[x.ep].bind.isNone) 0x30,
    denied (x.mode == 1 && !epPresent s x.ep) 0x34, denied (xferForbidden s x) 0x38,
    (decide (16 ≤ s.link.links[k].queue.length), 0x0080, 0),
    (decide ((gap.getD (2 ^ 64)) < need), 0x0081, ((gap.getD 0) / nsLsb : Nat)),
    (writes && (!f.buf.ok || decide (f.buf.data.length < x.len)), stBufferDma, (min f.buf.data.length x.len : Nat))]

/-- R335: SIGLINK_XFER is queued. -/
def xferNow (f : InFlight) (s : State) : State :=
  let x := xferOf f
  modLink s (epLink x.ep) (fun l => { l with queue := l.queue ++ [x] })

/-- R329: the binding that an ENDPOINT_BIND spells. -/
def epBindOf (p : BitVec 384) : EpBind :=
  let slot (o : Nat) : Option (Fin 32) := if pU p o 1 = 255 then none else some (Fin.ofNat 32 (pU p o 1))
  let record (o : Nat) : Option (Fin 8) := if pU p o 1 = 255 then none else some (Fin.ofNat 8 (pU p o 1))
  { kind := BitVec.ofNat 8 (pU p 17 1), serialMust := bit (pU p 18 1) 0, mgroup := if bit (pU p 18 1) 1 then pU p 19 1 else 0
    axis0 := slot 20, axis1 := slot 21, idRec0 := record 22, idRec1 := record 23, lead := pU p 24 4, rdelay := pU p 28 4
    serial := pBytes p 32 16 }

/-- R330: whether a slot named for an axis is not in OFF, or bound to another axis. -/
def axisTaken (s : State) (n : Option (Fin 32)) : Bool :=
  match n with
  | none => false
  | some n => s.axis.slots[n].mode != .off || (axisOf s n).isSome

/-- R330: whether a user of an endpoint is not in OFF, or a unit naming it is armed. -/
def epBusy (s : State) (e : Fin 12) : Bool :=
  (epSlots s e).any (fun n => s.axis.slots[n].mode != .off)
    || s.pins.cmp.toList.any (fun c => match c.arm with
      | some a => a.outEp == some e
      | none => false)
    || s.pins.lat.toList.any (fun l => match l.arm with
      | some a => a.source == 3 && a.index == e.val
      | none => false)
    || s.pins.ltc.toList.any (fun l => ltcArmed l && (match l.cfg with
      | some c => bit c.eps.toNat e
      | none => false))

/-- R329, R330: the checks of ENDPOINT_BIND. -/
def bindCheck (f : InFlight) (s : State) : Option (Nat × Int) :=
  let p := f.payload
  let e := epT f
  let b := epBindOf p
  let binds := pU p 16 1 == 0
  let out (o hi : Nat) : Check := inval (decide (hi < pU p o 1) && pU p o 1 != 255) o
  let s' := modEp s e (fun x => { x with bind := some b })
  firstFail ([resv p 48 63, inval (decide (1 < pU p 16 1)) 16, inval (decide (3 < pU p 18 1)) 18,
    inval (bit (pU p 18 1) 1 && (pU p 19 1 == 0 || decide (3 < pU p 19 1))) 19, out 20 31, out 21 31, out 22 7, out 23 7,
    denied (!linkOn s (epLink e)) 0x35]
    ++ (if binds then
      [denied (s.link.eps[e].bind.isSome) 0x30,
        denied (axisTaken s b.axis0 || axisTaken s b.axis1 || (b.axis0.isSome && b.axis0 == b.axis1)) 0x36,
        denied (linkOverlap s' (epLink e)) 0x32, denied ((mates s' e).any (timingFails s')) 0x33]
    else [denied (s.link.eps[e].bind.isNone) 0x30, denied (epBusy s e) 0x31]))

/-- R329: ENDPOINT_BIND takes effect on acceptance: a bind or an unbind. -/
def bindNow (f : InFlight) (s : State) : State :=
  let e := epT f
  if pU f.payload 16 1 = 0 then
    let s := modEp s e (fun x => { x with bind := some (epBindOf f.payload) })
    complete f.id stOK (ofBool (epPresent s e)) 0 (some (nowStamp s)) s
  else
    let s := dropXfers e s
    let s := stopCyclic e s
    completeOk f.id (some (nowStamp s)) (modEp s e (fun x => { x with bind := none }))

/-! ### Set-up registers of the links (R306, R343, R346) -/

/-- R306, R346: a write of SIGLINK_n_CFG. -/
def linkCfgWrite (k : Fin 4) (value : Nat) (s : State) : State :=
  let o := linkBase k
  let was := reg s o
  let v := if bit was 0 then putBits value 6 1 (bits was 6 1) else value
  let s := writeRw s o v
  if bit (reg s o) 0 == bit was 0 then s
  else
    let service := ofBool (k == 3 && s.svc.strap)
    emit { source := 140 + k, sev := .note, code := 1, payload := b1 1 ++ b1 (ofBool (regB s o 0)) ++ b1 service }
      (modLink s k (fun l => { l with active := linkOn s k }))

/-- R343: the enabled records are to be read. -/
def wantRecords (s : State) : State :=
  (List.finRange 8).foldl (fun s (r : Fin 8) =>
    if regB s (0x8620 + 4 * r) 24 then modRec s r (fun x => { x with wanted := true, tries := 0 }) else s)
    { s with link := { s.link with busFault := false } }

/-- R343: a write of SIGLINK_ID_CFG: setting enable, or writing 1 to rescan, reads the enabled records. -/
def idCfgWrite (value : Nat) (s : State) : State :=
  let was := regB s 0x8600 0
  let s := writeRw s 0x8600 value
  if regB s 0x8600 0 && (!was || bit value 2) then wantRecords s else s

/-- R344: the read of a record has ended. -/
def recordRead (r : Fin 8) (valid : Bool) (s : State) : State :=
  let kind := byteAt s.link.recs[r].data 3
  emit { source := 158, sev := if valid then .note else .warning, code := 0x10, idx := r
         payload := b1 0x10 ++ b1 r ++ b1 (ofBool valid) ++ b1 kind } s

/-- R343, R344: ID_RECORD_READ. -/
def idRecordReadEff (r : Fin 8) (x : IdRead) (s : State) : State :=
  if !s.link.recs[r].wanted then s
  else match x with
    | .ok data =>
      let valid := (paperBad data).isNone
      let s := chkObserve 6 0 1 data s
      recordRead r valid (modRec s r (fun y => { y with wanted := false, fault := false, valid := valid, data := data }))
    | .noAck =>
      if s.link.recs[r].tries < 3 then modRec s r (fun y => { y with tries := y.tries + 1 })
      else recordRead r false (modRec s r (fun y => { y with wanted := false, fault := true, valid := false, data := [] }))
    | .busHeld recovered =>
      if recovered then s
      else
        let s := modRec s r (fun y => { y with wanted := false, fault := true, valid := false, data := [] })
        let s := { s with link := { s.link with busFault := true } }
        recordRead r false (emit { source := 158, sev := .warning, code := 0x11, idx := r, payload := b1 0x11 ++ b1 r } s)

end Sys2Proof.Machine
end

