-- ==== Sys2Proof/Machine/Can.lean ====
section
/-!
DEFINITION. The CAN FD controllers (14): bit timing and modes (R389, R390), transmit slots (R392–R396), reception
(R397–R399), errors and bus-off (R400, R401), and the scheduled class with its reference messages (R402–R405).
-/

namespace Sys2Proof.Machine

/-- A controller changed. -/
def modCan (s : State) (c : Fin 2) (f : Can → Can) : State := { s with can := upd s.can c f }

/-- R408: an event of controller `c`. -/
def canHap (c : Fin 2) (k : Nat) (sev : Sev) (idx : Nat) (payload : List Byte) : Hap :=
  { source := 176 + 8 * c.val + k, sev := sev, idx := idx, payload := payload }

/-! ### Bit timing and mode (R389, R390) -/

/-- R490: before full service only the park record speaks for CAN0, and CAN1 is off. -/
def canEarly (s : State) : Bool := !s.chip.fullService

/-- R490, R492: CAN0 listens during understory service. -/
def canListens (s : State) (c : Fin 2) : Bool :=
  c == 0 && s.chip.understory && s.life.parkValid && bit (byteAt s.life.park 4) 0

/-- The bit timing words in force: arbitration phase and data phase. -/
def canTiming (s : State) (c : Fin 2) : Nat × Nat :=
  if canEarly s && c == 0 then (leAt s.life.park 8 4, leAt s.life.park 12 4)
  else (reg s (canBase c + 8), reg s (canBase c + 0xC))

/-- R390: the conditions of a valid bit timing, with rates as controller clocks per bit. -/
def timingOk (nbt dbt : Nat) : Bool :=
  let clk (brp t1 t2 : Nat) : Nat := brp * (1 + t1 + t2)
  let nT2 := bits nbt 19 13 + 1
  let dT2 := bits dbt 13 10 + 1
  let n := clk (bits nbt 4 0 + 1) (bits nbt 12 5 + 1) nT2
  let d := clk (bits dbt 4 0 + 1) (bits dbt 9 5 + 1) dT2
  decide (80 ≤ n) && decide (10 ≤ d) && decide (d ≤ n) && decide (bits nbt 26 20 + 1 ≤ nT2)
    && decide (bits dbt 17 14 + 1 ≤ dT2)

/-- R22, R389: the mode as it acts. -/
def canMode (s : State) (c : Fin 2) : Nat :=
  let m := if canEarly s then (if canListens s c then 2 else 0) else regF s (canBase c) 2 0
  let t := canTiming s c
  if 5 ≤ m || !timingOk t.1 t.2 || isolated s (.can c) then 0 else m

/-- R389: fd_enable as it acts. -/
def canFd (s : State) (c : Fin 2) : Bool := if canEarly s then bit (byteAt s.life.park 4) 1 else regB s (canBase c) 3

/-- R389, R400: the controller may drive a frame. -/
def canDrives (s : State) (c : Fin 2) : Bool :=
  let m := canMode s c
  (m == 1 || m == 3 || m == 4) && (s.can[c].state == .active || s.can[c].state == .passive)

/-! ### Frames -/

/-- The parts of the identifier word (R392). -/
def identIde (x : Word) : Bool := bit x.toNat 29
def identRtr (x : Word) : Bool := bit x.toNat 30
def identFd (x : Word) : Bool := bit x.toNat 31

/-- ISO 11898-1: the data bytes of a DLC code. -/
def dlcBytes (fd : Bool) (dlc : Nat) : Nat :=
  if dlc ≤ 8 then dlc else if !fd then 8
  else match dlc with
    | 9 => 12 | 10 => 16 | 11 => 20 | 12 => 24 | 13 => 32 | 14 => 48 | _ => 64

/-- The data bytes of a frame; a remote frame has none. -/
def frameLen (f : CanFrame) : Nat := if identRtr f.ident then 0 else dlcBytes (identFd f.ident) f.dlc.toNat

/-- A frame's data, of the length its DLC gives. -/
def frameData (f : CanFrame) : List Byte := (f.data ++ List.replicate 64 0).take (frameLen f)

/-- ISO 11898-1: the arbitration field as a number: the lower one wins. -/
def arbitration (x : Word) : Nat :=
  let v := x.toNat
  if identIde x then bits v 28 18 * 2 ^ 21 + 2 ^ 20 + 2 ^ 19 + bits v 17 0 * 2 + ofBool (identRtr x)
  else bits v 10 0 * 2 ^ 21 + ofBool (identRtr x) * 2 ^ 20

/-! ### States and error counters (R400) -/

/-- R407: the code of a state. -/
def canCode : CanState → Nat
  | .active => 0 | .passive => 1 | .busOff => 2 | .recovering => 3

/-- R400: a state set and its change raised. -/
def setCanState (c : Fin 2) (st : CanState) (s : State) : State :=
  let old := s.can[c].state
  if old = st then s
  else
    let s := modCan s c (fun x => { x with state := st })
    let x := s.can[c]
    emit (canHap c 0 (if st = .passive then .warning else .note) (canCode old)
      (b1 (canCode old) ++ b1 (canCode st) ++ leBytes 2 (min x.tecN 65535) ++ b1 x.recN)) s

/-- R400: the state that the counters give, outside bus-off. -/
def settleCan (c : Fin 2) (s : State) : State :=
  let x := s.can[c]
  if x.state = .busOff || x.state = .recovering then s
  else if 256 ≤ x.tecN then
    let s := modCan s c (fun x => { x with busOffs := satU 32 (x.busOffs + 1), offSince := s.time.now, refDue := false })
    let s := setCanState c .busOff s
    emit (canHap c 1 .fault 0 (b1 s.can[c].slots.length)) s
  else setCanState c (if 128 ≤ x.tecN || 128 ≤ x.recN then .passive else .active) s

/-! ### Transmit slots (R392–R396) -/

/-- One transmit slot changed. -/
def modCanSlot (c : Fin 2) (i : Nat) (f : CanSlot → CanSlot) (s : State) : State :=
  modCan s c (fun x => { x with slots := x.slots.map (fun e => if e.1 = i then (i, f e.2) else e) })

/-- R395, R396: a frame leaves its slot unsent, with a status and detail. -/
def dropFrame (c : Fin 2) (i : Nat) (status : Nat) (detail : Int) (s : State) : State :=
  match tabGet s.can[c].slots i with
  | some e =>
    let s := modCan s c (fun x => { x with slots := tabDel x.slots i, cancelled := x.cancelled + 1 })
    reject e.desc status detail s
  | none => s

/-- R94: the detail of CANCELLED: tag and ring of the cancelling descriptor. -/
def cancelDetail (x : Byte × Nat) : Int := x.1.toNat + 256 * x.2

/-- The tag and the ring of a descriptor. -/
def cancelOf (f : InFlight) : Byte × Nat := (f.tag, match f.src with
  | .sq n => n.val
  | _ => 0)

/-- R395: a cancel acts on a slot; of several that one attempt holds the first is the one reported. -/
def cancelFrame (c : Fin 2) (i : Nat) (who : Byte × Nat) (s : State) : State :=
  match tabGet s.can[c].slots i with
  | some e =>
    if e.sof.isSome then modCanSlot c i (fun e => { e with cancel := some (e.cancel.getD who) }) s
    else dropFrame c i stCancelled (cancelDetail who) s
  | none => s

/-- R396: a lifecycle change removes every frame. -/
def dropAllFrames (detail : Int) (s : State) : State :=
  (List.finRange 2).foldl (fun s (c : Fin 2) =>
    s.can[c].slots.foldl (fun s e => dropFrame c e.1 stLifecycle detail s) s) s

/-- The place of the frame of a descriptor. -/
def frameOf (s : State) (desc : Nat) : Option (Fin 2 × Nat) :=
  (List.finRange 2).findSome? (fun c => (s.can[c].slots.find? (fun e => e.2.desc == desc)).map (fun e => (c, e.1)))

/-- R396: a FENCE purge acts on a queued frame as a CAN_CANCEL does. -/
def purgeFrame (desc : Nat) (who : Byte × Nat) (s : State) : State :=
  match frameOf s desc with
  | some (c, i) => cancelFrame c i who s
  | none => s

/-- The attempt under way: a slot, or the reference message. -/
def attempt (s : State) (c : Fin 2) : Option (Nat × CanSlot) := s.can[c].slots.find? (fun e => e.2.sof.isSome)

/-- Whether an attempt is under way. -/
def attempting (s : State) (c : Fin 2) : Bool := (attempt s c).isSome || s.can[c].refSof.isSome

/-- R405: a window is open. -/
def windowOpen (x : Can) (w : Fin 16) : Bool := x.open_.any (fun o => o.1 == w)

/-- R393, R395: the attempt under way ends without success: a held cancel removes the frame, another frame is offered
again; a scheduled frame whose window has closed waits for the next opening. -/
def loseAttempt (c : Fin 2) (s : State) : State :=
  let s := modCan s c (fun x => { x with refSof := none })
  match attempt s c with
  | some (i, e) =>
    let s := modCanSlot c i (fun e => { e with
      sof := none, sofAt := none, eligible := e.eligible && (!e.scheduled || windowOpen s.can[c] e.window) }) s
    match e.cancel with
    | some who => dropFrame c i stCancelled (cancelDetail who) s
    | none => s
  | none => s

/-- The controller a descriptor targets. -/
def canT (f : InFlight) : Fin 2 := Fin.ofNat 2 f.target.idx

/-- R392, ISO 11898-1: the identifier word as the bus carries it: a base identifier has 11 bits. -/
def wireIdent (x : Word) : Word :=
  if identIde x then x else BitVec.ofNat 32 (x.toNat / 2 ^ 29 * 2 ^ 29 + bits x.toNat 10 0)

/-- R392: the frame of a CAN_SEND; only an FD frame has a BRS bit. -/
def sendFrame (f : InFlight) : CanFrame :=
  let p := f.payload
  let flags := pU p 20 1
  let id := BitVec.ofNat 32 (pU p 16 4)
  { ident := wireIdent id, brs := identFd id && bit flags 0, esi := false, dlc := BitVec.ofNat 4 (pU p 21 1)
    data := if bit flags 2 then f.buf.data else pBytes p 24 40 }

/-- R392: the checks of CAN_SEND. -/
def canSendCheck (f : InFlight) (s : State) : Option (Nat × Int) :=
  let p := f.payload
  let c := canT f
  let flags := pU p 20 1
  let dlc := pU p 21 1
  let fr := sendFrame f
  let fd := identFd fr.ident
  let w := pU p 22 1
  let m := canMode s c
  firstFail [resv p 23 23, inval (decide (7 < flags)) 20, inval (decide (15 < dlc)) 21,
    inval (decide (15 < w) || (!bit flags 1 && w != 0)) 22,
    inval (bit flags 1 && !regB s (canBase c + 0x300 + 8 * w) 31) 22,
    inval (!fd && decide (8 < dlc)) 21, inval (fd && (identRtr fr.ident || !canFd s c)) 16,
    inval (!bit flags 2 && decide (40 < frameLen fr)) 21,
    -- R434: a unit that appends needs room for its field
    inval (decide (frameLen fr < appendLen s 4 c.val)) 21,
    (if bit flags 2 then resv p 32 63 else (false, 0, 0)),
    denied (m == 0 || m == 2) 0x60, (decide (32 ≤ s.can[c].slots.length), 0x0080, 0),
    (if bit flags 2 then bufFailed f (frameLen fr) else (false, 0, 0))]

/-- R392: CAN_SEND places its frame in a free transmit slot. -/
def canSendNow (f : InFlight) (s : State) : State :=
  let c := canT f
  match tabFree s.can[c].slots 32 with
  | some i =>
    let (ap, nb) := match f.due with
      | .update a nb => (a, nb)
      | _ => (none, s.time.now)
    let fr := sendFrame f
    let e : CanSlot := { desc := f.id, frame := { fr with data := frameData fr }
                         scheduled := bit (pU f.payload 20 1) 1, window := Fin.ofNat 16 (pU f.payload 22 1)
                         apply := ap, since := nb }
    let s := modCan s c (fun x => { x with slots := tabPut x.slots i e, queued := x.queued + 1 })
    modFlight s f.id (fun f => { f with due := .running })
  | none => s

/-- R395: the checks of CAN_CANCEL. -/
def canCancelCheck (f : InFlight) (_s : State) : Option (Nat × Int) :=
  let p := f.payload
  firstFail [resv p 19 63, inval (decide (1 < pU p 16 1)) 16, inval (pU p 16 1 == 0 && decide (7 < pU p 17 1)) 17]

/-- R395: the slots a CAN_CANCEL names. -/
def cancelTargets (f : InFlight) (s : State) : List Nat :=
  let x := s.can[canT f]
  let p := f.payload
  if pU p 16 1 = 1 then x.slots.map (·.1)
  else
    let sq : Fin 8 := Fin.ofNat 8 (pU p 17 1)
    let ours (e : Nat × CanSlot) : Bool := match flightOf s e.2.desc with
      | some g => g.src == .sq sq && g.tag == BitVec.ofNat 8 (pU p 18 1)
      | none => false
    ((bestBy (fun (a b : Nat × CanSlot) => decide (a.2.desc < b.2.desc)) (x.slots.filter ours)).map (·.1)).toList

/-- R395: CAN_CANCEL. -/
def canCancelNow (f : InFlight) (s : State) : State :=
  let is := cancelTargets f s
  let s := is.foldl (fun s i => cancelFrame (canT f) i (cancelOf f) s) s
  complete f.id stOK is.length 0 (some (nowStamp s)) s

/-- R401: the checks of CAN_RECOVER. -/
def canRecoverCheck (f : InFlight) (s : State) : Option (Nat × Int) :=
  firstFail [resv f.payload 16 63, denied (s.can[canT f].state != .busOff) 0x61]

/-- R401: CAN_RECOVER begins the recovery sequence. -/
def canRecoverNow (f : InFlight) (s : State) : State :=
  let s := modCan s (canT f) (fun x => { x with recover := some f.id })
  let s := modFlight s f.id (fun f => { f with due := .running })
  setCanState (canT f) .recovering s

/-- R393: CAN_ELIGIBLE: the stamped frames whose apply time lies at or before the update point. -/
def canEligibleEff (c : Fin 2) (s : State) : State :=
  let u := s.time.now - s.time.now % 16000
  let due (e : CanSlot) : Bool := !e.scheduled && decide (e.since ≤ u) && (match e.apply with
    | some a => a.t == 0 || decide (toD0 s a ≤ u)
    | none => true)
  modCan s c (fun x => { x with slots := x.slots.map (fun e => (e.1, { e.2 with eligible := e.2.eligible || due e.2 })) })

/-! ### Reference messages (R402, R403) -/

/-- R402, R407: the identifier of a reference message of a rank. -/
def refIdent (s : State) (c : Fin 2) (rank : Nat) : Word :=
  let b := canBase c
  wireIdent (BitVec.ofNat 32 (((reg s (b + 0x34) + rank) % 2 ^ 29) + 2 ^ 29 * ofBool (regB s (b + 0x30) 7)))

/-- R407: rank, cycle length in LSB and the cycle count's modulus. -/
def canRank (s : State) (c : Fin 2) : Nat := regF s (canBase c + 0x30) 4 2
def cycleLsb (s : State) (c : Fin 2) : Nat := max 100 (regF s (canBase c + 0x30) 23 8) * usLsb
def cycleMod (s : State) (c : Fin 2) : Nat := 2 ^ min 6 (regF s (canBase c + 0x30) 26 24)

/-- R407: the scheduled class runs. -/
def schedOn (s : State) (c : Fin 2) : Bool := regB s (canBase c + 0x30) 0

/-- R402: the count of the cycle that begins next. -/
def nextCount (s : State) (c : Fin 2) : Nat := if s.can[c].running then (s.can[c].cycle + 1) % cycleMod s c else 0

/-- R402: the data of this controller's reference message; where no reference message came before, the stamp is a free
value. -/
def refBytes (c : Fin 2) (s : State) : List Byte × State :=
  let (x, s) := match s.can[c].prevSof with
    | some t => (t.toNat, s)
    | none => takeFree s
  (b1 (nextCount s c) ++ b1 (canRank s c) ++ leBytes 6 (x % 2 ^ 48), s)

/-- R402, R405: a cycle begins. -/
def beginCycle (c : Fin 2) (start : T64) (count : Nat) (s : State) : State :=
  modCan s c (fun x => { x with running := true, cycle := count, cycleStart := some start, opened := [] })

/-- R403: the master is the sender of the reference message. -/
def setMaster (c : Fin 2) (rank : Nat) (own : Bool) (s : State) : State :=
  let x := s.can[c]
  let was := disciplined s .d2
  let s := reDiscipline .d2 was (modCan s c (fun x => { x with masterRank := some rank, isMaster := own }))
  if x.masterRank = some rank && x.isMaster = own then s
  else emit (canHap c 5 .note (x.masterRank.getD 0) (b1 (x.masterRank.getD 0) ++ b1 rank)) s

/-- R403: while the master is itself, its D2 follows master_src. -/
def followSource (c : Fin 2) (s : State) : State :=
  if c != cantCtl s then s
  else match regF s (canBase c + 0x30) 6 5 with
    | 1 => if unset s .d1 then s else masterUpdateEff .d2 (domNow s .d1) s
    | 2 => if unset s .d3 then s else masterUpdateEff .d2 (domNow s .d3) s
    | _ => s

/-- R403: REF_MESSAGE_SEND: at a cycle start a potential master offers its reference message. The first cycle starts at
the first multiple of cycle_us since the scheduled class was enabled. -/
def refMessageSendEff (c : Fin 2) (s : State) : State :=
  let now := domNow s .d2
  let due := match s.can[c].cycleStart with
    | some t => decide ((cycleLsb s c : Int) ≤ diff64 now t)
    | none =>
      let first := now.toNat / cycleLsb s c * cycleLsb s c
      decide (s.can[c].schedSince.toNat ≤ first)
  if schedOn s c && regB s (canBase c + 0x30) 1 && canDrives s c && !s.can[c].refDue && due then
    modCan s c (fun x => { x with refDue := true })
  else s

/-- R403, R404: the reference message of this controller has been sent: its SOF is a cycle start. -/
def refSent (c : Fin 2) (start : T64) (s : State) : State :=
  let count := nextCount s c
  let s := modCan s c (fun x => { x with refDue := false, refSof := none, prevSof := some start })
  let s := setMaster c (canRank s c) true (beginCycle c start count s)
  followSource c s

/-- R5, R404: the value nearest D2 with the low 48 bits of a reference message. -/
def resolve48 (now : T64) (x : BitVec 48) : T64 := now + BitVec.ofInt 64 (x - now.setWidth 48).toInt

/-- R404: loss_count cycles have passed without a reference message. -/
def refLost (s : State) (c : Fin 2) : Bool :=
  match s.can[c].prevSof with
  | some t => decide ((max 1 (regF s (domBase 2) 7 4) * cycleLsb s c : Int) ≤ diff64 (domNow s .d2) t)
  | none => false

/-- R404: CAN_CYCLE_START: once loss_count cycles have passed without a reference message, cycle starts continue every
cycle_us of D2; the count goes on by 1 for each cycle since the last one that started (log 41). -/
def canCycleStartEff (c : Fin 2) (s : State) : State :=
  match s.can[c].cycleStart with
  | some t =>
    let n := (diff64 (domNow s .d2) t).toNat / cycleLsb s c
    let sends := regB s (canBase c + 0x30) 1 && canDrives s c
    if schedOn s c && !sends && refLost s c && decide (1 ≤ n) then
      beginCycle c (t + BitVec.ofNat 64 (n * cycleLsb s c)) ((s.can[c].cycle + n) % cycleMod s c) s
    else s
  | none => s

/-! ### Windows (R405) -/

/-- R405, R407: a window is enabled and belongs to the present cycle; its start and its length in LSB. -/
def windowSpan (s : State) (c : Fin 2) (w : Fin 16) : Option (T64 × Nat) :=
  let a := reg s (canBase c + 0x300 + 8 * w.val)
  let b := reg s (canBase c + 0x304 + 8 * w.val)
  let m := 2 ^ min 6 (bits b 8 6)
  match s.can[c].cycleStart with
  | some t =>
    if bit a 31 && s.can[c].cycle % m == bits b 5 0 % m then
      some (t + BitVec.ofNat 64 (bits a 15 0 * usLsb), max 1 (bits a 23 16) * 10 * usLsb)
    else none
  | none => none

/-- R405: CAN_WINDOW_OPEN. -/
def canWindowOpenEff (c : Fin 2) (w : Fin 16) (s : State) : State :=
  match windowSpan s c w with
  | some (t, len) =>
    let d := diff64 (domNow s .d2) t
    if schedOn s c && s.can[c].running && decide (0 ≤ d) && decide (d < len) && !s.can[c].opened.contains w then
      modCan s c (fun x => { x with
        open_ := (w, t + BitVec.ofNat 64 len) :: x.open_.filter (fun o => o.1 != w)
        opened := w :: x.opened
        slots := x.slots.map (fun e => (e.1, { e.2 with eligible := e.2.eligible || (e.2.scheduled && e.2.window == w) })) })
    else s
  | none => s

/-- R405: a window closes: its frames that have not reached SOF wait for its next opening. -/
def closeWindow (c : Fin 2) (w : Fin 16) (s : State) : State :=
  let missed (e : CanSlot) : Bool := e.scheduled && e.window == w && e.eligible && e.sof.isNone
  let n := (s.can[c].slots.filter (fun e => missed e.2)).length
  let s := modCan s c (fun x => { x with
    open_ := x.open_.filter (fun o => o.1 != w)
    slots := x.slots.map (fun e => (e.1, { e.2 with eligible := e.2.eligible && !missed e.2 })) })
  (List.range n).foldl (fun s _ => emit (canHap c 6 .warning w.val (b1 w.val ++ b1 s.can[c].cycle)) s) s

/-- R405: CAN_WINDOW_CLOSE. -/
def canWindowCloseEff (c : Fin 2) (w : Fin 16) (s : State) : State :=
  match s.can[c].open_.find? (fun o => o.1 == w) with
  | some (_, t) => if decide (0 ≤ diff64 (domNow s .d2) t) then closeWindow c w s else s
  | none => s

/-! ### Start of frame (R393) -/

/-- R393, R405: the slots that may be offered. -/
def offers (x : Can) : List (Nat × CanSlot) :=
  let sched := x.slots.any (fun e => e.2.scheduled && e.2.eligible)
  x.slots.filter (fun e => e.2.eligible && (e.2.scheduled || !sched))

/-- R393: the frame offered: lowest arbitration field, then lowest slot. -/
def offered (x : Can) : Option (Nat × CanSlot) :=
  bestBy (fun (a b : Nat × CanSlot) => decide (arbitration a.2.frame.ident < arbitration b.2.frame.ident)) (offers x)

/-- R46, R93, R394: the present start of frame as a stamp in the domain of the frame's descriptor. -/
def sofStamp (s : State) (desc : Nat) : Stamp :=
  match flightOf s desc with
  | some f => stampIn s f.descDom s.time.now
  | none => nowStamp s

/-- R393, R403: CAN_SOF. -/
def canSofEff (c : Fin 2) (s : State) : State :=
  if !canDrives s c || attempting s c then s
  else
    let ref := refIdent s c (canRank s c)
    let best := offered s.can[c]
    let refFirst := s.can[c].refDue && (match best with
      | some (_, e) => decide (arbitration ref ≤ arbitration e.frame.ident)
      | none => true)
    if refFirst then
      let (data, s) := refBytes c s
      let s := chkObserve 4 c.val 0 data s
      let s := modCan s c (fun x => { x with refSof := some (s.time.now, domNow s .d2), refData := data, busIdle := false })
      { s with out := s.out ++ [.can c ref data] }
    else match best with
      | some (i, e) =>
        -- R434: the check field is formed at the first attempt, and every attempt carries it
        let (data, s) := if e.attempts = 0 then chkOutgoingCan c.val e.frame.data s else (e.frame.data, s)
        let s := modCanSlot c i (fun e => { e with
          sof := some s.time.now, sofAt := some (sofStamp s e.desc), attempts := e.attempts + 1, frame := { e.frame with data := data } }) s
        let s := modCan s c (fun x => { x with busIdle := false })
        { s with out := s.out ++ [.can c e.frame.ident data] }
      | none => s

/-! ### Reception (R397–R399) -/

/-- R397: the filter that decides: its index and whether it sends to the bulk stream. -/
def canFilter (s : State) (c : Fin 2) (f : CanFrame) : Option (Nat × Bool) :=
  let x := f.ident.toNat
  let hit (k : Nat) : Bool :=
    let a := reg s (canBase c + 0x100 + 8 * k)
    let b := reg s (canBase c + 0x104 + 8 * k)
    bit a 31 && Nat.land (bits a 28 0) (bits b 28 0) == Nat.land (bits x 28 0) (bits b 28 0)
      && (!bit b 29 || bit a 29 == bit x 29) && (!bit b 30 || bit a 30 == bit x 31)
  ((List.range 64).find? hit).map (fun k => (k, regB s (canBase c + 0x104 + 8 * k) 31))

/-- R398: bytes 0 to 15 of a record. -/
def rxHead (s : State) (c : Fin 2) (r : RxFrame) (truncated : Bool) : List Byte :=
  let st := restamp s r.stamp.dom r.stamp
  leBytes 4 r.frame.ident.toNat
    ++ b1 (ofMask [r.frame.brs, r.frame.esi, r.loopback, truncated]) ++ b1 r.frame.dlc.toNat ++ b1 r.filter ++ b1 c.val
    ++ leBytes 8 st.t.toNat

/-- R398: the 32 bytes of a receive record. -/
def rxRecord (s : State) (c : Fin 2) (r : RxFrame) (phase : Bool) : BitVec 256 :=
  let data := frameData r.frame
  let bs := rxHead s c r (decide (12 < data.length)) ++ ((data ++ List.replicate 12 0).take 12)
    ++ leBytes 2 r.rxSeq.toNat ++ b1 (domCode r.stamp.dom + 128 * ofBool phase) ++ b1 0xFE
  BitVec.ofNat 256 (ofLe bs)

/-- R398: the 80-byte item of the bulk stream. -/
def rxItem (s : State) (c : Fin 2) (r : RxFrame) : List Byte :=
  rxHead s c r false ++ ((frameData r.frame ++ List.replicate 64 0).take 64)

/-- R398, R83: the completion ring takes receive records and has a slot that is neither reserved nor unreturned. -/
def rxRingFree (s : State) (c : Fin 2) : Option (Fin 8) :=
  let n : Fin 8 := Fin.ofNat 8 (regF s (canBase c + 0x1C) 2 0)
  if regB s (canBase c + 0x1C) 3 && ringOn s (cqBase n) && !s.host.cq[n].error && decide (0 < ringFree s (.cq n))
  then some n else none

/-- R398, R399: the frames that wait for the completion ring are written, in order of arrival, while there is room. -/
def canPumpN (c : Fin 2) : Nat → State → State
  | 0, s => s
  | k + 1, s =>
    match s.can[c].buffer.find? (fun r => !r.bulk), rxRingFree s c with
    | some r, some n =>
      let w := s.host.cq[n]
      let s := modCan s c (fun x => { x with buffer := x.buffer.erase r })
      let s := { s with out := s.out ++ [.completion n w.tail (entryAddr s (cqBase n) 32 w.tail) (rxRecord s c r w.phase)] }
      canPumpN c k (wroteEntry (.cq n) s)
    | _, _ => s

/-- R399: as many frames as the buffer can hold. -/
def canPump (c : Fin 2) (s : State) : State := canPumpN c 64 s

/-- R398, R399: the frames of both controllers that wait for a completion ring. -/
def canPumpAll (s : State) : State := canPump 1 (canPump 0 s)

/-- R397–R399: a good frame has been received. -/
def receiveFrame (c : Fin 2) (f : CanFrame) (sof : Int) (loopback : Bool) (s : State) : State :=
  -- R433, R434: the frame is delivered whole whatever a check finds
  let (_, _, s) := chkIncoming 4 c.val (frameData f) s
  let s := modCan s c (fun x => { x with rxSeq := x.rxSeq + 1 })
  let put (k : Nat) (bulk : Bool) (s : State) : State :=
    if 64 ≤ s.can[c].buffer.length then
      let s := modCan s c (fun x => { x with rxLost := x.rxLost + 1 })
      emitLim msLsb 0 (fun held => canHap c 3 .warning 0 (cnt1 (held + 1))) s
    else
      let d := domOf (regF s (canBase c) 9 8)
      let r : RxFrame := { frame := f, filter := k, loopback := loopback, stamp := stampIn s d sof
                           rxSeq := s.can[c].rxSeq, bulk := bulk }
      canPump c (modCan s c (fun x => { x with buffer := x.buffer ++ [r] }))
  match canFilter s c f with
  | some (k, bulk) => put k bulk s
  | none =>
    if regB s (canBase c + 0x1C) 4 then put 0xFF false s
    else modCan s c (fun x => { x with rxUnmatched := x.rxUnmatched + 1 })

/-- R400, ISO 11898-1: the receive counter after a good reception; above 127 it takes a value from 119 to 127, which the
manual leaves open. -/
def recGood (c : Fin 2) (s : State) : State :=
  let n := s.can[c].recN
  if 127 < n then
    let (x, s) := takeFree s
    settleCan c (modCan s c (fun y => { y with recN := 119 + x % 9 }))
  else settleCan c (modCan s c (fun y => { y with recN := n - 1 }))

/-- R400: one error frame. -/
def errorFrame (c : Fin 2) (kind : Nat) (dataPhase : Bool) (tecInc recInc : Nat) (s : State) : State :=
  let s := modCan s c (fun x => { x with
    lastErr := kind, inData := dataPhase, errFrames := satU 12 (x.errFrames + 1), busIdle := true
    tecN := min 256 (x.tecN + tecInc), recN := min 255 (x.recN + recInc) })
  let s := tallyLink (Fin.ofNat 8 (6 + c.val)) (loseAttempt c s)
  let s := emitLim msLsb 0 (fun held => { canHap c 4 .note kind (b1 kind ++ cnt1 held) with logged := true }) s
  settleCan c s

/-- R389, R400, ISO 11898-1: the controller takes part in the traffic of the bus: not while it is off, in internal
loop-back or in bus-off. -/
def canHears (s : State) (c : Fin 2) : Bool :=
  canMode s c != 0 && canMode s c != 3 && s.can[c].state != .busOff && s.can[c].state != .recovering

/-- R397, R389: CAN_RX_FRAME. -/
def canRxFrameEff (c : Fin 2) (f : CanFrame) (sofAge : Nat) (s : State) : State :=
  if !canHears s c then s
  else if identFd f.ident && !canFd s c then errorFrame c 2 false 0 1 s
  else
    let s := modCan (loseAttempt c s) c (fun x => { x with busIdle := true })
    receiveFrame c f ((s.time.now : Int) - sofAge) false (recGood c s)

/-- R404: REF_MESSAGE_RX: a reference message starts a cycle and gives a master update of D2; it is received
as any other frame (R397). The instant of the command is its SOF. -/
def refMessageRxEff (c : Fin 2) (count : BitVec 6) (rank : BitVec 3) (prevSof : BitVec 48) (s : State) : State :=
  if !schedOn s c || !canHears s c then s
  else
    let s := loseAttempt c s
    let s := if rank.toNat < canRank s c then modCan s c (fun x => { x with refDue := false }) else s
    let s := setMaster c rank.toNat false s
    let s := match s.can[c].prevSof with
      | some t =>
        if c = cantCtl s then
          masterUpdateEff .d2 (domNow s .d2 + (resolve48 (domNow s .d2) prevSof - t)) s
        else s
      | none => s
    let now := domNow s .d2
    let s := modCan s c (fun x => { x with prevSof := some now, busIdle := true })
    let s := beginCycle c now (count.toNat % cycleMod s c) s
    let fr : CanFrame := { ident := refIdent s c rank.toNat, brs := false, esi := false, dlc := 8
                           data := b1 count.toNat ++ b1 rank.toNat ++ leBytes 6 prevSof.toNat }
    receiveFrame c fr s.time.now false (recGood c s)

/-- R407: the code of an error. -/
def errCode : CanErr → Nat
  | .stuff => 1 | .form => 2 | .ack => 3 | .bit1 => 4 | .bit0 => 5 | .crc => 6 | .pex => 7

/-- R388, ISO 11898-1: a protocol exception sends no error frame and changes no counter. -/
def protocolException (c : Fin 2) (dataPhase : Bool) (s : State) : State :=
  let s := modCan (loseAttempt c s) c (fun x => { x with lastErr := 7, inData := dataPhase, busIdle := true })
  emitLim msLsb 0 (fun held => { canHap c 4 .note 7 (b1 7 ++ cnt1 held) with logged := true }) s

/-- R400: CAN_ERROR_FRAME. R388: what calls for a protocol exception is a form error while pex is 0. -/
def canErrorFrameEff (c : Fin 2) (e : CanErr) (dataPhase : Bool) (tecInc recInc : Nat) (s : State) : State :=
  if canMode s c == 0 || s.can[c].state == .busOff || s.can[c].state == .recovering then s
  else if e = .pex then
    if regB s (canBase c) 4 then protocolException c dataPhase s else errorFrame c 2 dataPhase tecInc recInc s
  else errorFrame c (errCode e) dataPhase tecInc recInc s

/-! ### A frame sent (R391, R394) -/

/-- R391: the delay measured on a frame that switched to the data rate. -/
def takeTdc (c : Fin 2) (fr : CanFrame) (tdc : Option (BitVec 8)) (s : State) : State :=
  match tdc with
  | some d =>
    if !regB s (canBase c + 0x10) 0 || !identFd fr.ident || !fr.brs || d.toNat < regF s (canBase c + 0x10) 14 8 then s
    else if 127 < d.toNat then
      emit (canHap c 7 .warning d.toNat (b1 d.toNat)) (modCan s c (fun x => { x with tdc := 127 }))
    else modCan s c (fun x => { x with tdc := d.toNat })
  | none => s

/-- R389: in the loop-back modes a sent frame is received. -/
def loopBack (c : Fin 2) (f : CanFrame) (sof : Nat) (s : State) : State :=
  if canMode s c == 3 || canMode s c == 4 then receiveFrame c f sof true s else s

/-- R394: CAN_TX_DONE: the attempt under way has succeeded. -/
def canTxDoneEff (c : Fin 2) (tdc : Option (BitVec 8)) (s : State) : State :=
  let good (s : State) : State :=
    settleCan c (modCan s c (fun x => { x with tecN := x.tecN - 1, busIdle := true }))
  match attempt s c, s.can[c].refSof with
  | some (i, e), _ =>
    let sof := e.sof.getD s.time.now
    let esi := identFd e.frame.ident && s.can[c].state == .passive
    let s := takeTdc c e.frame tdc (good s)
    let s := modCan s c (fun x => { x with
      slots := tabDel x.slots i
      sent := if e.cancel.isNone then x.sent + 1 else x.sent
      sentLate := if e.cancel.isSome then x.sentLate + 1 else x.sentLate })
    let s := complete e.desc (if e.cancel.isSome then stSentCancelLate else stOK) e.attempts s.can[c].tecN
      (some (e.sofAt.getD ⟨.d0, BitVec.ofNat 64 sof⟩)) s
    loopBack c { e.frame with esi := esi } sof s
  | none, some (sof, start) =>
    let fr : CanFrame := { ident := refIdent s c (canRank s c), brs := false, esi := false, dlc := 8, data := s.can[c].refData }
    loopBack c fr sof (refSent c start (good s))
  | none, none => s

/-- R401: CAN_RECOVERY_DONE. -/
def canRecoveryDoneEff (c : Fin 2) (s : State) : State :=
  if s.can[c].state != .recovering then s
  else
    let off := s.can[c].offSince
    let s := match s.can[c].recover with
      | some id => completeOk id (some (nowStamp s)) s
      | none => s
    let s := modCan s c (fun x => { x with tecN := 0, recN := 0, recover := none, busIdle := true })
    let s := setCanState c .active s
    emit (canHap c 2 .note 0 (leBytes 4 (satU 32 ((s.time.now - off) / usLsb)))) s

/-! ### Register writes (R389, R407) -/

/-- R404, R407: the scheduled class stops. -/
def stopSched (c : Fin 2) (s : State) : State :=
  let was := disciplined s .d2
  reDiscipline .d2 was (modCan s c (fun x => { x with
    running := false, isMaster := false, masterRank := none, cycleStart := none, prevSof := none, refDue := false
    refSof := none, open_ := [], opened := []
    slots := x.slots.map (fun e => (e.1, { e.2 with eligible := e.2.eligible && !e.2.scheduled })) }))

/-- R389, R407: a write of CAN_n_CFG. -/
def canCfgWrite (c : Fin 2) (v : Nat) (s : State) : State :=
  let b := canBase c
  let changes := bits v 3 0 != regF s b 3 0
  let m := bits v 2 0
  if changes && !s.can[c].slots.isEmpty then s
  else
    let bad := 1 ≤ m && m ≤ 4 && !timingOk (reg s (b + 8)) (reg s (b + 0xC))
    let v := if bad then putBits v 2 0 (regF s b 2 0) else v
    modCan (writeRw s b v) c (fun x => { x with timingBad := bad })

/-- R389, R390: a write of one of the bit-timing registers. -/
def canTimingWrite (c : Fin 2) (o v : Nat) (s : State) : State :=
  if !s.can[c].slots.isEmpty then s
  else
    let s := writeRw s o v
    let m := regF s (canBase c) 2 0
    let bad := 1 ≤ m && m ≤ 4 && !timingOk (reg s (canBase c + 8)) (reg s (canBase c + 0xC))
    modCan s c (fun x => { x with timingBad := bad })

/-- R407: a write of a register of controller `c` at relative offset `r`. -/
def canRegWrite (c : Fin 2) (r v : Nat) (s : State) : State :=
  let o := canBase c + r
  if r = 0 then canCfgWrite c v s
  else if r = 8 || r = 0xC then canTimingWrite c o v s
  else if r = 0x30 then
    if schedOn s c then (if bit v 0 then s else stopSched c (setReg s o (putBits (reg s o) 0 0 0)))
    else
      let s := writeRw s o v
      modCan s c (fun x => { x with schedSince := domNow s .d2 })
  else if (r = 0x34 || (0x300 ≤ r && r < 0x380)) && schedOn s c then s
  else if r = 0x1C then canPump c (writeRw s o v)
  else writeRw s o v

end Sys2Proof.Machine
end

