-- ==== Sys2Proof/Machine/Lanes.lean ====
section
/-!
DEFINITION. The canopy lanes (05): jobs and their grants (R141–R145, R15, R17), residue faults and quarantine (R133,
R155–R158), overruns (R144, R152–R154), the end of a job (R143), the self-test (R128) and the slack governor (R149–R151).
-/

namespace Sys2Proof.Machine

/-- The lane block changed. -/
def modCanopy (s : State) (f : CanopySt → CanopySt) : State := { s with canopy := f s.canopy }

/-- A lane changed. -/
def modLane (s : State) (k : Fin 9) (f : Lane → Lane) : State := modCanopy s (fun c => { c with lanes := upd c.lanes k f })

/-! ### Schedules -/

/-- The schedule of an owner. -/
def schedOf (s : State) : Owner → Sched → SchedSt
  | .slot n, .current => s.axis.slots[n].curSched
  | .slot n, .outer => s.axis.slots[n].outSched
  | .lattice n, _ => s.pins.ltc[n].sched

/-- The schedule of an owner changed. -/
def modSched (s : State) (o : Owner) (sc : Sched) (f : SchedSt → SchedSt) : State :=
  match o, sc with
  | .slot n, .current => modSlot s n (fun sl => { sl with curSched := f sl.curSched })
  | .slot n, .outer => modSlot s n (fun sl => { sl with outSched := f sl.outSched })
  | .lattice n, _ => modLtc s n (fun l => { l with sched := f l.sched })

/-- R160: the byte of a schedule. -/
def schedByte : Owner → Sched → Nat
  | .lattice _, _ => 2
  | .slot _, .current => 0
  | .slot _, .outer => 1

/-- R153: the stop group of a job's owner. -/
def ownerGroup (s : State) : Owner → Option (Fin 8)
  | .slot n => groupOf s n
  | .lattice n => s.pins.ltc[n].cfg.bind (fun c => groupOf s c.slot)

/-! ### Governor (R149–R152) -/

/-- R151: manual mode. -/
def govManual (s : State) : Bool := regB s 0x3008 0 && (s.life.state == .factory || s.life.state == .integration)

/-- R115, R149: the governor is active. -/
def govActive (s : State) : Bool := s.chip.fullService && !govManual s

/-- R159: vmin and vmax as they act. -/
def govMin (s : State) : Nat := min 36 (regF s 0x3008 23 16)
def govMax (s : State) : Nat := max (govMin s) (min 36 (regF s 0x3008 31 24))

/-- R149: the measured slack of a job, with its apply offset, in LSB. -/
def noteSlack (slack : Int) (j : Job) (s : State) : State :=
  let s := match j.owner with
    | .slot n => modSlot s n (fun sl => { sl with mon := (match j.sched with
        | .outer => { sl.mon with slackOut := Int.fdiv slack nsLsb }
        | .current => { sl.mon with slackCur := Int.fdiv slack nsLsb }) })
    | .lattice _ => s
  modCanopy s (fun c => { c with slacks := c.slacks ++ [(slack, (diff64 j.tApply.t j.ts.t).toNat)] })

/-- R150: since when the set value has been vmax, once it is set to a value. -/
def topSince (s : State) (v : Nat) : Option Nat :=
  if v ≠ govMax s then none else if s.canopy.vcode = v then s.canopy.topFrom else some s.time.now

/-- R152, R151: a boost; none is made while the governor is not active. -/
def boost (o : Owner) (sc : Sched) (s : State) : State :=
  if !govActive s then s
  else
    let before := s.canopy.vcode
    let hold := max 1 (regF s 0x3014 15 0) * msLsb
    let top := topSince s (govMax s)
    let s := modCanopy s (fun c => { c with vcode := govMax s, boostEnd := some (s.time.now + hold), topFrom := top })
    emit { source := 85, sev := .warning, idx := ownerByte o, payload := b1 (ownerByte o) ++ b1 (schedByte o sc) ++ b1 before } s

/-- R152: BOOST_EXPIRY: the hold ends. -/
def boostExpiryEff (s : State) : State :=
  match s.canopy.boostEnd with
  | some t => if t ≤ s.time.now then modCanopy s (fun c => { c with boostEnd := none }) else s
  | none => s

/-- R159: the slack that 99 % of a window's jobs meet, in % of their offsets. -/
def slackP99 (xs : List (Int × Nat)) : Nat :=
  let pct := sortBy (fun (a b : Nat) => decide (a ≤ b))
    (xs.map (fun x => (clampI 0 100 (Int.fdiv (x.1 * 100) (max 1 x.2 : Nat))).toNat))
  (pct[xs.length / 100]?).getD 0

/-- R149, R150: GOV_WINDOW: a window closes and the set value is adjusted. The manual does not say what slack_p99 shows after a window
without jobs: it keeps its value (log 47). -/
def govWindowEff (s : State) : State :=
  let c := s.canopy
  let n := c.slacks.length
  if n < 1024 ∧ s.time.now < c.windowFrom + msLsb then s
  else
    let under (pct : Nat) : Nat := (c.slacks.filter (fun x => decide (x.1 * 100 < ((pct * x.2 : Nat) : Int)))).length
    let target := max 25 (min 75 (regF s 0x3008 15 8))
    let m25 := under target
    let m40 := under (target + 15)
    let s := modCanopy s (fun c => { c with
      slacks := [], windowFrom := s.time.now, slackP99 := if n = 0 then c.slackP99 else slackP99 c.slacks })
    if !govActive s then s
    else
      let held := match c.boostEnd with
        | some t => decide (s.time.now < t)
        | none => false
      let (v, quiet) : Nat × Nat :=
        if held then (govMax s, c.quiet)
        else if n < m25 * 100 then (min (c.vcode + 4) (govMax s), c.quiet)
        else if m40 * 100 ≤ n then (if 16 ≤ c.quiet + 1 then (max (c.vcode - 1) (govMin s), 0) else (c.vcode, c.quiet + 1))
        else (c.vcode, 0)
      let whole : Bool := c.vcode == govMax s && (match c.topFrom with
        | some t => decide (t ≤ c.windowFrom)
        | none => false)
      let top := if whole then min 31 (c.atVmax + 1) else 0
      let miss := decide (n < m25 * 100)
      let short := if miss then c.short || decide (16 ≤ top) else false
      let since := topSince s v
      let s := modCanopy s (fun c => { c with vcode := v, quiet := quiet, atVmax := top, short := short, topFrom := since })
      if short && !c.short then
        emit { source := 87, sev := .warning, payload := b1 s.canopy.slackP99 ++ b1 v } s
      else s

/-- R151, R159: a write of CANOPY_GOV_CFG or CANOPY_GOV_VSET, a change of the lifecycle or the start of full service: in manual mode the
core runs at vset. -/
def govFollow (s : State) : State :=
  if govManual s && s.chip.fullService then modCanopy s (fun c => { c with vcode := min 36 (regF s 0x300C 5 0) }) else s

/-! ### Overruns (R144, R152, R153) -/

/-- R152: the held output of a job that overran; none where the output keeps acting by itself. The manual does not say what a velocity or
position loop holds before two outputs have been applied: the one applied, or nothing (log 47). -/
def heldOutput (sc : SchedSt) : Option OutVal :=
  match sc.applied with
  | .current a :: .current b :: _ => some (.current (satS 24 (2 * a - b)))
  | .step _ :: _ | .rate _ :: _ => none
  | x :: _ => some x
  | [] => none

/-- R152: the held output waits for the sample's t_apply. -/
def holdOutput (j : Job) (s : State) : State :=
  match j.owner with
  | .lattice n => latticeHold n j.ts.t s
  | o => match heldOutput (schedOf s o j.sched) with
    | some v => modSched s o j.sched (fun c => { c with latch := c.latch ++ [{ val := v, tApply := j.tApply, held := true }] })
    | none => s

/-- R30, R152, R153: a job has overrun. -/
def overrun (j : Job) (s : State) : State :=
  let o := j.owner
  let sc := schedOf s o j.sched
  let recent := j.sample :: sc.overruns.filter (fun x => decide (j.sample - x ≤ 63))
  let run := sc.lastOverrun = some (j.sample - 1) ∧ 0 < j.sample
  let s := modCanopy s (fun c => { c with overruns := c.overruns + 1 })
  let s := noteSlack (-1) j s
  let s := modSched s o j.sched (fun c => { c with overruns := recent, lastOverrun := some j.sample })
  let s := holdOutput j s
  let (s, e, _) := raiseHap s { source := 84, sev := .note, logged := true, idx := ownerByte o, parent := j.entry
                                payload := b1 (ownerByte o) ++ b1 (schedByte o j.sched) ++ b1 recent.length }
  let s := match j.entry with
    | some r => endHandling s r true
    | none => s
  let s := if run then boost o j.sched s else s
  if 4 ≤ recent.length then
    match ownerGroup s o with
    | some g => raiseSs1 { source := 86, sev := .stop, idx := ownerByte o, parent := e, handler := 2
                           payload := b1 (ownerByte o) ++ b1 g } 1 [g] s
    | none => s
  else s

/-- R144: the job of a lane is abandoned: its staged stores are discarded, and it is an overrun. -/
def abandon (k : Fin 9) (s : State) : State :=
  match s.canopy.lanes[k].run with
  | some r => overrun r.job (modLane s k (fun l => { l with run := none, cut := some (r, s.time.now) }))
  | none => s

/-- The D0 instant of a job's deadline. -/
def deadlineD0 (s : State) (j : Job) : Int := toD0 s j.deadline

/-- R144, R158: JOB_DEADLINE: the job of a schedule has not passed its residue check by its deadline. -/
def jobDeadlineEff (o : Owner) (sc : Sched) (s : State) : State :=
  let mine (j : Job) : Bool := j.owner == o && (j.sched == sc || (match o with | .lattice _ => true | _ => false))
  let late (j : Job) : Bool := decide (deadlineD0 s j ≤ s.time.now)
  match (schedOf s o sc).forming with
  | some j => if late j then overrun j (modSched s o sc (fun c => { c with forming := none })) else s
  | none =>
    match s.canopy.queue.find? mine with
    | some j => if late j then overrun j (modCanopy s (fun c => { c with queue := c.queue.filter (fun x => !mine x) })) else s
    | none =>
      match (List.finRange 9).find? (fun k => match s.canopy.lanes[k].run with
          | some r => mine r.job && late r.job
          | none => false) with
      | some k => abandon k s
      | none => s

/-! ### Grants (R15, R17, R127, R145) -/

/-- R145: a job is queued. -/
def queueJob (j : Job) (s : State) : State :=
  modCanopy s (fun c =>
    let q := c.queue ++ [j]
    { c with queue := q, peak := max c.peak q.length })

/-- R15: the requester index of a job. -/
def jobIndex (j : Job) : Nat := match j.owner with
  | .slot n => n
  | .lattice n => 32 + n

/-- R472: the recompute of a job waits for another handling. -/
def jobHeld (s : State) (j : Job) : Bool :=
  match j.entry.bind (entryAt s) with
  | some e => e.hstate == .waiting || e.hstate == .preempted
  | none => false

/-- R15: the job granted first. The manual gives the current and the outer job of one slot the same index: at equal deadlines the one
queued first is granted (log 47). -/
def firstJob (s : State) (js : List Job) : Option Job :=
  bestBy (fun (a b : Job) => decide (deadlineD0 s a < deadlineD0 s b)
    || (deadlineD0 s a == deadlineD0 s b && decide (jobIndex a < jobIndex b))) js

/-- R126: the spare lane. -/
def spareLane (s : State) : Option (Fin 9) := (List.finRange 9).find? (fun k => s.canopy.lanes[k].state == .spare)

/-- R126: how many lanes are in service. -/
def inService (s : State) : Nat := ((List.finRange 9).filter (fun k => s.canopy.lanes[k].state == .inService)).length

/-- R15: the lowest free lane in service. -/
def freeLane (s : State) : Option (Fin 9) :=
  (List.finRange 9).find? (fun k => s.canopy.lanes[k].state == .inService && s.canopy.lanes[k].run.isNone)

/-- R141: where a leaf starts: its header in program RAM; the place of a vendor leaf in ROM is not given, and 0 stands for it. -/
def leafStart (s : State) (ident : Byte) : Nat :=
  match tabGet s.canopy.leaves ident.toNat with
  | some u => 3072 + u.entry
  | none => 0

/-- R129: a lane starts a job with everything cleared. -/
def startJob (k : Fin 9) (j : Job) (s : State) : State :=
  let pc := match j.leaves with
    | i :: _ => leafStart s i
    | [] => 0
  let s := modCanopy s (fun c => { c with
    queue := c.queue.filter (fun x => !(x.owner == j.owner && x.sched == j.sched))
    recomputes := if j.recompute then c.recomputes + 1 else c.recomputes })
  modLane s k (fun l => { l with run := some { job := j, pc := pc }, cut := none })

/-- R127, R155, R157: the lane that a recompute goes to: the spare, also where it has just taken the place of the lane that made the
fault; without a spare, the first in service that is free. -/
def recomputeLane (s : State) (j : Job) : Option (Fin 9) :=
  let free (k : Fin 9) : Option (Fin 9) := if s.canopy.lanes[k].run.isNone then some k else none
  match spareLane s, j.onLane.filter (fun k => s.canopy.lanes[k].state == .inService) with
  | some k, _ => free k
  | none, some k => free k
  | none, none => freeLane s

/-- R17, R127: JOB_GRANT: recomputes first, on the spare while there is one; then the job of the earliest deadline. -/
def jobGrantEff (s : State) : State :=
  let again := firstJob s (s.canopy.queue.filter (fun j => j.recompute && !jobHeld s j))
  match again, again.bind (recomputeLane s) with
  | some j, some k => startJob k j s
  | _, _ =>
    match firstJob s (s.canopy.queue.filter (fun j => !j.recompute)), freeLane s with
    | some j, some k => startJob k j s
    | _, _ => s

/-! ### Quarantine (R157, R128, R126) -/

/-- R157: a residue fault counted on its lane. -/
def noteFault (k : Fin 9) (s : State) : State :=
  let now := s.time.now
  modLane s k (fun l => { l with
    total := satU 16 (l.total + 1), faults := (l.faults.filter (fun t => decide (now < t + secLsb))) ++ [now] })

/-- R157: a lane goes out of service and the spare takes its place; SPARE_LOST or LANE_DEGRADED. -/
def quarantineLane (k : Fin 9) (parent : Option EntryRef) (s : State) : State :=
  let was := s.canopy.lanes[k].state
  let s := modLane s k (fun l => { l with state := .quarantined })
  if was = .spare then
    emit { source := 82, sev := .warning, handler := 1, parent := parent, payload := b1 (inService s) } s
  else if was = .inService then
    match spareLane s with
    | some j =>
      let s := modLane s j (fun l => { l with state := .inService })
      emit { source := 82, sev := .warning, handler := 1, parent := parent, payload := b1 (inService s) } s
    | none =>
      let s := modCanopy s (fun c => { c with degraded := true })
      emit { source := 83, sev := .fault, handler := 1, parent := parent, payload := b1 (inService s) } s
  else s

/-- R157: LANE_QUARANTINE is raised and, when its handling starts, the lane goes out of service. -/
def raiseQuarantine (k : Fin 9) (parent : Option EntryRef) (s : State) : State :=
  if s.canopy.lanes[k].state = .spare then quarantineLane k parent s
  else
    let (x, s) := takeFree s
    let by' : Nat := match spareLane s with
      | some j => j
      | none => x % 256
    let (s, r, go) := raiseHap s { source := 81, sev := .fault, idx := k, parent := parent, handler := 1, action := some .isolate
                                   payload := b1 k ++ b1 by' }
    if go then
      let s := quarantineLane k r s
      match r with
      | some r => endHandling s r false
      | none => s
    else s

/-- R17: whether a job waits that a lane would be granted before a maintenance request. -/
def jobWaits (s : State) (k : Fin 9) : Bool :=
  s.canopy.queue.any (fun j => if j.recompute then !jobHeld s j && (recomputeLane s j == some k || (spareLane s).isNone)
    else s.canopy.lanes[k].state == .inService)

/-- R128, R17: LANE_SELFTEST: a free lane that no job waits for has run its self-test leaf. R157: what the spare's shows counts among
its faults. -/
def laneSelftestEff (k : Fin 9) (failed : Option Byte) (s : State) : State :=
  let l := s.canopy.lanes[k]
  if (l.state = .inService ∨ l.state = .spare) ∧ l.run.isNone ∧ !jobWaits s k then
    match failed with
    | some op =>
      let s := if l.state = .spare then noteFault k s else s
      let (s, r, _) := raiseHap s { source := 90, sev := .fault, idx := k, handler := 1, payload := b1 k ++ [op] }
      quarantineLane k r s
    | none => s
  else s

/-! ### Residue faults (R133, R155–R158) -/

/-- R157: whether a lane has made its third fault within 1 s. -/
def thirdFault (s : State) (k : Fin 9) : Bool := decide (3 ≤ s.canopy.lanes[k].faults.length)

/-- R160: LANE_RESIDUE of a run. -/
def residueHap (k : Fin 9) (r : LaneRun) (op by' : Nat) : Hap :=
  let j := r.job
  { source := 80, sev := .warning, idx := k, parent := if j.recompute then j.entry else none
    payload := b1 k ++ b1 (ownerByte j.owner) ++ b1 ((j.leaves[r.leaf]?).getD 0).toNat ++ leBytes 2 op ++ b1 by'
    action := if j.recompute || by' == 0xFE then none else some (.recompute j.owner j.sched) }

/-- R133, R155–R157: a residue fault at an operation of a lane's job. The recompute of a third fault is kept for the spare. -/
def residueFault (k : Fin 9) (op : Nat) (s : State) : State :=
  match s.canopy.lanes[k].run with
  | none => s
  | some r =>
    let j := r.job
    let s := noteFault k (modLane s k (fun l => { l with run := none }))
    let by' : Nat := if j.recompute then 0xFE else match spareLane s with
      | some x => x
      | none => 0xFF
    let (s, e, _) := raiseHap s (residueHap k r op by')
    let s := if j.recompute then overrun j s
      else queueJob { j with recompute := true, entry := e, onLane := if thirdFault s k then spareLane s else none } s
    if thirdFault s k then raiseQuarantine k e s else s

/-- R158: a residue fault at the operation boundary at which the deadline has just ended the job: the fault is counted and raised, and
nothing is recomputed. -/
def lateFault (k : Fin 9) (s : State) : State :=
  match s.canopy.lanes[k].cut with
  | none => s
  | some (r, _) =>
    let s := noteFault k (modLane s k (fun l => { l with cut := none }))
    let (s, e, _) := raiseHap s (residueHap k r (r.ops + 1) 0xFE)
    if thirdFault s k then raiseQuarantine k e s else s

/-! ### The end of a job (R143) -/

/-- R143: the staged stores are written to the Glade as one write. -/
def commitStores (r : LaneRun) (s : State) : State :=
  let sp := spaceOf s r.job.owner
  r.staged.reverse.foldl (fun s (x : Nat × BitVec 24) =>
    match relAddr sp x.1 with
    | some (a, _, _) => countRange a 1 (modGlade s (fun g => { g with
        words := cellPut zero0 g.words a x.2.toNat, fog := g.fog.filter (· != a) }))
    | none => s) s

/-- Values nowhere given: the output that a user leaf's OUT words make of a job's (log 24). -/
def freeOut (v : OutVal) (s : State) : OutVal × State :=
  let (a, s) := takeFree s
  let (b, s) := takeFree s
  let (c, s) := takeFree s
  match v with
  | .duty3 _ _ _ => (.duty3 (a % 65536) (b % 65536) (c % 65536), s)
  | .duty2 _ _ => (.duty2 (a % 65536) (b % 65536), s)
  | .current _ => (.current (sext 24 a), s)
  | .step _ => (.step (sext 64 a), s)
  | .rate _ => (.rate (sext 32 a), s)
  | .band _ => (.band (sext 24 a), s)
  | .words ws => (.words ws, s)

/-- R141, R143, R188: what a job's leaves leave: the typed state of the vendor leaves and the output. -/
def jobLaw (r : LaneRun) (s : State) : State × Option OutVal :=
  match r.job.owner with
  | .lattice n => (latticeLaw n r.job.ts.t s, none)
  | .slot n =>
    let (s, v) := slotLaw n r.job.sched r.job.ins s
    let user := r.job.leaves.any (fun i => decide (0x80 ≤ i.toNat)) && r.outs.toList.any Option.isSome
    if user then
      let (v, s) := freeOut v s
      (s, some v)
    else (s, some v)

/-- R182: entries `is` of a table, as Folio addresses; an index beyond an end reads the end. -/
def tableEntries (t : Table) (is : List Int) : List Nat := is.map (fun i => t.base + min i.toNat (t.len - 1))

/-- R205, R182: the entries that REP_MAP reads in an outer job. -/
def repEntries (s : State) (n : Fin 32) : List Nat :=
  let sl := s.axis.slots[n]
  match sl.bind.bind (fun b => b.repTable.bind (tabGet s.glade.tables)) with
  | some t =>
    if sl.mode = .manual ∨ !sl.out.rep.loaded then []
    else
      let (_, i, k, _) := repPhase sl.out.rep t (p48 sl.fb.meas) (takeFree s).1
      tableEntries t [i, k]
  | none => []

/-- R240, R182: the entries that FOLIO_INTERP reads for a cam: those at the cam position and at its base. -/
def camEntries (s : State) (n : Fin 32) : List Nat :=
  let sl := s.axis.slots[n]
  let g := sl.gear
  if sl.source ≠ .cam then []
  else match tabGet s.glade.tables g.table with
    | none => []
    | some t =>
      let near (x : Int) : List Int :=
        let (i, _, held, _) := camIndex g t.len x
        let is := if held then [i] else if g.cubic then [i - 1, i, i + 1, i + 2] else [i, i + 1]
        if g.periodic then is.map (· % (max 1 t.len : Nat)) else is
      tableEntries t (near (g.m + g.x0) ++ near g.x0)

/-- R270, R182: the entries that FOLIO_INTERP reads to compensate a remote channel. -/
def compEntries (s : State) (n : Fin 32) : List Nat :=
  let sl := s.axis.slots[n]
  match sl.fb.pecAt, sl.bind with
  | some ref, some b =>
    if (portOf b.fbSource).isSome then []
    else match tabGet s.glade.tables sl.fb.pecSet.table with
      | none => []
      | some t =>
        let (i, _, _) := pecIndex sl.fb.pecSet.x0 sl.fb.pecSet.step ref
        tableEntries t (if i < 0 then [0] else [i, i + 1])
  | _, _ => []

/-- R182: the Folio entries that a job's vendor leaves read. -/
def jobEntries (s : State) (j : Job) : List Nat :=
  let has (x : Nat) : Bool := j.leaves.any (fun l => l.toNat == x)
  match j.owner with
  | .slot n => (if has 0x31 then repEntries s n else []) ++ (if has 0x30 then camEntries s n ++ compEntries s n else [])
  | .lattice _ => []

/-- R182: whether a job's vendor leaves read a poisoned Folio entry. -/
def jobPoison (s : State) (j : Job) : Bool := (jobEntries s j).any (fun a => s.glade.folioBad.contains a)

/-- R143, R29, R182: the job of a lane has passed its residue check: it commits, and its output waits for t_apply. -/
def jobDone (k : Fin 9) (r : LaneRun) (s : State) : State :=
  let j := r.job
  let slack := deadlineD0 s j - s.time.now
  if slack < 0 || jobPoison s j then abandon k s
  else
    let s := modLane s k (fun l => { l with run := none })
    let s := commitStores r (fogLeaves j.owner (j.leaves.map BitVec.toNat) s)
    let (s, v) := jobLaw r s
    let s := match j.owner with
      | .slot n => modSlot s n (fun sl => { sl with mon := (match j.sched with
          | .outer => { sl.mon with outsOut := r.outs.toList }
          | .current => { sl.mon with outsCur := r.outs.toList }) })
      | .lattice _ => s
    let s := match v with
      | some v => modSched s j.owner j.sched (fun c => { c with latch := c.latch ++ [{ val := v, tApply := j.tApply }] })
      | none => s
    let s := noteSlack slack j s
    match j.entry with
    | some e => endHandling s e false
    | none => s

/-- R134: a word of the program store found in error, corrected or not. -/
def pstoreEcc (a : Nat) (e : Ecc) (s : State) : State :=
  match e with
  | .clean => s
  | .corrected => emit { source := 89, sev := .note, logged := true, payload := leBytes 2 a }
      (modCanopy s (fun c => { c with eccFixed := satU 16 (c.eccFixed + 1) }))
  | .bad =>
    let s := modCanopy s (fun c => { c with
      eccBad := satU 16 (c.eccBad + 1), badProgram := if c.badProgram.contains a then c.badProgram else c.badProgram ++ [a] })
    let (s, r, _) := raiseHap s { source := 89, sev := .fault, payload := leBytes 2 a }
    voidCause 0 r s

/-- R159: PSW_DATA_READ: the word at the window's address, which then rises by 1. -/
def pswReadEff (s : State) : State :=
  let a := regF s 0x3080 11 0
  let w := if a < 3072 then Config.rom a else BitVec.ofNat 32 (ramWord s (a - 3072))
  { setReg s 0x3080 ((a + 1) % 4096) with out := s.out ++ [.words [w]] }

end Sys2Proof.Machine
end

