-- ==== Sys2Proof/Machine/Quire.lean ====
section
/-!
DEFINITION. The Quire (15): signals (R409–R412), averaging (R413), memory and counts (R414, R415), the sequencer
(R416–R418), mask tests (R419–R422), its commands (R423–R425), and the stream rings (R77, R78, R398, R426, R427).
-/

namespace Sys2Proof.Machine

/-- The Quire changed. -/
def modQuire (s : State) (f : QuireSt → QuireSt) : State := { s with quire := f s.quire }

/-- R423, R424: a capture is armed or triggered. -/
def quireArmed (s : State) : Bool := s.quire.state == .armed || s.quire.state == .triggered

/-! ### Channels and signals (R409, R410) -/

/-- R429: the slot, the signal and the enable of a channel. -/
def chanSlot (s : State) (c : Fin 16) : Fin 32 := Fin.ofNat 32 (regF s (0xC100 + 4 * c.val) 4 0)
def chanSignal (s : State) (c : Fin 16) : Nat := regF s (0xC100 + 4 * c.val) 10 5
def chanOn (s : State) (c : Fin 16) : Bool := regB s (0xC100 + 4 * c.val) 11

/-- R429: the skew of a channel, LSB. -/
def chanSkew (s : State) (c : Fin 16) : Int := sext 24 (reg s (0xC140 + 4 * c.val))

/-- R409: the capture's channels, in ascending order. -/
def quireChans (s : State) : List (Fin 16) := (List.finRange 16).filter (chanOn s)

/-- R410: the kinds of signals. -/
def signalIsP (code : Nat) : Bool := code == 0x00 || code == 0x03 || code == 0x1E
def signalIsF (code : Nat) : Bool := code == 0x21

/-- R216: SLOT_n_STATUS bits [31:16]. -/
def slotFlags (s : State) (n : Fin 32) : Nat :=
  let sl := s.axis.slots[n]
  let k : Option Kind := sl.bind.map (fun b => b.kind)
  let dc := (sl.bind.map (fun b => b.curLeaf)) == some 0x02
  let two := (sl.bind.map (fun b => b.structureCode)) == some 1
  let drive : Bool := match k with
    | some .servo => if dc then sl.cur.dc.drive else sl.cur.q.drive
    | some .band => if two then sl.out.two.hi else sl.out.band.drive
    | _ => false
  let sat : Bool := match k with
    | some .servo => if dc then sl.cur.dc.sat else sl.cur.d.sat || sl.cur.q.sat
    | some .band => !two && sl.out.band.sat
    | _ => false
  let ss1 : Bool := match groupOf s n with
    | some g => s.axis.groups[g].ss1
    | none => false
  ofMask [sl.out.plaus.coasting, drive, sl.out.vel.drive, sl.out.pos.drive, sat, sl.out.vel.sat, sl.out.pos.sat,
    sl.out.vel.inB, sl.out.pos.inB, ss1]

/-- R410: the duty words of an applied output. -/
def dutyAt (v : Option OutVal) (k : Nat) : Int :=
  match v with
  | some (.duty3 u v w) => ((([u, v, w][k]?).getD 0 : Nat) : Int)
  | some (.duty2 a b) => ((([a, b][k]?).getD 0 : Nat) : Int)
  | _ => 0

/-- R410: an OUT word; what a vendor leaf puts out under a number is not given, so that word is a free value. -/
def outWord (ws : List (Option (BitVec 24))) (k : Nat) (s : State) : Int × State :=
  match ws[k]? with
  | some (some w) => (w.toInt, s)
  | _ =>
    let (x, s) := takeFree s
    (sext 24 x, s)

/-- R410: the present value of a signal of a slot: kind P in units of 2^-16 counts. -/
def signalNow (n : Fin 32) (code : Nat) (s : State) : Int × State :=
  let sl := s.axis.slots[n]
  let m := sl.mon
  let ep : Option Endpoint := (axisOf s n).map (fun x => s.link.eps[x.1])
  let ax : Nat := ((axisOf s n).map (fun x => x.2)).getD 0
  let geared := sl.source == .gear || sl.source == .cam
  let w16 (x : Int) : Int := roundDiv x 65536
  if 0x30 ≤ code ∧ code ≤ 0x37 then outWord m.outsOut (code - 0x30) s
  else if 0x38 ≤ code ∧ code ≤ 0x3F then outWord m.outsCur (code - 0x38) s
  else
    let v : Int := match code with
      | 0x00 => p48 sl.cmdP
      | 0x01 => sl.cmdV
      | 0x02 => sl.cmdA
      | 0x03 => p48 sl.fb.meas
      | 0x04 => sl.fb.v
      | 0x05 => m.ep
      | 0x06 => m.ev
      | 0x07 => (match sl.outSched.applied.head? with
          | some (.current i) => i
          | _ => 0)
      | 0x08 => m.iq
      | 0x09 => m.id
      | 0x0A => m.iU
      | 0x0B => m.iV
      | 0x0C => m.iW
      | 0x0D => dutyAt sl.curSched.applied.head? 0
      | 0x0E => dutyAt sl.curSched.applied.head? 1
      | 0x0F => dutyAt sl.curSched.applied.head? 2
      | 0x10 => ((((ep.bind (fun e => tabGet e.bus ax)).getD 0 : Nat)) : Int)
      | 0x11 => w16 sl.out.vel.i
      | 0x12 => w16 sl.out.pos.i
      | 0x13 => w16 (if (sl.bind.map (fun b => b.curLeaf)) == some 0x02 then sl.cur.dc.i else sl.cur.q.i)
      | 0x14 => w16 sl.out.dob.est
      | 0x15 => m.ffc
      | 0x16 => sl.out.plaus.rv
      | 0x17 => sl.out.plaus.rp
      | 0x18 => roundDiv sl.out.plaus.vm (2 ^ 32)
      | 0x19 => m.pec
      | 0x1A => m.rep
      | 0x1B => m.band
      | 0x1C => (match sl.outSched.applied.head? with
          | some (.band f) => f
          | _ => 0)
      | 0x1D => sl.step.owed
      | 0x1E => (((slotC s n).toNat : Nat) : Int) * 65536
      | 0x1F => m.slackOut
      | 0x20 => m.slackCur
      | 0x21 => ((slotFlags s n : Nat) : Int)
      | 0x22 => (ep.map (fun e => sext 8 e.temp.toNat)).getD 0
      | 0x23 => if geared then roundDiv sl.gen.p (2 ^ 48) else 0
      | _ => 0
    (v, s)

/-- R410: where a signal's native instants lie: schedule, and whether at its applies. -/
def signalClass (code : Nat) : Sched × Bool :=
  if code == 0x07 || code == 0x1C || (0x30 ≤ code && code ≤ 0x37) then (.outer, true)
  else if (0x0D ≤ code && code ≤ 0x0F) || 0x38 ≤ code then (.current, true)
  else if (0x08 ≤ code && code ≤ 0x0C) || code == 0x10 || code == 0x13 || code == 0x20 || code == 0x22 then (.current, false)
  else (.outer, false)

/-- A job of a schedule has been made and has not ended. -/
def jobPending (s : State) (o : Owner) (sc : Sched) : Bool :=
  let is (j : Job) : Bool := j.owner == o && j.sched == sc
  (schedOf s o sc).forming.isSome || s.canopy.queue.any is || s.canopy.lanes.toList.any (fun l => match l.run with
    | some r => is r.job
    | none => false)

/-- R410: the newest native instant of a channel whose value is final. -/
def nativeInstant (s : State) (n : Fin 32) (code : Nat) : Option T64 :=
  let sl := s.axis.slots[n]
  match sl.bind with
  | none => none
  | some b =>
    if sl.mode = .off then none
    else
      let (sc, applied) := signalClass code
      -- a slot without a current schedule takes its current signals at the outer samples
      let sc := if b.kind = .servo then sc else .outer
      let d := schedOf s (.slot n) sc
      if applied then d.appliedAt
      else if jobPending s (.slot n) sc then none
      else d.next.map (fun t => t - BitVec.ofNat 64 (match sc with
        | .current => curPeriod b
        | .outer => outPeriod b))

/-- R412, R429: a native value joins a channel's history, which goes back as far as two skews, 2^24 LSB, can ask for. -/
def keepNative (t : T64) (v : Int) (h : List (T64 × Int)) : List (T64 × Int) :=
  let (near, far) := h.span (fun x => decide (diff64 t x.1 ≤ 2 ^ 25))
  (t, v) :: near ++ far.take 1

/-- R412: the native values of the enabled channels are kept while they may be needed. -/
def noteNative (s : State) : State :=
  (quireChans s).foldl (fun s (c : Fin 16) =>
    match nativeInstant s (chanSlot s c) (chanSignal s c) with
    | some t =>
      if (s.quire.history[c].head?.map (fun h => h.1)) == some t then s
      else
        let (v, s) := signalNow (chanSlot s c) (chanSignal s c) s
        modQuire s (fun q => { q with history := upd q.history c (keepNative t v) })
    | none => s) s

/-! ### Samples (R411–R413) -/

/-- R412: the value of a channel at an instant; none while its later native value does not exist. A slot in OFF presents its
last value. -/
def valueAt (s : State) (c : Fin 16) (t : T64) : Option Int :=
  let h := s.quire.history[c]
  let n := chanSlot s c
  let off := s.axis.slots[n].mode == .off || s.axis.slots[n].bind.isNone
  let after := (h.filter (fun x => decide (0 < diff64 x.1 t))).getLast?
  match h.find? (fun x => decide (diff64 x.1 t ≤ 0)) with
  | some a =>
    if a.1 = t then some a.2
    else match after with
      | some b =>
        if signalIsF (chanSignal s c) then some a.2
        else
          let d := if signalIsP (chanSignal s c) then wrapS 48 (b.2 - a.2) else b.2 - a.2
          some (a.2 + roundDiv (d * diff64 t a.1) (diff64 b.1 a.1).toNat)
      | none => if off then some a.2 else none
  | none =>
    match after with
    | some b => some b.2
    | none => if off then some 0 else none

/-- A quotient rounded to the nearest, ties away from zero. -/
def roundAway (n : Int) (d : Nat) : Int := sgn n * ((2 * n.natAbs + d) / (2 * d) : Nat)

/-- R413: the added bits kept. -/
def addedBits (n : Nat) : Nat := n / 2

/-- R413: the stored word of a channel from the values of an interval, oldest first. -/
def storedWord (code avg : Nat) (vs : List Int) : Word :=
  let res := addedBits avg
  if signalIsF code then BitVec.ofInt 32 (vs.getLast?.getD 0)
  else if signalIsP code then
    let v0 := vs.headD 0
    let sum := (vs.map (fun v => wrapS 48 (v - v0))).foldl (· + ·) 0
    BitVec.ofInt 32 (Int.fdiv ((v0 * 2 ^ avg + sum) * 2 ^ (8 + res)) (2 ^ (16 + avg)))
  else BitVec.ofInt 32 (satS 32 (roundAway (vs.foldl (· + ·) 0) (2 ^ (avg - res))))

/-- R417: a value as a word with res 0. -/
def levelWord (code : Nat) (v : Int) : Word := storedWord code 0 [v]

/-- R417, R6: whether a value lies at or above a level. -/
def atLeast (code : Nat) (v : Int) (level : Word) : Bool :=
  if signalIsP code then decide (0 ≤ (levelWord code v - level).toInt) else decide (level.toInt ≤ (levelWord code v).toInt)

/-- R411: the Quire sample period, LSB. -/
def quirePeriod (s : State) (q : QCfg) : Nat :=
  match q.src, s.axis.slots[q.slot % 32]?.bind (fun sl => sl.bind) with
  | 0, some b => curPeriod b
  | 1, some b => outPeriod b
  | _, _ => q.periodLsb

/-! ### The memory (R414) -/

/-- R414: depth for a number of channels. -/
def quireDepth (nch : Nat) : Nat := if nch = 0 then 0 else 65536 / nch

/-- R414, R427: the stamp of stored sample `k`, counted over those the memory took. -/
def storedStamp (q : QuireSt) (k : Nat) : T64 :=
  let lost := (q.gaps.filter (fun g => decide (g.1 ≤ k))).foldl (fun m g => max m g.2) 0
  let step := q.period * 2 ^ ((q.cfg.map (fun c => c.avgN)).getD 0)
  q.first + BitVec.ofNat 64 ((k + lost) * step)

/-- R414: the words of stored sample `k`. -/
def storedWords (q : QuireSt) (k : Nat) : List Nat :=
  if q.depth = 0 then [] else cellGets zero0 q.mem (k % q.depth * q.nch) q.nch

/-- R414, R427: a stored sample enters the memory, or is lost when the memory is full of unsent samples. -/
def storeSample (ws : List Word) (s : State) : State :=
  let q := s.quire
  let full := q.streaming && q.state == .triggered && decide (q.depth ≤ q.taken - q.sent)
  if full then
    let lost := (q.gaps.foldl (fun m g => max m g.2) 0) + 1
    let s := modQuire s (fun q => { q with
      lost := q.lost + 1, gaps := (q.taken, lost) :: q.gaps.filter (fun g => g.1 != q.taken) })
    emitLim msLsb 0 (fun held => { source := 198, sev := .warning, payload := leBytes 4 (held + 1) }) s
  else
    let a := if q.depth = 0 then 0 else q.taken % q.depth * q.nch
    modQuire s (fun q => { q with
      mem := cellPuts zero0 q.mem a (ws.map BitVec.toNat)
      bad := q.bad.filter (fun x => !(decide (a ≤ x) && decide (x < a + q.nch)))
      taken := q.taken + 1
      oldest := max q.oldest (q.taken + 1 - q.depth) })

/-! ### The sequencer (R416–R418) -/

/-- R417: what was seen since the previous sample, up to the D0 instant of this one. -/
def seenBy (l : List (Nat × Nat)) (arg : Nat) (tq : Int) : Bool := l.any (fun x => x.1 == arg && decide ((x.2 : Int) ≤ tq))

/-- R416: whether a condition of the present state holds; `x c` and `p c` are a channel's value now and at the previous
sample, `tq` is the sample's D0 instant. -/
def condition (s : State) (tq : Int) (k : Nat) (x p : Nat → Int) (violClosed : Bool) (timer : Nat) : Bool :=
  let q := s.quire
  let b := seqBase q.seqState.val
  let w := reg s (b + (if k = 0 then 0x04 else 0x10))
  let level := BitVec.ofNat 32 (reg s (b + (if k = 0 then 0x08 else 0x14)))
  let level2 := BitVec.ofNat 32 (reg s (b + (if k = 0 then 0x0C else 0x18)))
  let c := bits w 7 4
  let code := chanSignal s (Fin.ofNat 16 c)
  let arg := bits w 23 16
  match bits w 3 0 with
  | 1 => true
  | 2 => atLeast code (x c) level
  | 3 => !atLeast code (x c) level
  | 4 => !q.freshState && atLeast code (x c) level && !atLeast code (p c) level
  | 5 => !q.freshState && !atLeast code (x c) level && atLeast code (p c) level
  | 6 => !atLeast code (x c) level || (atLeast code (x c) level2 && levelWord code (x c) != level2)
  | 7 => violClosed
  | 8 => seenBy q.pinsSeen arg tq
  | 9 => seenBy q.sourcesSeen arg tq
  | 10 => decide (regF s b 15 0 ≤ q.counter)
  | 11 => decide (regF s b 31 16 ≤ timer)
  | _ => false

/-- R416: what a condition does: goto a state, trigger, or count. -/
def condAction (s : State) (k : Nat) : Nat × Fin 8 :=
  let w := reg s (seqBase s.quire.seqState.val + (if k = 0 then 0x04 else 0x10))
  (min 2 (bits w 9 8), Fin.ofNat 8 (bits w 12 10))

/-- R414, R418, R424: the capture is triggered at a Quire sample. -/
def trigger (tq : T64) (t0 t1 forced : Bool) (s : State) : State :=
  let q := s.quire
  let pre : Nat := (q.cfg.map (fun c => c.pre)).getD 0
  let keep := min pre (q.taken - q.oldest)
  let st := q.seqState.val
  let s := modQuire s (fun q => { q with
    state := .triggered, oldest := q.taken - keep, sent := q.taken - keep, trigIndex := keep, trigSub := q.interval.length
    trigStamp := tq, trigTest0 := t0, trigTest1 := t1, trigForced := forced, trigState := st, postTaken := 0 })
  emit { source := 193, sev := .note, idx := st
         payload := b1 st ++ b1 (ofMask [t0, t1]) ++ b1 (ofBool forced) ++ leBytes 4 keep } s

/-- R418: the sequencer at a Quire sample; whether a condition triggered, and both tests. -/
def sequence (tq : Int) (x : Nat → Int) (violClosed : Bool) (s : State) : State × Bool × Bool × Bool :=
  let q := s.quire
  if !q.seqRun then (s, false, false, false)
  else
    let pv (c : Nat) : Int := (q.prev[c]?).getD 0
    let timer := q.timer + 1
    let t0 := condition s tq 0 x pv violClosed timer
    let t1 := condition s tq 1 x pv violClosed timer
    let (a0, n0) := condAction s 0
    let (a1, n1) := condAction s 1
    let counter := q.counter + ofBool (t0 && a0 == 2) + ofBool (t1 && a1 == 2)
    let s := modQuire s (fun q => { q with timer := timer, counter := counter, freshState := false })
    let take : Option (Nat × Fin 8) := if t0 && a0 != 2 then some (a0, n0) else if t1 && a1 != 2 then some (a1, n1) else none
    match take with
    | some (0, next) =>
      let old := q.seqState
      let s := modQuire s (fun q => { q with
        seqState := next, counter := 0, timer := 0, freshState := true, entries := q.entries + 1 })
      (emitLim msLsb 0 (fun held => { source := 194, sev := .note, idx := old.val
                                      payload := b1 old.val ++ b1 next.val ++ cnt1 held }) s, false, t0, t1)
    | some _ => (modQuire s (fun q => { q with seqRun := false }), true, t0, t1)
    | none => (s, false, t0, t1)

/-! ### Mask tests (R419–R422) -/

/-- R419, R182: a bound at a post index; none where no table tests it. -/
def bound (s : State) (table : Option Nat) (e : Int) (k : Nat) : Option (Int × Bool) :=
  match table.bind (fun t => tabGet s.glade.tables t) with
  | some t =>
    if k < t.len then
      some (scale2 (folioEntry s t k) e, s.glade.folioBad.contains (t.base + k))
    else none
  | none => none

/-- R420: the test of a stored sample at a post index: whether it violates the lower or upper bound, and by poison. -/
def maskTest (s : State) (c : QCfg) (k : Nat) (w : Int) : Option (Bool × Bool) :=
  let lo := bound s c.maskLo c.maskExp k
  let hi := bound s c.maskHi c.maskExp k
  let bad (b : Option (Int × Bool)) (f : Int → Bool) : Option Bool := match b with
    | some (v, poison) => if poison then some true else if f v then some false else none
    | none => none
  match bad lo (fun v => decide (w < v)) with
  | some p => some (false, p)
  | none => (bad hi (fun v => decide (v < w))).map (fun p => (true, p))

/-- R182, R420: what the reads of the bounds at a post index find in the tables. -/
def readBounds (c : QCfg) (k : Nat) (lo hi : Ecc) (s : State) : State :=
  let one (table : Option Nat) (e : Ecc) (s : State) : State :=
    match table.bind (fun t => tabGet s.glade.tables t) with
    | some t => if k < t.len then folioEcc (t.base + k) e s else s
    | none => s
  one c.maskHi hi (one c.maskLo lo s)

/-- R420: a violating stored sample. -/
def violate (k : Nat) (upper poison : Bool) (t : T64) (w : Word) (s : State) : State :=
  let q := s.quire
  let s := modQuire s (fun q => { q with violCount := BitVec.ofNat 32 (satU 32 (q.violCount.toNat + 1)), violClosed := true })
  if q.violation then s
  else
    let left : Option Nat := match q.cfg with
      | some c => if c.stopOnViol then some (c.violPost + 1) else none
      | none => none
    let s := modQuire s (fun q => { q with
      violation := true, violIndex := k, violUpper := upper, violPoisoned := poison, violStamp := t, violValue := w
      violLeft := left })
    emit { source := 195, sev := .warning, idx := k % 256
           payload := leBytes 4 k ++ b1 (ofBool upper) ++ leBytes 4 w.toNat } s

/-! ### The stream rings (R77, R78, R426, R427) -/

/-- R108: the data bytes a chunk of a stream ring can hold. -/
def chunkRoom (s : State) (r : Fin 4) : Nat :=
  match regF s (strBase r + 8) 6 5 with
  | 0 => 224
  | 1 => 992
  | _ => 4064

/-- R108: the source of a stream ring. -/
def strSource (s : State) (r : Fin 4) : Nat := regF s (strBase r + 8) 9 7

/-- R77, R78: a chunk is written to its ring, or withheld while the ring is full; whether it was written. -/
def writeChunk (r : Fin 4) (t : Stamp) (data : List Byte) (s : State) : State × Bool :=
  let w := s.host.str[r]
  if !ringOn s (strBase r) || w.error then (s, false)
  else if ringFree s (.str r) = 0 then
    if w.withheldPrev != 0 then (s, false)
    else
      let s := modWr s (.str r) (fun w => { w with withheld := w.withheld + 1, withheldPrev := w.withheldPrev + 1 })
      let n := s.host.str[r].withheld.toNat
      (emitLim msLsb r.val (fun _ => { source := 26, sev := .warning, idx := 40 + r.val
                                       payload := b1 (40 + r.val) ++ leBytes 4 n }) s, false)
  else
    let head := leBytes 2 w.chunkSeq.toNat ++ b1 (strSource s r) ++ b1 (ofMask [w.phase, w.withheldPrev != 0])
      ++ leBytes 4 data.length ++ leBytes 8 t.t.toNat ++ b1 (domCode t.dom) ++ leBytes 3 0 ++ leBytes 4 w.withheldPrev.toNat
      ++ leBytes 8 0
    let s := { s with out := s.out ++ [.chunk r w.tail (entryAddr s (strBase r) (chunkRoom s r + 32) w.tail) (BitVec.ofNat 256 (ofLe head)) data] }
    let s := if strSource s r = 1 then chkObserve 5 0 0 data s else s
    let s := modWr s (.str r) (fun w => { w with chunkSeq := w.chunkSeq + 1, withheldPrev := 0 })
    (wroteEntry (.str r) s, true)

/-- R426: the stored samples of the next chunk: those from `sent` on, no gap among them. -/
def chunkCount (s : State) (r : Fin 4) : Nat :=
  let q := s.quire
  let room := if q.nch = 0 then 0 else chunkRoom s r / (4 * q.nch)
  let gap := (q.gaps.map (fun g => g.1)).filter (fun g => decide (q.sent < g) && decide (g < q.taken))
  gap.foldl (fun m g => min m (g - q.sent)) (min room (q.taken - q.sent))

/-- R426: whether the next chunk of the capture is due: it is full, or ends at a gap, or 1 ms has passed since its oldest
sample was stored, or the capture has ended. -/
def quireChunkDue (s : State) (r : Fin 4) : Bool :=
  let q := s.quire
  let n := chunkCount s r
  let dom : Dom := (q.cfg.map (fun c => c.dom)).getD .d0
  let span := q.period * (2 ^ ((q.cfg.map (fun c => c.avgN)).getD 0) - 1)
  let stored := toD0 s ⟨dom, storedStamp q q.sent + BitVec.ofNat 64 span⟩
  decide (0 < n) && q.state != .armed
    && (n == chunkRoom s r / (4 * max 1 q.nch) || decide (n < q.taken - q.sent) || q.state == .done
        || decide (stored + msLsb ≤ s.time.now))

/-- R426, R427: the capture's due chunks are written while the ring takes them. -/
def quirePump (r : Fin 4) : Nat → State → State
  | 0, s => s
  | k + 1, s =>
    let q := s.quire
    if q.streaming && quireChunkDue s r then
      let n := chunkCount s r
      let dom : Dom := (q.cfg.map (fun c => c.dom)).getD .d0
      let data := (List.range n).flatMap (fun i => (storedWords q (q.sent + i)).flatMap (leBytes 4))
      let (s, ok) := writeChunk r ⟨dom, storedStamp q q.sent⟩ data s
      if ok then quirePump r k (modQuire s (fun q => { q with sent := q.sent + n })) else s
    else s

/-- R426: the stream ring of the Quire: the lowest enabled one of source 1. -/
def quireRing (s : State) : Option (Fin 4) :=
  (List.finRange 4).find? (fun r => ringOn s (strBase r) && strSource s r == 1)

/-- R426: the capture streams what is due. -/
def quireStream (s : State) : State :=
  match quireRing s with
  | some r => quirePump r 512 s
  | none => s

/-- R398, R399: a bulk chunk of a CAN controller: when it is full or 1 ms after its oldest frame. -/
def canChunk (c : Fin 2) (r : Fin 4) (s : State) : State :=
  let items := s.can[c].buffer.filter (fun x => x.bulk)
  let n := min (chunkRoom s r / 80) items.length
  match items.head? with
  | some x =>
    if n = chunkRoom s r / 80 || decide (toD0 s x.stamp + msLsb ≤ s.time.now) then
      let (s, ok) := writeChunk r x.stamp ((items.take n).flatMap (rxItem s c)) s
      if ok then modCan s c (fun y => { y with buffer := (items.take n).foldl (fun b z => b.erase z) y.buffer }) else s
    else s
  | none => s

/-- R426, R398: STREAM_CHUNK_TIMER. -/
def streamChunkEff (r : Fin 4) (s : State) : State :=
  match strSource s r with
  | 1 => if quireRing s = some r then quirePump r 512 s else s
  | 3 => canChunk 0 r s
  | 4 => canChunk 1 r s
  | _ => s

/-! ### The end of a capture (R424) -/

/-- R98: the other members of a descriptor's pair group that have not yet taken effect. -/
def matesOf (s : State) (f : InFlight) : List InFlight :=
  s.host.flight.filter (fun g => g.id != f.id && g.applied.isNone && f.group.isSome
    && g.group.map (fun x => x.1) == f.group.map (fun x => x.1))

/-- R98: a command of the Quire belongs to an arm of its pair group that still waits before it. -/
def joinsArm (s : State) (f : InFlight) : Bool :=
  (matesOf s f).any (fun g => g.opcode == 0x80 && pU g.payload 16 1 == 0 && decide (g.id < f.id))

/-- R424: the capture ends: 0 post count, 1 violation stop, 2 stop, 3 disarm. Commands that still wait for a Quire sample find
no capture. -/
def endCapture (cause : Nat) (s : State) : State :=
  match s.quire.cfg with
  | none => s
  | some c =>
    let s := modQuire s (fun q => { q with
      streaming := q.streaming && q.state == .triggered
      state := if cause = 3 then .idle else .done, seqRun := false, next := none, interval := []
      taken := if cause = 3 then q.oldest else q.taken
      sent := if cause = 3 then q.oldest else q.sent })
    let kept := s.quire.taken - s.quire.oldest
    let s := match flightOf s c.desc with
      | some f => complete c.desc stOK kept cause f.applied s
      | none => s
    let s := emit { source := 196, sev := .note, idx := cause, payload := b1 cause ++ leBytes 4 kept } s
    let s := quireStream s
    (s.host.flight.filter (fun f => f.opcode == 0x80 && f.applied.isNone && pU f.payload 16 1 != 0 && !joinsArm s f)).foldl
      (fun s f => reject f.id stState 0x71 s) s

/-! ### A Quire sample (R413–R422) -/

/-- R413–R421: the interval that a Quire sample completes is stored and tested. `lo`, `hi`: what reading the bounds finds. -/
def closeInterval (lo hi : Ecc) (s : State) : State :=
  let q := s.quire
  match q.cfg with
  | none => s
  | some c =>
    if q.interval.length < 2 ^ c.avgN then s
    else
      let cols := c.chans.zipIdx
      let rows := q.interval.reverse
      let ws := cols.map (fun (ch, i) =>
        storedWord (chanSignal s (Fin.ofNat 16 ch)) c.avgN (rows.map (fun r => (r[i]?).getD 0)))
      let k := q.postTaken
      let trig := q.state == .triggered
      let maskW : Option Word := ((cols.find? (fun x => x.1 == c.maskCh)).bind (fun x => ws[x.2]?))
      let s := storeSample ws s
      let s := modQuire s (fun q => { q with interval := [] })
      if !trig then
        -- R414: before the trigger the latest pre stored samples are kept
        modQuire s (fun q => { q with oldest := max q.oldest (q.taken - c.pre) })
      else
        let s := if maskW.isSome then readBounds c k lo hi s else s
        let s := match maskW.bind (fun w => (maskTest s c k w.toInt).map (fun v => (w, v))) with
          | some (w, up, poison) => violate k up poison q.intervalT w s
          | none => s
        let s := modQuire s (fun q => { q with postTaken := q.postTaken + 1, violLeft := q.violLeft.map (· - 1) })
        if s.quire.violLeft == some 0 then endCapture 1 s
        else if c.post ≤ s.quire.postTaken && !(c.stream && c.post == 0xFFFFFFFF) then endCapture 0 s
        else s

/-- R424: the commands whose chosen sample this is. -/
def quireCommands (s : State) (tq : T64) (dom : Dom) (command : Nat) : List InFlight :=
  readyAt s (toD0 s ⟨dom, tq⟩) (fun f => f.opcode == 0x80 && pU f.payload 16 1 == command)

/-! ### QUIRE_ARM (R423) -/

/-- R411: the first Quire sample instant of an arm at or after an instant. -/
def firstSample (s : State) (c : QCfg) (t : T64) : T64 :=
  match c.src, s.axis.slots[c.slot % 32]?.bind (fun sl => sl.bind) with
  | 0, some b => gridAt (curPeriod b) b.phase t
  | 1, some b => gridAt (outPeriod b) b.phase t
  | _, _ => gridAt c.periodLsb c.phase t

/-- R423: the capture a QUIRE_ARM describes. -/
def qcfgOf (f : InFlight) (s : State) : QCfg :=
  let p := f.payload
  let tab (o : Nat) : Option Nat := if pU p o 1 = 0xFF then none else some (pU p o 1)
  let src := pU p 17 1
  { desc := f.id, src := src, slot := pU p 18 1, avgN := pU p 19 1, dom := domOf (pU p 20 1)
    periodLsb := cadence * 2 ^ (pU p 21 1 % 8), phase := pU p 24 4
    stream := bit (pU p 22 1) 0, stopOnViol := bit (pU p 22 1) 1, maskCh := pU p 23 1, pre := pU p 28 4, post := pU p 32 4
    maskLo := tab 36, maskHi := tab 37, maskExp := sext 5 (pU p 38 1), violPost := pU p 40 2
    chans := (quireChans s).map (fun c => c.val) }

/-- R423: the field checks of QUIRE_ARM. -/
def quireFields (p : BitVec 384) : List Check :=
  let cmd := pU p 16 1
  let src := pU p 17 1
  let arm := cmd == 0
  let badTab (o : Nat) : Bool := decide (31 < pU p o 1) && pU p o 1 != 0xFF
  let named := pU p 36 1 != 0xFF || pU p 37 1 != 0xFF
  [resv p 39 39, resv p 42 63, inval (decide (3 < cmd)) 16]
    ++ (if !arm then [] else
      [inval (decide (2 < src)) 17, inval (decide (src < 2) && decide (31 < pU p 18 1)) 18, inval (decide (8 < pU p 19 1)) 19,
        inval (decide (3 < pU p 20 1)) 20, inval (src == 2 && decide (7 < pU p 21 1)) 21, inval (decide (3 < pU p 22 1)) 22,
        inval (named && decide (15 < pU p 23 1)) 23,
        inval (src == 2 && decide (cadence * 2 ^ (pU p 21 1 % 8) ≤ pU p 24 4)) 24, inval (pU p 32 4 == 0) 32,
        inval (badTab 36) 36, inval (badTab 37) 37, inval (decide (31 < pU p 38 1)) 38])

/-- R428: the state checks of an arm. -/
def quireState (f : InFlight) (s : State) : List Check :=
  let c := qcfgOf f s
  let slotBad (n : Nat) : Bool := match s.axis.slots[n % 32]?.bind (fun sl => sl.bind) with
    | some b => b.dom != c.dom
    | none => true
  let table (t : Option Nat) : Bool := match t with
    | some t => (tabGet s.glade.tables t).isNone
    | none => false
  [(unset s c.dom, stDomUnset, domCode c.dom), denied (quireArmed s) 0x70, denied (c.stream && (quireRing s).isNone) 0x72,
    denied ((decide (c.src < 2) && slotBad c.slot) || (quireChans s).any (fun ch => slotBad (chanSlot s ch).val)) 0x73,
    denied (c.chans.isEmpty || ((c.maskLo.isSome || c.maskHi.isSome) && !c.chans.contains c.maskCh)) 0x74,
    denied (table c.maskLo || table c.maskHi) 0x75]

/-- R423, R428: the checks of QUIRE_ARM's commands. -/
def quireArmCheck (f : InFlight) (s : State) : Option (Nat × Int) :=
  firstFail (quireFields f.payload
    ++ (if pU f.payload 16 1 = 0 then quireState f s else [denied (!quireArmed s) 0x71]))

/-! ### Commands and samples (R416–R424) -/

/-- R98: the arm of a stop's pair group that the state after the stop refuses. -/
def armRefused (s : State) (f : InFlight) : Option (InFlight × Nat × Int) :=
  (matesOf s f).findSome? (fun g =>
    if g.opcode == 0x80 && pU g.payload 16 1 == 0 && decide (f.id < g.id) then
      (firstFail (quireState g (modQuire s (fun q => { q with state := .done })))).map (fun r => (g, r.1, r.2))
    else none)

/-- R98: an arm of a stop's pair group has its first sample at or after the stop's sample. -/
def armAfter (tq : Stamp) (s : State) (f : InFlight) : State :=
  (matesOf s f).foldl (fun s g => if g.opcode == 0x80 && pU g.payload 16 1 == 0 then
      modFlight s g.id (fun x => { x with due := match x.due with
        | .update a nb => .update (some (match a with
            | some a => if a.t ≠ 0 ∧ toD0 s tq ≤ toD0 s a then a else tq
            | none => tq)) nb
        | d => d })
    else s) s

/-- R98: a pair group of the Quire breaks at one of its members. -/
def breakQuire (g : InFlight) (st : Nat) (d : Int) (s : State) : State :=
  let ms := s.host.flight.filter (fun x => x.id == g.id || (matesOf s g).any (fun y => y.id == x.id))
  breakGroup ms g.id ((g.group.map (fun x => x.2)).getD 0) st d s

/-- R424: the stops and disarms whose chosen sample this is; a pair group whose arm cannot begin breaks. -/
def stopsAt (tq : T64) (dom : Dom) (s : State) : List InFlight × State :=
  let all := s.host.flight.filter (fun f => (quireCommands s tq dom 2 ++ quireCommands s tq dom 3).any (fun x => x.id == f.id))
  all.foldl (fun (acc, s) f => match armRefused s f with
    | some (g, st, d) => (acc, breakQuire g st d s)
    | none => (acc ++ [f], s)) ([], s)

/-- R424: a stop or a disarm whose chosen sample this is ends the capture; those that follow complete with it. -/
def stopCommands (tq : T64) (dom : Dom) (s : State) : State × Bool :=
  match stopsAt tq dom s with
  | ([], s) => (s, false)
  | (f :: fs, s) =>
    let s := (f :: fs).foldl (fun s g => completeOk g.id (some ⟨dom, tq⟩) (armAfter ⟨dom, tq⟩ s g)) s
    (endCapture (pU f.payload 16 1) s, true)

/-- R416–R424: the sample at `tq` with the values of the capture's channels. `lo`, `hi`: what reading the bounds of the mask finds. -/
def runSample (lo hi : Ecc) (tq : T64) (c : QCfg) (vals : List Int) (s : State) : State :=
  let forces := quireCommands s tq c.dom 1
  let t0d := toD0 s ⟨c.dom, tq⟩
  let s := forces.foldl (fun s f => completeOk f.id (some ⟨c.dom, tq⟩) s) s
  let x (ch : Nat) : Int := match c.chans.findIdx? (· == ch) with
    | some i => (vals[i]?).getD 0
    | none => 0
  let s := modQuire s (fun q => { q with
    intervalT := if q.interval.isEmpty then tq else q.intervalT, violClosed := false })
  let was := s.quire.state == .triggered
  let forced := !forces.isEmpty && !was
  let put (s : State) : State := modQuire s (fun q => { q with interval := vals :: q.interval })
  let s := if forced then
      -- R424: the record shows the tests of a condition that triggers in the same sample
      let v := (closeInterval lo hi (put (trigger tq false false true s))).quire.violClosed
      let (_, hit, t0, t1) := sequence t0d x v s
      trigger tq (hit && t0) (hit && t1) true s
    else s
  let s := if forced || was then closeInterval lo hi (put s) else s
  let (s, hit, t0, t1) := if quireArmed s then sequence t0d x s.quire.violClosed s else (s, false, false, false)
  let s := if forced || was then s else closeInterval lo hi (put (if hit then trigger tq t0 t1 false s else s))
  let prev := (List.range 16).map x
  let later (l : List (Nat × Nat)) : List (Nat × Nat) := l.filter (fun x => decide (t0d < x.2))
  modQuire s (fun q => { q with prev := prev, pinsSeen := later q.pinsSeen, sourcesSeen := later q.sourcesSeen })

/-! ### Captures (R415, R423) -/

/-- R415, R423: a capture begins: its first sample is at `t`. -/
def startCapture (f : InFlight) (t : T64) (s : State) : State :=
  match firstFail (quireState f s) with
  | some (st, d) => breakQuire f st d s
  | none =>
    let c := qcfgOf f s
    let t0 := toD0 s ⟨c.dom, t⟩
    let later (l : List (Nat × Nat)) : List (Nat × Nat) := l.filter (fun x => decide (t0 < x.2))
    let nch := c.chans.length
    let depth := quireDepth nch
    let postOver := !c.stream && decide (depth < c.post)
    let post := if postOver then depth else c.post
    let pre := if c.stream then min c.pre depth else min c.pre (depth - post)
    let q : QuireSt := {
      state := .armed, cfg := some { c with pre := pre, post := post }, postclamp := postOver
      preclamp := !postOver && decide (pre < c.pre), streaming := c.stream, mem := [], bad := [], nch := nch, depth := depth
      first := t, period := quirePeriod s c, next := some t, history := s.quire.history, seqRun := true
      pinsSeen := later s.quire.pinsSeen, sourcesSeen := later s.quire.sourcesSeen
      entries := s.quire.entries, lost := s.quire.lost, eccFixed := s.quire.eccFixed, eccBad := s.quire.eccBad }
    let s := takesEffect f.id ⟨c.dom, t⟩ { s with quire := q }
    let s := emit { source := 192, sev := .note, payload := leBytes 8 t.toNat ++ leBytes 4 depth } s
    if postOver then
      emit { source := 197, sev := .warning, payload := leBytes 4 c.post ++ leBytes 4 post } s
    else s

/-- R98, R423: what a waiting QUIRE_ARM would leave, for the checks of the members after it. -/
def quireTrial (f : InFlight) (s : State) : State :=
  match pU f.payload 16 1 with
  | 0 => startCapture f (domNow s (qcfgOf f s).dom) s
  | 1 => s
  | c => endCapture c s

/-- R423: the arm that waits for its first sample, and that sample. -/
def waitingArm (s : State) : Option (InFlight × T64) :=
  let one (f : InFlight) : Option (InFlight × T64) :=
    let follows := (matesOf s f).any (fun g => decide (g.id < f.id))
    match f.opcode == 0x80 && pU f.payload 16 1 == 0 && f.applied.isNone && !follows, f.due with
    | true, .update a nb =>
      let c := qcfgOf f s
      let g := fromD0 s c.dom ((nb : Nat) : Int)
      let t := match a with
        | some a => if a.t = 0 then g else laterT (restamp s c.dom a).t g
        | none => g
      let t := firstSample s c t
      if decide (0 ≤ diff64 (domNow s c.dom) t) then some (f, t) else none
    | _, _ => none
  s.host.flight.findSome? one

/-- R411, R416: QUIRE_SAMPLE: the next Quire sample, once its instant has passed and every channel's later native value
exists. `lo`, `hi`: what reading the lower and the upper bound of a mask test finds. -/
def quireSampleEff (lo hi : Ecc) (s : State) : State :=
  let s := match waitingArm s with
    | some (f, t) => startCapture f t s
    | none => s
  match s.quire.next, s.quire.cfg with
  | some tq, some c =>
    if !quireArmed s || decide (diff64 (domNow s c.dom) tq < 0) then s
    else
      let vals := c.chans.map (fun ch =>
        let ch : Fin 16 := Fin.ofNat 16 ch
        valueAt s ch (tq + BitVec.ofInt 64 (chanSkew s ch)))
      if vals.any Option.isNone then s
      else
        let s := modQuire s (fun q => { q with next := some (tq + BitVec.ofNat 64 q.period) })
        let (s, ended) := stopCommands tq c.dom s
        if ended then s else quireStream (runSample lo hi tq c (vals.map (fun v => v.getD 0)) s)
  | _, _ => s

/-! ### QUIRE_READ (R425) and the scrubber -/

/-- R425, R428: the checks of QUIRE_READ. -/
def quireReadCheck (f : InFlight) (s : State) : Option (Nat × Int) :=
  let p := f.payload
  let held := s.quire.taken - s.quire.oldest
  firstFail [resv p 32 63, inval (decide (held < pU p 24 4)) 24, inval (decide (held < pU p 24 4 + pU p 28 4)) 28,
    denied (quireArmed s) 0x70]

/-- R425, R430: an error in a word of the Quire. -/
def quireEcc (a : Nat) (e : Ecc) (s : State) : State :=
  match e with
  | .clean => s
  | .corrected =>
    emit { source := 199, sev := .note, logged := true, payload := leBytes 2 a }
      (modQuire s (fun q => { q with eccFixed := satU 16 (q.eccFixed + 1) }))
  | .bad =>
    let s := modQuire s (fun q => { q with eccBad := satU 16 (q.eccBad + 1)
                                           bad := if q.bad.contains a then q.bad else a :: q.bad })
    let (s, r, _) := raiseHap s { source := 199, sev := .fault, handler := 1, payload := leBytes 2 a }
    voidCause 0 r s

/-- R425: QUIRE_READ writes stored samples to its host buffer. -/
def quireReadNow (f : InFlight) (s : State) : State :=
  let p := f.payload
  let q := s.quire
  let first := pU p 24 4
  let n := pU p 28 4
  let addr (i j : Nat) : Nat := if q.depth = 0 then 0 else (q.oldest + first + i) % q.depth * q.nch + j
  let addrs := (List.range n).flatMap (fun i => (List.range q.nch).map (addr i))
  let data := addrs.flatMap (fun a => leBytes 4 (if q.bad.contains a then 0x80000000 else cellGet zero0 q.mem a))
  let s := (addrs.filter (fun a => q.bad.contains a)).foldl (fun s a =>
    let (s, r, _) := raiseHap s { source := 199, sev := .fault, handler := 1, payload := leBytes 2 a }
    voidCause 0 r s) s
  if f.buf.ok then
    let s := hostWrite f (pU p 16 8) data s
    complete f.id stOK n 0 (some (nowStamp s)) s
  else
    let got := f.buf.data.length
    let s := hostWrite f (pU p 16 8) (data.take got) s
    complete f.id stBufferDma 0 (min got data.length : Nat) (some (nowStamp s)) s

/-- R414, R425: what the scrubber finds in a word of the Quire memory. -/
def quireScrub (a : Nat) (e : Ecc) (s : State) : State := if 65536 ≤ a then s else quireEcc a e s

end Sys2Proof.Machine
end

