-- ==== Sys2Proof/Machine/Firebreak.lean ====
section
/-!
DEFINITION. Firebreak (17): its diagnostics (R442, R443, R460), the safety inputs (R444–R446), demands and stop functions
(R447–R450), removing torque (R451, R454, R455), the contactor (R456), and the safety record (R457–R459).
-/

namespace Sys2Proof.Machine

/-- A stop group as Firebreak sees it, changed. -/
def modFbGroup (s : State) (g : Fin 8) (f : FbGroup → FbGroup) : State :=
  modFb s (fun fb => { fb with groups := upd fb.groups g f })

/-- The groups of a mask. -/
def maskGroups (m : Nat) : List (Fin 8) := (List.finRange 8).filter (fun g => bit m g.val)

/-- R457: fields of the record. -/
def stoOutGroups (s : State) : Nat := byteAt s.firebreak.record 20
def cdrvGroups (s : State) : Nat := byteAt s.firebreak.record 21
def edmTicks (s : State) : Nat := 100 * byteAt s.firebreak.record 22
def edmMask (s : State) : Nat := byteAt s.firebreak.record 23
def contactorUsed (s : State) : Bool := bit (byteAt s.firebreak.record 3) 0

/-! ### The outputs (R451, R454–R456) -/

/-- R443: the record is confirmed and the self-test has passed. -/
def fbReady (s : State) : Bool := s.firebreak.selftestOk && s.firebreak.valid && s.firebreak.confirmed

/-- R451, R460: whether some group of a mask is in STO, or every group after a self-fault. -/
def anySto (s : State) (mask : Nat) : Bool :=
  (maskGroups mask).any (fun g => s.firebreak.groups[g].sto)
    || (s.firebreak.faultKind != 0 && (List.finRange 8).all (fun g => s.firebreak.groups[g].sto))

/-- R455: after a test failure STO_OUT and CDRV drop at the end of the SS1. -/
def settleTestFail (s : State) : State :=
  if s.firebreak.failPending && (maskGroups (stoOutGroups s)).all (fun g => s.firebreak.groups[g].sto) then
    modFb s (fun fb => { fb with failPending := false, outOff := true })
  else s

/-- R451: STO_OUT follows the STO of its groups. -/
def settleStoOut (s : State) : State :=
  let want := fbReady s && !s.firebreak.outOff && !anySto s (stoOutGroups s)
  if want = s.firebreak.stoOut then s
  else
    let s := modFb s (fun fb => { fb with stoOut := want, readback := want })
    let s := modPlacer s 10 (fun p => { p with queue := [], level := want, lastEdge := some s.time.now })
    { s with out := s.out ++ [.sto want] }

/-- R456: every EDM of the mask reads open, or closed. -/
def edmAll (s : State) (isOpen : Bool) : Bool :=
  (maskBits 2 (edmMask s)).all (fun i => s.firebreak.edmOpen.getLsbD i == isOpen)

/-- R456: CDRV follows its conditions; each change is raised and its EDM answers awaited. -/
def settleCdrv (s : State) : State :=
  let fb := s.firebreak
  let stays := fbReady s && contactorUsed s && !fb.outOff && !fb.edmFault && !anySto s (cdrvGroups s)
  let want := stays && (fb.cdrv || edmAll s true)
  if want = fb.cdrv then s
  else
    let s := modFb s (fun fb => { fb with cdrv := want, cdrvAt := some fb.ticks })
    -- R503: contactor operations count the switchings on
    let n := s.tally.contactor
    let s := { s with tally := { s.tally with contactor := if want then satU 32 (n + 1) else n }, out := s.out ++ [.cdrv want] }
    emit { source := 230, sev := .note, idx := ofBool want, payload := b1 (ofBool want) ++ b1 s.firebreak.edmOpen.toNat } s

/-- R451, R456: both outputs follow. -/
def settleOutputs (s : State) : State := settleCdrv (settleStoOut (settleTestFail s))

/-! ### STO of a group (R450, R451) -/

/-- R451: STO is applied to a group. cause: 1 standstill, 2 time, 3 violation, 4 function STO, 5 fault. -/
def applySto (g : Fin 8) (cause : Nat) (s : State) : State :=
  if s.firebreak.groups[g].sto && !s.firebreak.groups[g].ss1 then s
  else
    let s := modFbGroup s g (fun x => { x with sto := true, ss1 := false, stoAt := none, limitAt := none, watch := none })
    let s := stopGroup g s
    let s := emit { source := 222, sev := .warning, idx := g, payload := b1 g ++ b1 cause } s
    settleOutputs s

/-- R451, R443: whether STO of a group may be lifted. -/
def stoMayLift (s : State) (g : Fin 8) : Bool :=
  let x := s.firebreak.groups[g]
  fbReady s && x.demands == 0 && s.firebreak.faultKind == 0 && !x.ss1
    && !(s.firebreak.edmFault && bit (cdrvGroups s) g.val)

/-- R451: STO of every group that may be lifted is lifted. -/
def liftSto (s : State) : State :=
  let s := (List.finRange 8).foldl (fun s (g : Fin 8) =>
    if s.firebreak.groups[g].sto && stoMayLift s g then modFbGroup s g (fun x => { x with sto := false }) else s) s
  settleOutputs s

/-- R443, R458: every group is held in STO; no group is stopped by it, and an SS1 that has begun still runs to its end
(R447). -/
def holdSto (s : State) : State :=
  let s := (List.finRange 8).foldl (fun s (g : Fin 8) => modFbGroup s g (fun x => { x with sto := true })) s
  settleOutputs s

/-- R447, R450: Firebreak requests SS1 of a group; `limit`: the tick of its time limit, where Firebreak sets one. A group
already in STO is left as it is. -/
def fbRequest (parent : Option EntryRef) (limit : Option Nat) (g : Fin 8) (s : State) : State :=
  if s.firebreak.groups[g].sto then s
  else
    let had := s.firebreak.groups[g].limitAt
    let s := requestSs1 0 parent g s
    if s.firebreak.groups[g].sto then s
    else modFbGroup s g (fun x => { x with
      ss1 := true
      limitAt := match limit with
        | some _ => had
        | none => some (had.getD (s.firebreak.ticks + 100 * ss1Ms s))
      stoAt := match limit, x.stoAt with
        | some t, some u => some (min t u)
        | some t, none => some t
        | none, u => u })

/-- R447: SS1_TIMEOUT. -/
def ss1TimeoutEff (g : Fin 8) (s : State) : State :=
  match s.firebreak.groups[g].stoAt with
  | some t => if t ≤ s.firebreak.ticks then applySto g 2 s else s
  | none => s

/-- R450, R460: SS1_LIMIT. -/
def ss1LimitEff (g : Fin 8) (s : State) : State :=
  match s.firebreak.groups[g].limitAt with
  | some t => if t ≤ s.firebreak.ticks then applySto g 2 s else s
  | none => s

/-! ### Self-faults (R442, R460) -/

/-- R460: a self-fault is latched and reaches the chip supervisor; every group runs SS1-t of ss1_ms. -/
def selfFault (kind : Nat) (s : State) : State :=
  if s.firebreak.faultKind != 0 then s
  else
    let s := modFb s (fun fb => { fb with faultKind := kind, faultAt := some s.time.now })
    let s := raiseChip { source := 227, sev := .stop, idx := kind, payload := b1 kind } 1 s
    let t := s.firebreak.ticks + 100 * ss1Ms s
    let s := (List.finRange 8).foldl (fun s (g : Fin 8) =>
      if s.firebreak.groups[g].sto then s
      else modFbGroup s g (fun x => { x with ss1 := true, watch := none, limitAt := some (min t (x.limitAt.getD t)) })) s
    settleOutputs s

/-- R460: SELF_FAULT_STO_FORCE: the chip supervisor forces STO 1.1 × ss1_ms of D0 after the self-fault. -/
def stoForceEff (s : State) : State :=
  match s.firebreak.faultAt with
  | some t =>
    if t * 10 + 11 * ss1Ms s * msLsb ≤ s.time.now * 10 then
      (List.finRange 8).foldl (fun s (g : Fin 8) => applySto g 5 s) s
    else s
  | none => s

/-- R442: the checks of Firebreak, each with its kind. -/
def timebaseCheckEff (advance : Nat) (s : State) : State :=
  if advance < 155200000 ∨ 164800000 < advance then selfFault 1 s else s
def supplyFaultEff (s : State) : State := selfFault 2 s
def fbScrubEff (e : Ecc) (s : State) : State :=
  match e with
  | .clean => s
  | .corrected => modFb s (fun fb => { fb with memFixed := satU 16 (fb.memFixed + 1) })
  | .bad => selfFault 3 s
def recordCheckEff (good : Bool) (s : State) : State := if good || s.firebreak.record.isEmpty then s else selfFault 4 s
def logicTestEff (pass : Bool) (s : State) : State :=
  if pass then modFb s (fun fb => { fb with logicTests := satU 16 (fb.logicTests + 1) }) else selfFault 5 s
def inputTestEff (pass : Bool) (s : State) : State := if pass then s else selfFault 6 s
def watchdogMissEff (s : State) : State := selfFault 7 s

/-! ### The safety record (R457) -/

/-- R457: an input entry. -/
def sinEntryOf (b : List Byte) (o : Nat) : SinEntry :=
  { fn := byteAt b o, groups := BitVec.ofNat 8 (byteAt b (o + 1)), discMs := leAt b (o + 2) 2, filterMs := byteAt b (o + 4)
    dfilt := byteAt b (o + 5), tStopMs := leAt b (o + 6) 2 }

/-- R457: the monitor entries in use, with their numbers. -/
def monsOf (b : List Byte) : List MonEntry :=
  (List.range 4).map (fun i =>
    let o := 28 + 16 * i
    { group := byteAt b o, fb := byteAt b (o + 1), vStand := leAt b (o + 2) 2, vMargin := leAt b (o + 4) 4
      decelMin := leAt b (o + 8) 4, tDelay := leAt b (o + 12) 2 })

/-- R457: the offset of the first field outside its range. -/
def recordRange (b : List Byte) : Option Nat :=
  let u (o : Nat) : Nat := byteAt b o
  let w (o : Nat) : Nat := leAt b o 2
  let out (o lo hi x : Nat) : Bool × Nat := (decide (x < lo) || decide (hi < x), o)
  let sin (o : Nat) : List (Bool × Nat) :=
    [out o 0 3 (u o), out (o + 2) 5 500 (w (o + 2)), out (o + 4) 1 50 (u (o + 4)), out (o + 5) 1 100 (u (o + 5)),
      out (o + 6) 10 5000 (w (o + 6))]
  let mon (i : Nat) : List (Bool × Nat) :=
    let o := 28 + 16 * i
    let fb := u (o + 1)
    if u o = 0xFF then (List.range 15).map (fun k => (u (o + 1 + k) != 0, o + 1 + k))
    else [out o 0 7 (u o), (!((1 ≤ fb && fb ≤ 3) || (0x40 ≤ fb && fb ≤ 0x4B)), o + 1), out (o + 2) 1 0xFFFF (w (o + 2)),
      out (o + 4) 1 0x7FFFFFFF (leAt b (o + 4) 4), out (o + 8) 1 0x7FFFFFFF (leAt b (o + 8) 4),
      out (o + 12) 0 500 (w (o + 12)), (u (o + 14) != 0, o + 14), (u (o + 15) != 0, o + 15)]
  let all : List (Bool × Nat) := [(w 0 != 0x4642, 0), (u 2 != 1, 2), (decide (1 < u 3), 3)] ++ sin 4 ++ sin 12
    ++ [(!bit (u 3) 0 && u 21 != 0, 21), out 22 10 50 (u 22), out 23 0 3 (u 23), out 24 10 5000 (w 24), out 26 2 100 (w 26)]
    ++ (List.range 4).flatMap mon
  (all.find? (fun x => x.1)).map (fun x => x.2)

/-- R438, R457: the check value a record must have, and whether it is valid. -/
def recordCheck (b : List Byte) : Nat := crc32 (b.take 92)
def recordGood (b : List Byte) : Bool := b.length == 96 && recordCheck b == leAt b 92 4 && (recordRange b).isNone

/-- R458, R459: a state of the record raised: 0 invalid, 1 unconfirmed, 2 confirmed. -/
def recordState (k : Nat) (s : State) : State :=
  emit { source := 228, sev := .note, idx := k, payload := b1 k ++ leBytes 4 (leAt s.firebreak.record 92 4) } s

/-- The count that a monitor entry's source shows now (R448). -/
def monCount (s : State) (m : MonEntry) : BitVec 32 :=
  match portOf m.fb with
  | some p => s.axis.ports[p].c
  | none => s.link.eps[Fin.ofNat 12 (m.fb - 0x40)].count0

/-- R457: the entries of the stored record take effect. -/
def loadEntries (s : State) : State :=
  let b := s.firebreak.record
  let mons := monsOf b
  let s := modFb s (fun fb => { fb with sin0 := sinEntryOf b 4, sin1 := sinEntryOf b 12, mons := mons })
  modFb s (fun fb => { fb with estimates := Vector.ofFn (fun i : Fin 4 =>
    { c0 := (mons[i.val]?.map (monCount s)).getD 0 }) })

/-- R457: the entry of an input. -/
def sinEntry (s : State) (i : Fin 2) : SinEntry := if i = 0 then s.firebreak.sin0 else s.firebreak.sin1

/-- R447: the demand of an input is held for its groups. -/
def holdDemands (i : Fin 2) (on : Bool) (s : State) : State :=
  let e := sinEntry s i
  (List.finRange 8).foldl (fun s (g : Fin 8) => modFbGroup s g (fun x => { x with
    demands := if on && e.fn != 0 && e.groups.getLsbD g.val then x.demands ||| (if i = 0 then 1 else 2)
      else x.demands &&& (if i = 0 then 2 else 1) })) s

/-- R443: the demands of inputs that are at demand, after a record has taken effect. -/
def holdPresent (s : State) : State :=
  holdDemands 1 s.firebreak.ins[1].demand (holdDemands 0 s.firebreak.ins[0].demand s)

/-- R442, R443, R459: FB_STARTUP_SELFTEST, the first self-test of the logic: the record and its confirmation are loaded and checked. -/
def startupSelftestEff (pass : Bool) (s : State) : State :=
  if s.firebreak.selftestOk then s
  else if !pass then selfFault 5 s
  else
    let good := recordGood s.firebreak.record
    let s := modFb s (fun fb => { fb with
      selftestOk := true, logicTests := satU 16 (fb.logicTests + 1), valid := good, confirmed := good && fb.nvConfirmed, windowAt := fb.ticks })
    if good then liftSto (holdPresent (loadEntries s))
    else if s.firebreak.record.isEmpty then s else recordState 0 s

/-! ### Demands and stop functions (R447–R449) -/

/-- R449: the monitor entries of a group, with their numbers. -/
def monsFor (s : State) (g : Fin 8) : List (Fin 4 × MonEntry) :=
  (List.finRange 4).filterMap (fun i => match s.firebreak.mons[i.val]? with
    | some m => if m.group = g.val then some (i, m) else none
    | none => none)

/-- R449: the watch of a group begins: v_d of each entry, and no window at standstill yet. -/
def beginWatch (g : Fin 8) (s : State) : State :=
  let s := modFbGroup s g (fun x => { x with watch := some (x.watch.getD s.firebreak.ticks) })
  (monsFor s g).foldl (fun s (i, _) => modFb s (fun fb => { fb with
    estimates := upd fb.estimates i (fun e => { e with vd := e.v.natAbs, still := 0 }) })) s

/-- R447: the stop function of an input runs on one of its groups. -/
def runFunction (e : SinEntry) (parent : Option EntryRef) (g : Fin 8) (s : State) : State :=
  if s.firebreak.groups[g].sto then s
  else
    let limit := s.firebreak.ticks + 100 * e.tStopMs
    match e.fn with
    | 1 => applySto g 4 (fbRequest parent (some s.firebreak.ticks) g s)
    | 2 => fbRequest parent (some limit) g s
    | 3 =>
      let s := fbRequest parent (some limit) g s
      if s.firebreak.groups[g].sto || (monsFor s g).isEmpty || s.firebreak.groups[g].watch.isSome then s else beginWatch g s
    | _ => s

/-- R447: a demand of an input. -/
def demandOn (i : Fin 2) (ch : Nat) (s : State) : State :=
  let s := modFb s (fun fb => { fb with ins := upd fb.ins i (fun x => { x with demand := true }) })
  let e := sinEntry s i
  if e.fn = 0 ∨ ¬ s.firebreak.valid then s
  else
    let gs := maskGroups e.groups.toNat
    let live := gs.filter (fun g => !s.firebreak.groups[g].sto)
    let mask := BitVec.ofNat 8 (ofMask ((List.finRange 8).map (fun g => live.contains g)))
    let h : Hap := { source := 216, sev := .warning, idx := i, handler := if live = [] then 0 else 2
                     payload := b1 i ++ b1 ch ++ b1 e.fn ++ b1 e.groups.toNat
                     action := if live = [] then none else some (.ss1 mask) }
    let (s, r, _) := raiseHap s h
    let s := holdDemands i true s
    gs.foldl (fun s g => runFunction e r g s) s

/-- R447, R444: an input is released: its demand holds no group. -/
def demandOff (i : Fin 2) (s : State) : State :=
  let s := modFb s (fun fb => { fb with ins := upd fb.ins i (fun x => { x with demand := false }) })
  let s := emit { source := 217, sev := .note, idx := i, payload := b1 i } s
  liftSto (holdDemands i false s)

/-! ### Safety inputs (R444–R446) -/

/-- The input of a channel, and the channel's letter. -/
def sinOf (ch : Fin 4) : Fin 2 := if ch.val < 2 then 0 else 1
def sinCh (ch : Fin 4) : Nat := ch.val % 2

/-- A channel changed. -/
def modSinCh (s : State) (ch : Fin 4) (f : SinCh → SinCh) : State :=
  modFb s (fun fb => { fb with chans := upd fb.chans ch f })

/-- The accepted demands of an input's channels. -/
def accepted (s : State) (i : Fin 2) : Bool × Bool :=
  if i = 0 then (s.firebreak.chans[0].demand, s.firebreak.chans[1].demand)
  else (s.firebreak.chans[2].demand, s.firebreak.chans[3].demand)

/-- R445: DISCREPANCY. -/
def discrepancyEff (i : Fin 2) (s : State) : State :=
  let x := s.firebreak.ins[i]
  match x.differSince with
  | some t =>
    if x.discrepancy || s.firebreak.ticks < t + 100 * (sinEntry s i).discMs then s
    else
      let s := modFb s (fun fb => { fb with ins := upd fb.ins i (fun x => { x with
        discrepancy := true, bothDemand := false, firstRelease := none }) })
      let s := emit { source := 218, sev := .fault, idx := i, payload := b1 i ++ b1 x.firstCh } s
      if x.demand then s else demandOn i x.firstCh s
  | none => s

/-- R445: how the accepted levels bear on the discrepancy of an input. -/
def settleDiscrepancy (i : Fin 2) (s : State) : State :=
  let (a, b) := accepted s i
  let now := s.firebreak.ticks
  let d := 100 * (sinEntry s i).discMs
  let x := s.firebreak.ins[i]
  let x : SinIn := if a != b then { x with
      differSince := some (x.differSince.getD now), firstCh := if x.differSince.isSome then x.firstCh else if a then 0 else 1 }
    else { x with differSince := none }
  let put (x : SinIn) (s : State) : State := modFb s (fun fb => { fb with ins := upd fb.ins i (fun _ => x) })
  if !x.discrepancy then put x s
  else if a && b then put { x with bothDemand := true, firstRelease := none } s
  else if a != b then put (if x.bothDemand then { x with firstRelease := some (x.firstRelease.getD now) } else x) s
  else
    let inTime := match x.firstRelease with
      | some t => decide (now ≤ t + d)
      | none => true
    if x.bothDemand && inTime then
      emit { source := 219, sev := .note, idx := i, payload := b1 i }
        (put { x with discrepancy := false, bothDemand := false, firstRelease := none } s)
    else put { x with bothDemand := false, firstRelease := none } s

/-- R444–R446: an input after a change of its channels; `ch`: the channel that changed. A disagreement that reached its
limit before them is a fault first. -/
def settleInput (ch : Fin 4) (s : State) : State :=
  let i := sinOf ch
  let s := settleDiscrepancy i (discrepancyEff i s)
  let (a, b) := accepted s i
  let x := s.firebreak.ins[i]
  let want := a || b || x.discrepancy
  if want = x.demand then s else if want then demandOn i (sinCh ch) s else demandOff i s

/-- R444: a channel is accepted at demand; one whose level is released by now filters its release. -/
def acceptDemand (ch : Fin 4) (s : State) : State :=
  settleInput ch (modSinCh s ch (fun x => { x with demand := true, filtering := x.released }))

/-- R446: a channel that chatters is treated as at demand. -/
def chatter (ch : Fin 4) (s : State) : State :=
  if s.firebreak.chans[ch].chatter then s
  else
    let s := modSinCh s ch (fun x => { x with chatter := true })
    let s := emit { source := 220, sev := .warning, idx := sinOf ch, payload := b1 (sinOf ch) ++ b1 (sinCh ch) } s
    if s.firebreak.chans[ch].demand then s
    else acceptDemand ch (modSinCh s ch (fun x => { x with starts := s.firebreak.ticks :: x.starts }))

/-- R444, R446: SIN_INPUT_CHANGE. -/
def sinChangeEff (ch : Fin 4) (released : Bool) (s : State) : State :=
  let x := s.firebreak.chans[ch]
  let now := s.firebreak.ticks
  if x.released = released then s
  else
    let s := modSinCh s ch (fun x => { x with released := released, since := now })
    if released && x.demand then
      let starts := now :: x.starts.filter (fun t => decide (now < t + 10000))
      let s := modSinCh s ch (fun x => { x with filtering := true, starts := starts })
      if 4 ≤ starts.length then chatter ch s else s
    else if released then
      -- an excursion shorter than dfilt
      let gl := now :: x.glitches.filter (fun t => decide (now < t + 1000))
      let s := modSinCh s ch (fun y => { y with filtering := false, glitches := if x.filtering then gl else y.glitches })
      if x.filtering && 8 ≤ gl.length then chatter ch s else s
    else modSinCh s ch (fun y => { y with filtering := !x.demand })

/-- R444: DEMAND_ACCEPT. -/
def demandAcceptEff (ch : Fin 4) (s : State) : State :=
  let x := s.firebreak.chans[ch]
  if !x.released && !x.demand && x.filtering && decide (x.since + (sinEntry s (sinOf ch)).dfilt ≤ s.firebreak.ticks) then
    acceptDemand ch s
  else s

/-- R444, R446: RELEASE_ACCEPT. -/
def releaseAcceptEff (ch : Fin 4) (s : State) : State :=
  let x := s.firebreak.chans[ch]
  if x.released && x.demand && x.filtering
      && decide (x.since + 100 * (sinEntry s (sinOf ch)).filterMs ≤ s.firebreak.ticks) then
    settleInput ch (modSinCh s ch (fun x => { x with demand := false, filtering := false, chatter := false, starts := [] }))
  else s

/-! ### Speed (R448, R449) -/

/-- R448: the net counts of a window. -/
def netCounts (s : State) (m : MonEntry) (c0 c : BitVec 32) : Int :=
  match portOf m.fb with
  | some _ => (c - c0).toInt
  | none =>
    let f := chanForm s.link.eps[Fin.ofNat 12 (m.fb - 0x40)].paper 0 0
    if f.1 = 2 then sext (max 8 (min 32 f.2)) (c - c0).toNat else (c - c0).toInt

/-- R448: the slot not in OFF that uses the same source. -/
def slotOfSource (s : State) (m : MonEntry) : Option (Fin 32) :=
  (List.finRange 32).find? (fun n =>
    s.axis.slots[n].mode != .off && (match s.axis.slots[n].bind with
      | some b => if m.fb ≤ 3 then b.fbSource == m.fb
          else b.fbSource == 0x10 && ((axisOf s n).map (fun x => (x.1.val, x.2))) == some (m.fb - 0x40, 0)
      | none => false))

/-- R448: the cross-check of one entry. -/
def crossCheck (i : Fin 4) (m : MonEntry) (v : Int) (s : State) : State :=
  match slotOfSource s m with
  | none => modFb s (fun fb => { fb with estimates := upd fb.estimates i (fun e => { e with differ := 0 }) })
  | some n =>
    let vm := s.axis.slots[n].fb.v
    let tol := max (v.natAbs * 2) (200 * m.vStand)
    let k := if tol < (v - vm).natAbs * 100 then s.firebreak.estimates[i].differ + 1 else 0
    let s := modFb s (fun fb => { fb with estimates := upd fb.estimates i (fun e => { e with differ := k % 10 }) })
    if k < 10 then s
    else
      let g : Fin 8 := Fin.ofNat 8 m.group
      let live := !s.firebreak.groups[g].sto
      let h : Hap := { source := 226, sev := .fault, idx := i, handler := if live then 2 else 0
                       payload := b1 i ++ sgnBytes 4 v ++ sgnBytes 4 vm
                       action := if live then some (.ss1 (BitVec.ofNat 8 (2 ^ g.val))) else none }
      let (s, r, _) := raiseHap s h
      fbRequest r none g s

/-- R449: the envelope of an entry, times 100, at τ ticks after the demand. -/
def envelope (m : MonEntry) (vd : Int) (τ : Nat) : Int :=
  let top : Int := (vd + m.vMargin) * 100
  if τ < 100 * m.tDelay then top else max (top - (m.decelMin * (τ - 100 * m.tDelay) : Nat)) (m.vStand * 100 : Nat)

/-- R449: the watch of a group at a window's end. -/
def watchGroup (g : Fin 8) (s : State) : State :=
  match s.firebreak.groups[g].watch with
  | none => s
  | some t0 =>
    let τ := s.firebreak.ticks - t0
    let ms := monsFor s g
    let s := ms.foldl (fun s (i, m) => modFb s (fun fb => { fb with estimates := upd fb.estimates i (fun e => { e with
      still := if e.v.natAbs ≤ m.vStand then e.still + 1 else 0 }) })) s
    let bad := ms.find? (fun (i, m) =>
      let e := s.firebreak.estimates[i]
      decide (envelope m e.vd τ < (e.v.natAbs * 100 : Nat)))
    match bad with
    | some (i, m) =>
      let e := s.firebreak.estimates[i]
      let s := emit { source := 221, sev := .stop, idx := i, handler := 2
                      payload := b1 i ++ b1 g ++ sgnBytes 4 e.v ++ sgnBytes 4 (envelope m e.vd τ / 100) } s
      applySto g 3 s
    | none =>
      if ms.all (fun (i, _) => decide (10 ≤ s.firebreak.estimates[i].still)) then applySto g 1 s else s

/-- R448, R449: FB_SPEED_WINDOW; a STO whose conditions have ended is lifted. -/
def speedWindowEff (s : State) : State :=
  if s.firebreak.ticks < s.firebreak.windowAt + 100 then s
  else
    let s := liftSto s
    let s := modFb s (fun fb => { fb with windowAt := fb.ticks })
    let used := (List.finRange 4).filterMap (fun i => match s.firebreak.mons[i.val]? with
      | some m => if m.group < 8 then some (i, m) else none
      | none => none)
    let s := used.foldl (fun s (i, m) =>
      let c := monCount s m
      let v := satS 32 (netCounts s m s.firebreak.estimates[i].c0 c * 256)
      modFb s (fun fb => { fb with estimates := upd fb.estimates i (fun e => { e with c0 := c, v := v }) })) s
    let s := used.foldl (fun s (i, m) => crossCheck i m s.firebreak.estimates[i].v s) s
    (List.finRange 8).foldl (fun s (g : Fin 8) => watchGroup g s) s

/-! ### Test pulses and endpoint STO (R454, R455) -/

/-- R455: STO_TEST_PULSE: the pulse and its read-back. -/
def stoTestEff (lowDuring highAfter : Bool) (s : State) : State :=
  if !s.firebreak.stoOut then s
  else
    let t : T64 := BitVec.ofNat 64 s.time.now
    let s := putEdge 10 { target := t, dom := .d0, level := false, owner := .stoTest } true s
    let s := putEdge 10 { target := t + BitVec.ofNat 64 (300 * usLsb), dom := .d0, level := true, owner := .stoTest } true s
    let s := modFb s (fun fb => { fb with readback := highAfter })
    if lowDuring && highAfter then modFb s (fun fb => { fb with stoTests := fb.stoTests + 1 })
    else if s.firebreak.testFail then s
    else
      let gs := maskGroups (stoOutGroups s)
      let live := gs.filter (fun g => !s.firebreak.groups[g].sto)
      let mask := BitVec.ofNat 8 (ofMask ((List.finRange 8).map (fun g => live.contains g)))
      let s := modFb s (fun fb => { fb with testFail := true, failPending := true })
      let (s, r, _) := raiseHap s { source := 223, sev := .stop, handler := 2, payload := b1 (ofMask [!lowDuring, highAfter])
                                    action := if live = [] then none else some (.ss1 mask) }
      settleOutputs (gs.foldl (fun s g => fbRequest r none g s) s)

/-- R454: EP_STO_TIMEOUT. -/
def epStoTimeoutEff (e : Fin 12) (s : State) : State :=
  let x := s.link.eps[e]
  match x.stoSince with
  | some t =>
    if !x.stoReported && !x.stoFailed && decide (t + leAt s.firebreak.record 26 2 * msLsb ≤ s.time.now) then
      let s := modEp s e (fun x => { x with stoFailed := true })
      let s := modFb s (fun fb => { fb with epFail := true, outOff := true })
      settleOutputs (emit { source := 224, sev := .stop, idx := e, handler := 2, payload := b1 e ++ b1 1 } s)
    else s
  | none => s

/-! ### The contactor (R456) -/

/-- R456: an EDM fault is latched. -/
def edmFault (i : Fin 2) (expectedOpen : Bool) (s : State) : State :=
  if s.firebreak.edmFault then s
  else
    let s := modFb s (fun fb => { fb with edmFault := true })
    let s := emit { source := 225, sev := .stop, idx := i, handler := 2, payload := b1 i ++ b1 (ofBool expectedOpen) } s
    settleOutputs ((maskGroups (cdrvGroups s)).foldl (fun s g => applySto g 5 s) s)

/-- R456: EDM_INPUT: a filtered EDM input changes. -/
def edmInputEff (i : Fin 2) (isOpen : Bool) (s : State) : State :=
  if s.firebreak.edmOpen.getLsbD i == isOpen then s
  else
    let s := modFb s (fun fb => { fb with
      edmOpen := if isOpen then fb.edmOpen ||| (if i = 0 then 1 else 2) else fb.edmOpen &&& (if i = 0 then 2 else 1) })
    if s.firebreak.cdrv && isOpen && bit (edmMask s) i.val then edmFault i false s else settleOutputs s

/-- R456: EDM_TIMEOUT. -/
def edmTimeoutEff (i : Fin 2) (s : State) : State :=
  match s.firebreak.cdrvAt with
  | some t =>
    if bit (edmMask s) i.val && decide (t + edmTicks s ≤ s.firebreak.ticks)
        && s.firebreak.edmOpen.getLsbD i == s.firebreak.cdrv then edmFault i (!s.firebreak.cdrv) s
    else s
  | none => s

/-- R456: EDM_ACK. -/
def edmAckEff (s : State) : State :=
  if s.firebreak.edmFault && edmAll s true then liftSto (modFb s (fun fb => { fb with edmFault := false })) else s

/-! ### Writing and confirming the record (R458, R459) -/

/-- R458: some slot is not in OFF. -/
def slotsOn (s : State) : Bool := s.axis.slots.toList.any (fun sl => sl.mode != .off)

/-- R458: the checks of SAFETY_RECORD_WRITE. -/
def recordWriteCheck (f : InFlight) (s : State) : Option (Nat × Int) :=
  let b := f.buf.data.take 96
  let bad := recordRange b
  firstFail [resv f.payload 24 63, bufFailed f 96, (leAt b 92 4 != recordCheck b, 0x0080, sext 32 (recordCheck b)),
    (bad.isSome, 0x0081, ((bad.getD 0 : Nat) : Int)), denied (slotsOn s) 0x80]

/-- R458: a new record is stored as unconfirmed, and every group is held in STO. -/
def recordWriteNow (f : InFlight) (s : State) : State :=
  let b := f.buf.data.take 96
  let s := modFb s (fun fb => { fb with record := b, valid := true, confirmed := false, nvConfirmed := false })
  let s := holdSto (holdPresent (loadEntries s))
  complete f.id stOK (sext 32 (leAt b 92 4)) 0 (some (nowStamp s)) (recordState 1 s)

/-- R459: the value offered confirms the stored record, or not. -/
def confirmRecord (value : Nat) (s : State) : State × Bool :=
  if s.firebreak.valid && value == leAt s.firebreak.record 92 4 then
    (liftSto (recordState 2 (modFb s (fun fb => { fb with confirmed := true, nvConfirmed := true }))), true)
  else (emit { source := 229, sev := .warning, payload := leBytes 4 value } s, false)

/-- R459: the checks of SAFETY_CONFIRM. -/
def confirmCheck (f : InFlight) (s : State) : Option (Nat × Int) := firstFail [resv f.payload 20 63, denied (slotsOn s) 0x80]

/-- R459: SAFETY_CONFIRM. -/
def confirmNow (f : InFlight) (s : State) : State :=
  let (s, ok) := confirmRecord (pU f.payload 16 4) s
  if ok then completeOk f.id (some (nowStamp s)) s else reject f.id 0x0082 0 s

/-- R459: FB_CONFIRM written through the service port. -/
def fbConfirmEff (value : Nat) (s : State) : State :=
  if slotsOn s || s.life.state == .commissioned || s.life.state == .retired then s else (confirmRecord value s).1

end Sys2Proof.Machine
end

