-- ==== Sys2Proof/Machine/Park.lean ====
section
/-!
DEFINITION. The park record (R492, R493), the park move (R494–R496) and the orphan policy (R104, R105).
-/

namespace Sys2Proof.Machine

/-! ### The park record (R492) -/

/-- An entry of the record, from its offset. -/
def parkEntryOf (b : List Byte) (o : Nat) : ParkEntry :=
  let u (i : Nat) : Nat := byteAt b (o + i)
  { slot := Fin.ofNat 32 (u 0), step := u 1 == 2, ep := Fin.ofNat 12 (u 2), fb := u 3, method := u 4, neg := bit (u 5) 0
    pin := Fin.ofNat 4 (bits (u 5) 2 1), falling := bit (u 5) 3, order := u 6, group := Fin.ofNat 8 (u 7)
    target := sext 32 (leAt b (o + 8) 4), maxTravel := leAt b (o + 12) 4, vPark := sext 32 (leAt b (o + 16) 4)
    aPark := sext 32 (leAt b (o + 20) 4), iLimit := sext 16 (leAt b (o + 24) 2), kpPos := leAt b (o + 26) 2
    kpVel := leAt b (o + 28) 2, kiVel := leAt b (o + 30) 2 }

/-- The entries of the stored record. -/
def parkEntries (b : List Byte) : List ParkEntry := (List.range (byteAt b 3)).map (fun k => parkEntryOf b (16 + 32 * k))

/-- R492: the offset of the first field out of range. The words of CAN0 must be valid where CAN0 listens. -/
def parkBad (b : List Byte) : Option Nat :=
  let u := byteAt b
  let n := u 3
  let nbt := leAt b 8 4
  let entry (k : Nat) : List (Bool × Nat) :=
    let o := 16 + 32 * k
    let fb := u (o + 3)
    let pos (x : Int) : Bool := decide (0 < x)
    if n ≤ k then (List.range 32).map (fun i => (u (o + i) != 0, o + i))
    else [(decide (31 < u o) || (List.range k).any (fun j => u (16 + 32 * j) == u o), o),
      (u (o + 1) != 1 && u (o + 1) != 2, o + 1), (decide (11 < u (o + 2)), o + 2),
      (!((1 ≤ fb && fb ≤ 3) || fb == 0x10 || fb == 0x11 || (fb == 0 && u (o + 1) == 2)), o + 3), (decide (2 < u (o + 4)), o + 4),
      (decide (15 < u (o + 5)), o + 5), (decide (3 < u (o + 6)), o + 6), (decide (7 < u (o + 7)), o + 7),
      (u (o + 4) != 0 && leAt b (o + 12) 4 == 0, o + 12), (!pos (sext 32 (leAt b (o + 16) 4)), o + 16),
      (!pos (sext 32 (leAt b (o + 20) 4)), o + 20), (!pos (sext 16 (leAt b (o + 24) 2)), o + 24)]
  let all : List (Bool × Nat) := [(leAt b 0 2 != 0x504B, 0), (u 2 != 1, 2), (decide (4 < n), 3), (decide (3 < u 4), 4)]
    ++ [5, 6, 7].map (fun i => (u i != 0, i))
    ++ [(bit (u 4) 0 && !timingOk nbt 1248, 8), (bit (u 4) 0 && !timingOk nbt (leAt b 12 4), 12)]
    ++ (List.range 4).flatMap entry ++ (List.range 12).map (fun i => (u (144 + i) != 0, 144 + i))
  (all.find? (fun x => x.1)).map (fun x => x.2)

/-- R492: the check value a record must have, and whether it is valid. -/
def parkCheckValue (b : List Byte) : Nat := crc32 (b.take 156)
def parkGood (b : List Byte) : Bool := b.length == 160 && parkCheckValue b == leAt b 156 4 && (parkBad b).isNone

/-- R493: the checks of PARK_RECORD_WRITE. -/
def parkWriteCheck (f : InFlight) (_s : State) : Option (Nat × Int) :=
  let b := f.buf.data.take 160
  firstFail [resv f.payload 24 63, bufFailed f 160, (parkCheckValue b != leAt b 156 4, 0x0080, 0),
    ((parkBad b).isSome, 0x0081, ((parkBad b).getD 0 : Nat))]

/-- R493: the record is held in non-volatile memory; the completion shows its check value. -/
def parkWriteNow (f : InFlight) (s : State) : State :=
  let b := f.buf.data.take 160
  let s := { s with life := { s.life with park := b, parkValid := true } }
  complete f.id stOK (sext 32 (parkCheckValue b)) 0 (some (nowStamp s)) s

/-! ### Runs -/

/-- A run that has neither ended nor failed. -/
def parkLive (r : ParkRun) : Bool := r.phase != .done && r.phase != .failed

/-- R496: a slot that an entry of a running park move names. -/
def parkSlot (s : State) (n : Fin 32) : Bool := s.life.parkActive && s.life.runs.any (fun r => r.entry.slot == n)

/-- The place of an entry among the runs. -/
def modRun (i : Nat) (f : ParkRun → ParkRun) (s : State) : State :=
  { s with life := { s.life with runs := s.life.runs.modify i f } }

/-- The per-move limits of an entry: those of the slot in the move of power-up, v_park and a_park under the orphan policy
(R495: jerk a_park per ms). -/
def parkLims (r : ParkRun) : Int × Int × Int × Int :=
  if r.own then (0, 0, 0, 0) else (r.entry.vPark, r.entry.aPark, r.entry.aPark, r.entry.aPark)

/-- R495: an entry is over: PARK_ENTRY is raised, the slot goes to OFF, and what the move of power-up took is given back. -/
def endEntry (i : Nat) (ok : Bool) (s : State) : State :=
  match s.life.runs[i]? with
  | none => s
  | some r =>
    let n := r.entry.slot
    let s := modRun i (fun r => { r with phase := if ok then .done else .failed }) s
    let s := if s.axis.slots[n].mode = .off then s else slotOff n s
    let s := emit { source := 245, sev := if ok then .note else .warning, idx := i
                    payload := b1 i ++ b1 n ++ b1 (if ok then 0 else r.reason) ++ leBytes 6 s.axis.slots[n].cmdP.toNat } s
    if !r.own then s
    else
      let s := match r.lease.bind (fun k => (tabGet s.glade.leases k).map (fun l => (k, l))) with
        | some l => freeLease s l
        | none => s
      let s := modSlot s n (fun sl => { sl with
        bind := none, limits := none, step := {}, outSched := {}, curSched := {} })
      if parkEp s r.entry.ep then s
      else modEp (stopCyclic r.entry.ep s) r.entry.ep (fun x => { x with bind := none })

/-- R495, R496: an entry fails: a moving slot stops at a_park first. -/
def failEntry (i : Nat) (reason : Nat) (s : State) : State :=
  match s.life.runs[i]? with
  | none => s
  | some r =>
    let n := r.entry.slot
    if !parkLive r || r.phase == .stopping then s
    else
      let s := modRun i (fun r => { r with reason := reason }) s
      if r.phase = .waiting ∨ s.axis.slots[n].mode ≠ .auto then endEntry i false s
      else
        let s := modRun i (fun r => { r with phase := .stopping }) s
        if s.axis.slots[n].ss1 then s else modSlot s n (setGoal .rest none (parkLims r))

/-- R495: the slot moves to its final position: `at'` in 2^-16 counts, near the command. -/
def parkReturn (i : Nat) (at' : P48) (r : ParkRun) (s : State) : State :=
  let n := r.entry.slot
  let g := roundDiv s.axis.slots[n].gen.p (2 ^ 32)
  let t := g + wrapS 48 (p48 at' - g) + r.entry.target * 65536
  goTo n t none (parkLims r) (modRun i (fun r => { r with phase := .returning, goal := some t }) s)

/-- R268: whether a slot's source is an absolute channel. -/
def parkAbsolute (s : State) (n : Fin 32) : Bool :=
  match s.axis.slots[n].bind.bind fbChannel, axisOf s n with
  | some c, some (e, a) => (chanForm s.link.eps[e].paper a c).1 == 2
  | _, _ => false

/-- R495: an entry starts. -/
def startEntry (i : Nat) (s : State) : State :=
  match s.life.runs[i]? with
  | none => s
  | some r =>
    let n := r.entry.slot
    let sl := s.axis.slots[n]
    let s := if r.own then
        let pos : P48 := if r.entry.fb = 0 then sl.cmdP else sl.fb.meas
        let s := enterMode n .auto 0 s
        modSlot s n (fun sl => { sl with
          entry := .none, cmdP := pos, cmdV := 0, cmdA := 0, source := .profile, gen := { p := p48 pos * 2 ^ 32, v := 0, a := 0 } })
      else takeProfile n s
    let s := modRun i (fun r => { r with
      phase := .running, startPos := roundDiv s.axis.slots[n].gen.p (2 ^ 32), startAt := s.time.now }) s
    if r.entry.method = 0 then
      if !parkAbsolute s n then failEntry i 6 s
      else
        let t := r.entry.target * 65536
        goTo n t none (parkLims r) (modRun i (fun r => { r with phase := .returning, goal := some t }) s)
    else modSlot s n (setGoal (.velocity (if r.entry.neg then -r.entry.vPark else r.entry.vPark)) none (parkLims r))

/-! ### The start (R494, R495) -/

/-- R494: whether the park move may start. -/
def parkPermitted (s : State) : Bool :=
  let fb := s.firebreak
  (s.life.state == .integration || s.life.state == .commissioned || s.life.state == .service)
    && s.life.parkValid && byteAt s.life.park 3 != 0 && fb.valid && fb.confirmed
    && fb.chans.toList.all (fun c => !c.demand && !c.chatter) && fb.ins.toList.all (fun i => !i.discrepancy)

/-- R495: the binding of a park slot: both loops in the PARK leaf, at 64 cadences on D0. The manual gives no apply offset: half
the period (log 26). -/
def parkBinding (e : ParkEntry) : Binding :=
  { kind := if e.step then .step else .servo, structureCode := 0, group := e.group, essential := false, evBand := false
    evSat := false, epModel := false, dom := .d0, curCad := 6, outCad := 6, fbSource := e.fb, phase := 0, curOffset := 4000000
    outOffset := 4000000, curLeaf := 0x01, leaves := [0x38], compTable := none, repTable := none, invPos := 0x80, invVel := 20
    standstill := 0x10, bandSrc := 0, bandDst := 0, bandEp := 0, bandCh := 0, safeOut := 0 }

/-- R495: what an entry takes: its lease, its slot and its endpoint, with a lead of 100 µs. -/
def takeEntry (i : Nat) (e : ParkEntry) (s : State) : State :=
  let base := 6080 - 64 * i
  let k := (tabFree s.glade.leases 128).getD 0
  let l : Lease := { base := base, words := 64, slot := e.slot, owner := .slot e.slot, leaves := [0x38], standby := false }
  let s := modGlade s (fun g => { g with leases := tabPut g.leases k l })
  let s := leaseChange k (.slot e.slot) 64 (zeroWords base 64 s)
  let cfg : StepCfg := { endpoint := true, runCurrent := e.iLimit, holdCurrent := e.iLimit }
  let lim : Limits := { vmax := e.vPark, amax := e.aPark, dmax := e.aPark, jmax := e.aPark, stopDec := e.aPark, stopJerk := e.aPark }
  let s := modSlot s e.slot (fun sl => { sl with
    bind := some (parkBinding e), limits := some lim, step := if e.step then { cfg := some cfg } else {}
    outSched := { next := some (gridAt (cadence * 64) 0 (BitVec.ofNat 64 s.time.now)) } })
  let b : EpBind := (s.link.eps[e.ep].bind).getD
    { kind := 0, serialMust := false, mgroup := 0, axis0 := none, axis1 := none, idRec0 := none, idRec1 := none, lead := 100 * usLsb
      rdelay := 0, serial := [] }
  modEp s e.ep (fun x => { x with bind := some { b with axis0 := some e.slot } })

/-- R494, R495: the park move of power-up. -/
def parkStart (s : State) : State :=
  let s := { s with life := { s.life with parkAt := s.time.now } }
  if !parkPermitted s then emit { source := 244, sev := .note, payload := b1 0 } s
  else
    let es := parkEntries s.life.park
    let runs : List ParkRun := (es.zipIdx).map (fun (e, i) => { entry := e, own := true, lease := some i })
    let s := (es.zipIdx).foldl (fun s (e, i) => takeEntry i e s) s
    let s := { s with life := { s.life with runs := runs, parkActive := true } }
    emit { source := 244, sev := .note, payload := b1 (2 ^ es.length - 1) } s

/-! ### Progress -/

/-- R105: a slot has come to the end of its course. -/
def courseOver (s : State) (n : Fin 32) : Bool :=
  let sl := s.axis.slots[n]
  match sl.mode with
  | .off => true
  | .manual => decide (sl.fb.v.natAbs ≤ ((sl.bind.map (fun b => b.standstill)).getD 0))
  | .auto => (sl.bind.map (fun b => b.kind == .band)).getD true
      || (sl.cmdV == 0 && sl.cmdA == 0 && sl.homing.isNone
        && (match sl.source with
          | .profile => sl.goal == .none || sl.atGoal
          | .path => s.axis.paths[sl.pathGroup].state != .running
          | _ => true))

/-- R495: the entries of the lowest order that has not ended start together, once all their endpoints have arrived. -/
def startOrder (s : State) : State :=
  let live := s.life.runs.filter parkLive
  if live.any (fun r => r.phase != .waiting) then s
  else
    let low := (live.map (fun r => r.entry.order)).foldl min 255
    let group := live.filter (fun r => r.entry.order == low)
    if group.all (fun r => if r.own then epPresent s r.entry.ep else courseOver s r.entry.slot) then
      (List.range s.life.runs.length).foldl (fun s i => match s.life.runs[i]? with
        | some r => if r.phase = .waiting ∧ r.entry.order = low then startEntry i s else s
        | none => s) s
    else s

/-- R291: the position at a D0 instant of a slot fed by a local port; of an open-loop step slot, its command's. -/
def localPos (s : State) (n : Fin 32) (t : Nat) : Option Int :=
  match s.axis.slots[n].bind with
  | none => none
  | some b => match portOf b.fbSource with
    | some p =>
      let ref := refOf s.axis.slots[n].fb (portRaw s p t)
      some (wrapS 48 (ref + pecPure s n ref))
    | none =>
      let c := s.axis.slots[n].cubic
      if b.fbSource = 0 then some (cubicPos c (diff64 (fromD0 s (slotDom s n) t) c.t0)) else none

/-- R495, R496: what ends an entry from outside its own course: SS1 or STO of its group, its endpoint's departure, its slot's
going to OFF; and the edge it searches. -/
def watchEntry (i : Nat) (s : State) : State :=
  match s.life.runs[i]? with
  | none => s
  | some r =>
    if !parkLive r then s
    else
      let e := r.entry
      let s := if r.own && epPresent s e.ep then modRun i (fun r => { r with seen := true }) s else s
      let g : Option (Fin 8) := if r.own then some e.group else groupOf s e.slot
      let hit : Bool := match g with
        | some g => s.axis.groups[g].ss1 || s.axis.groups[g].stopped
            || s.firebreak.groups[g].ss1 || s.firebreak.groups[g].demands != 0 || s.firebreak.groups[g].sto
        | none => false
      let off := r.phase != .waiting && s.axis.slots[e.slot].mode == .off
      let s := if hit then failEntry i 4 s
        else if r.own && r.seen && !epPresent s e.ep then failEntry i 2 s
        else if off && r.phase != .stopping then failEntry i 2 s else s
      match s.life.runs[i]? with
      | none => s
      | some r =>
        let p := s.pins.pins[e.pin]
        let s := if r.phase == .stopping && s.axis.slots[e.slot].mode == .off then endEntry i false s else s
        match p.last with
        | some t =>
          if r.phase == .running && e.method == 2 && r.edge.isNone && decide (r.startAt < t) && p.lastLevel == !e.falling then
            let at' := localPos s e.slot t
            modSlot (modRun i (fun r => { r with edge := some t, goal := at' }) s) e.slot (setGoal .rest none (parkLims r))
          else s
        | none => s

/-- R495: PARK_DONE, once every entry has ended or failed. -/
def parkDone (s : State) : State :=
  if s.life.parkActive && s.life.runs.all (fun r => !parkLive r) then
    let s := { s with life := { s.life with parkActive := false } }
    let mask (ph : ParkPhase) : Nat := ofMask (s.life.runs.map (fun r => r.phase == ph))
    emit { source := 246, sev := .note, payload := b1 (mask .done) ++ b1 (mask .failed) } s
  else s

/-- The park move after every step of the machine. -/
def parkSettle (s : State) : State :=
  if !s.life.parkActive then s
  else parkDone (startOrder ((List.range s.life.runs.length).foldl (fun s i => watchEntry i s) s))

/-- R495, R291: the position at the edge of an entry; an endpoint-fed one's once the sample after it has been measured. -/
def edgePos (s : State) (n : Fin 32) (t : Nat) (known : Option Int) : Option (P48 × State) :=
  let f := s.axis.slots[n].fb
  let x := fromD0 s (slotDom s n) t
  match known, f.raw with
  | some p, _ => some (BitVec.ofInt 48 p, s)
  | none, some (t1, _) => if 0 ≤ diff64 t1 x then some (between f x s) else none
  | none, none => none

/-- R495: the methods 1 and 2 at a sample of the slot, before its command moves on. -/
def searchEntry (i : Nat) (r : ParkRun) (s : State) : State :=
  let e := r.entry
  let sl := s.axis.slots[e.slot]
  let far := decide (e.maxTravel * 65536 < (roundDiv sl.gen.p (2 ^ 32) - r.startPos).natAbs)
  if e.method = 1 then
    let lag := (wrapS 48 (p48 sl.cmdP - p48 sl.fb.meas)).natAbs
    let lim : Int := max (16 * 65536) (e.vPark * 2 * 256)
    let like := e.fb != 0 && decide (lim < lag) && decide (4 * (sl.fb.v.natAbs : Int) < e.vPark)
    let k := if like then r.stall + 1 else 0
    let s := modRun i (fun r => { r with stall := k }) s
    if 8 ≤ k then parkReturn i sl.fb.meas r s else if far then failEntry i 3 s else s
  else
    match r.edge with
    | none => if far then failEntry i 3 s else s
    | some t =>
      if !sl.atGoal then s
      else match edgePos s e.slot t r.goal with
        | some (x, s) => parkReturn i x r s
        | none => s

/-- R495: the park move at an outer sample of a slot. -/
def parkSample (n : Fin 32) (s : State) : State :=
  (List.range s.life.runs.length).foldl (fun s i => match s.life.runs[i]? with
    | some r =>
      let sl := s.axis.slots[n]
      if r.entry.slot ≠ n then s
      else match r.phase with
        | .running => searchEntry i r s
        | .returning =>
          let there : Bool := match sl.goal with
            | .position _ => sl.atGoal
            | _ => false
          if there then endEntry i true s else s
        | .stopping => if sl.atGoal && !sl.ss1 then endEntry i false s else s
        | _ => s
    | none => s) s

/-- R510: PARK_ENDPOINT_TIMEOUT: an entry's endpoint is absent 100 ms after understory service began. -/
def parkTimeoutEff (i : Fin 4) (s : State) : State :=
  match s.life.runs[i.val]? with
  | some r =>
    if r.own && r.phase == .waiting && !r.seen && !epPresent s r.entry.ep
        && decide (s.life.parkAt + 100 * msLsb ≤ s.time.now) then failEntry i 1 s
    else s
  | none => s

/-! ### The orphan policy (R105) -/

/-- R105, R225: a moving slot stops as for a STOP descriptor at its stop limits. -/
def orphanStopSlot (n : Fin 32) (limits : Bool) (s : State) : State :=
  let s := endHoming n (takeProfile n s)
  modSlot s n (fun sl => { setGoal .rest none (0, 0, 0, 0) sl with stopLimits := limits })

/-- R496: a STOP ends the park entry of its slot as a failure. -/
def parkStopSlot (n : Fin 32) (s : State) : State :=
  match s.life.runs.findIdx? (fun r => r.entry.slot == n) with
  | some i => failEntry i 5 s
  | none => s

/-- R105: policy STOP. -/
def orphanStopAll (s : State) : State :=
  let s := (List.finRange 32).foldl (fun s (n : Fin 32) =>
    let sl := s.axis.slots[n]
    let band := (sl.bind.map (fun b => b.kind == .band)).getD true
    if sl.mode == .auto && !band && !courseOver s n && !sl.ss1 then
      orphanStopSlot n true (if s.life.parkActive then parkStopSlot n s else s) else s) s
  (List.finRange 4).foldl (fun s (k : Fin 4) => ltcDisarm k 2 s.time.now s) s

/-- R105: policy PARK. A jog, which has no end of its own, is brought to rest (log 27); a search of homing or of the park move runs to
its end. -/
def orphanParkAll (s : State) : State :=
  let s := (List.finRange 32).foldl (fun s (n : Fin 32) =>
    let jogs : Bool := match s.axis.slots[n].goal with
      | .velocity _ => true
      | _ => false
    if s.axis.slots[n].mode == .auto && jogs && s.axis.slots[n].homing.isNone && !parkSlot s n && !s.axis.slots[n].ss1 then orphanStopSlot n false s else s) s
  let s := (List.finRange 4).foldl (fun s (k : Fin 4) =>
    if ltcArmed s.pins.ltc[k] then modLtc s k (fun l => { l with orphan := true }) else s) s
  if s.life.parkActive || !s.life.parkValid then s
  else
    let fits (e : ParkEntry) : Bool :=
      let sl := s.axis.slots[e.slot]
      sl.mode == .auto && (match sl.bind with
        | some b => b.kind == .servo || b.kind == .step
        | none => false)
    let runs : List ParkRun := ((parkEntries s.life.park).filter fits).map (fun e => { entry := e, own := false })
    if runs = [] then s else { s with life := { s.life with runs := runs, parkActive := true } }

/-- R105: the orphan policy latched in HOST_CTRL runs; descriptors that have not taken effect complete. -/
def orphanApply (status detail : Nat) (s : State) : State :=
  let s := purge (fun _ => true) status (fun _ => detail) s
  let s := if s.life.parkActive then s else { s with life := { s.life with runs := [] } }
  let s := modHost s (fun h => { h with orphanActive := true, orphanRunning := true })
  if s.host.orphanStop then orphanStopAll s else orphanParkAll s

/-- R105: ORPHAN_DONE, when every slot is at rest. -/
def orphanSettle (s : State) : State :=
  if s.host.orphanRunning && !s.life.parkActive && (List.finRange 32).all (courseOver s)
      && s.pins.ltc.toList.all (fun l => !(l.orphan && ltcArmed l)) then
    let s := modHost s (fun h => { h with orphanRunning := false })
    emit { source := 22, sev := .note
           payload := b1 ((s.life.runs.filter (fun r => !r.own && r.phase == .done)).length) } s
  else s

end Sys2Proof.Machine
end

