-- ==== Sys2Proof/Machine/Tally.lean ====
section
/-!
DEFINITION. The tallies, their journal and the calendar (R502–R509).
-/

namespace Sys2Proof.Machine

/-- R497: the code of a lifecycle state. -/
def lifeCode : Lifecycle → Nat
  | .factory => 0 | .integration => 1 | .commissioned => 2 | .service => 3 | .retired => 4

/-- R497: the state of a code. -/
def lifeOf (c : Nat) : Option Lifecycle :=
  match c with
  | 0 => some .factory | 1 => some .integration | 2 => some .commissioned | 3 => some .service | 4 => some .retired
  | _ => none

/-- The tallies changed. -/
def modTallies (s : State) (f : TallySt → TallySt) : State := { s with tally := f s.tally }

/-! ### The calendar (R508, R509) -/

/-- R508: the seconds the calendar shows; 0 while it is not valid. -/
def calNow (s : State) : Nat :=
  if s.life.calValid then (s.life.calendar + (s.time.now - s.life.calFrom) / secLsb) % 2 ^ 32 else 0

/-- R507: seconds since the journal was last refreshed. -/
def sinceRefresh (s : State) : Nat :=
  if s.life.calValid then calNow s - s.tally.refreshCal else s.tally.poweredS - s.tally.refreshPow

/-- R511: CALENDAR_STATE. -/
def calendarState (s : State) : State :=
  emit { source := 243, sev := if s.life.calValid then .note else .warning
         payload := b1 (ofBool s.life.calValid) ++ leBytes 4 (calNow s) } s

/-- R509: the checks of CALENDAR_SET. -/
def calendarCheck (f : InFlight) (_s : State) : Option (Nat × Int) := firstFail [resv f.payload 20 63]

/-- R509: CALENDAR_SET. The time since the last refresh is kept (R507). -/
def calendarNow (f : InFlight) (s : State) : State :=
  let v := pU f.payload 16 4
  let old := calNow s
  let age := sinceRefresh s
  let s := { s with life := { s.life with calendar := v, calFrom := s.time.now, calValid := true } }
  let s := modTallies s (fun t => { t with refreshCal := v - age })
  complete f.id stOK (sext 32 old) 0 (some (nowStamp s)) (calendarState s)

/-- R508: VBACKUP_LOSS: the calendar's supply fails while VIN is absent. CALENDAR_STATE is raised once the device runs again. -/
def vbackupEff (s : State) : State :=
  if s.chip.powerGood then s
  else { s with life := { s.life with vbackupOk := false, calLost := s.life.calLost || s.life.calValid, calValid := false } }

/-- R508: the loss of the calendar while VIN was absent is raised. -/
def reportCalendar (s : State) : State :=
  if s.life.calLost then calendarState { s with life := { s.life with calLost := false } } else s

/-! ### The image (R504) -/

/-- R504: the bytes of a tally image but for its check value. -/
def tallyBody (s : State) : List Byte :=
  let t := s.tally
  let w (x : Nat) : List Byte := leBytes 4 (satU 32 x)
  let slot (x : SlotTally) : List Byte := w x.energised ++ leBytes 8 (satU 64 x.travel) ++ w x.reversals ++ w x.peaks ++ w x.cycles
  leBytes 2 0x544C ++ b1 1 ++ b1 (lifeCode s.life.state) ++ w t.powerCycles ++ w t.poweredS ++ leBytes 4 (calNow s)
    ++ leBytes 8 s.time.now ++ t.bins.toList.flatMap w ++ leBytes 2 (satU 16 t.changes) ++ leBytes 2 (satU 16 t.flushes)
    ++ w t.refreshes ++ t.slots.toList.flatMap slot ++ t.brakes.toList.flatMap w ++ w t.contactor
    ++ t.linkErrors.toList.flatMap w ++ List.replicate 56 0

/-- R504: a tally image. -/
def tallyImage (s : State) : List Byte :=
  let b := tallyBody s
  b ++ leBytes 4 (crc32 b)

/-- R502: the counters of an image. -/
def loadTally (b : List Byte) (t : TallySt) : TallySt :=
  let w (o : Nat) : Nat := leAt b o 4
  { t with
    powerCycles := w 4, poweredS := w 8, bins := Vector.ofFn (fun i : Fin 8 => w (24 + 4 * i.val)), changes := leAt b 56 2
    flushes := leAt b 58 2, refreshes := w 60
    slots := Vector.ofFn (fun i : Fin 32 =>
      let o := 64 + 24 * i.val
      { energised := w o, travel := leAt b (o + 4) 8, reversals := w (o + 12), peaks := w (o + 16), cycles := w (o + 20) })
    brakes := Vector.ofFn (fun i : Fin 24 => w (832 + 4 * i.val)), contactor := w 928
    linkErrors := Vector.ofFn (fun i : Fin 8 => w (932 + 4 * i.val)) }

/-! ### The journal (R502, R506, R507) -/

/-- R502: the place of a record in the journal. -/
def journalPlace (seq : Nat) : Nat := seq % 64

/-- R502, R511: the next record is written. reason: 1 periodic, 2 power fail, 3 lifecycle. -/
def writeTally (reason : Nat) (s : State) : State :=
  let seq := s.tally.seq + 1
  let img := tallyImage s
  let s := modTallies s (fun t => { t with
    seq := seq, lastWrite := s.time.now, journal := ((seq.toNat, img) :: t.journal).take 64 })
  emit { source := 240, sev := .note, idx := reason, payload := b1 reason ++ leBytes 2 seq.toNat } s

/-- R502: the newest valid record is loaded; a record that fails its check value is skipped and reported. -/
def loadJournal (bad : List (Fin 64)) (s : State) : State :=
  let failed (k : Nat) : Bool := bad.any (fun x => x.val == k)
  let keep := s.tally.journal.filter (fun r => !failed (journalPlace r.1))
  let t : TallySt := { s.tally with journal := keep, nvOk := bad.isEmpty, refreshing := false, snapSeq := 0, image := [], lastWrite := 0 }
  let t := match keep with
    | (q, img) :: _ => { loadTally img t with seq := BitVec.ofNat 16 q }
    | [] => { loadTally [] t with seq := s.tally.seq }
  bad.foldl (fun s k => emit { source := 242, sev := .fault, idx := k.val, payload := b1 k.val } s) { s with tally := t }

/-- R502: TALLY_PERIODIC: every 60 min of powered time. -/
def tallyPeriodicEff (s : State) : State :=
  if s.tally.lastWrite + 3600 * secLsb ≤ s.time.now then writeTally 1 s else s

/-- R507: TALLY_REFRESH: 2 years (of 365 days) after the last refresh every record of the journal is rewritten. -/
def tallyRefreshEff (s : State) : State :=
  if sinceRefresh s < 2 * 365 * 86400 then s
  else
    let s := modTallies s (fun t => { t with
      refreshes := satU 32 (t.refreshes + 1), refreshCal := calNow s, refreshPow := t.poweredS })
    emit { source := 241, sev := .note, payload := leBytes 4 s.tally.refreshes } s

/-! ### Reading (R505) -/

/-- R505: the live tallies copied into TALLY_IMAGE. -/
def tallySnapEff (s : State) : State :=
  let img := tallyImage s
  modTallies s (fun t => { t with image := img, snapSeq := t.snapSeq + 1 })

/-- R505: the checks of TALLY_READ. -/
def tallyReadCheck (f : InFlight) (_s : State) : Option (Nat × Int) := firstFail [resv f.payload 24 63]

/-- R505: TALLY_READ. -/
def tallyReadNow (f : InFlight) (s : State) : State :=
  let s := tallySnapEff s
  let addr := pU f.payload 16 8
  if addr = 0 then complete f.id stOK 1024 0 (some (nowStamp s)) s
  else if f.buf.ok then complete f.id stOK 1024 0 (some (nowStamp s)) (hostWrite f addr s.tally.image s)
  else
    let got := min f.buf.data.length 1024
    complete f.id stBufferDma 0 (got : Nat) (some (nowStamp s)) (hostWrite f addr (s.tally.image.take got) s)

/-! ### Slot tallies at a sample (R503) -/

/-- R503: the counter that a slot's travel is summed from. -/
def travelCount (s : State) (n : Fin 32) (b : Binding) : Option (BitVec 32) :=
  match portOf b.fbSource with
  | some p => some s.axis.ports[p].c
  | none => if b.fbSource ≠ 0 then some (chanC s n)
      else if b.kind = .step then some (BitVec.ofInt 32 s.axis.slots[n].step.commanded) else none

/-- R503: travel and reversals of a slot at an outer sample. -/
def tallySample (n : Fin 32) (s : State) : State :=
  match s.axis.slots[n].bind with
  | none => s
  | some b =>
    let c := travelCount s n b
    let v := s.axis.slots[n].fb.v
    modTally s n (fun t =>
      let t := match t.lastC, c with
        | some a, some c => { t with travel := satU 64 (t.travel + (c - a).toInt.natAbs) }
        | _, _ => t
      let t := { t with lastC := c }
      if v.natAbs ≤ b.standstill then t
      else
        let t := if t.sign ≠ 0 ∧ t.sign ≠ sgn v then { t with reversals := satU 32 (t.reversals + 1) } else t
        { t with sign := sgn v })

end Sys2Proof.Machine
end

