-- ==== Sys2Proof/Machine/Chip.lean ====
section
/-!
DEFINITION. The chip supervisor: resets, bring-up and clearing (R486–R490), supply and temperature (R467, R506, R514, R516), the
lifecycle (R497–R501), audits (R36–R38), the host link and the heartbeat (R102–R105).
-/

namespace Sys2Proof.Machine

/-- The lifecycle region, the chip's status changed. -/
def modLife (s : State) (f : LifeSt → LifeSt) : State := { s with life := f s.life }
def modChip (s : State) (f : ChipSt → ChipSt) : State := { s with chip := f s.chip }

/-! ### Chip reset (R486, R488, R519) -/

/-- R519, R468: the outputs that fall when a chip reset begins. -/
def resetOutputs (s : State) : List Output :=
  let t : T64 := BitVec.ofNat 64 s.time.now
  (if s.fault.faultLow then [] else [.faultN false]) ++ (if s.firebreak.stoOut then [.sto false] else [])
    ++ (if s.firebreak.cdrv then [.cdrv false] else [])
    ++ ((List.finRange 12).filter (fun (p : Fin 12) => p != 10 && s.time.placers[p].level)).map (fun p => .edge p false t t false)

/-- R486: what a chip reset leaves: everything at its reset value but lifecycle state, safety record and confirmation, park
record, tallies and calendar. -/
def afterReset (s : State) : State :=
  let fresh : State := {}
  { fresh with
    pending := s.pending, free := s.free, out := s.out ++ resetOutputs s, tally := s.tally
    firebreak := { fresh.firebreak with record := s.firebreak.record, nvConfirmed := s.firebreak.nvConfirmed }
    life := { fresh.life with
      state := s.life.state, park := s.life.park, parkValid := s.life.parkValid
      calendar := (s.life.calendar + (s.time.now - s.life.calFrom) / secLsb) % 2 ^ 32, calFrom := 0, calValid := s.life.calValid
      vbackupOk := s.life.vbackupOk, calLost := s.life.calLost, tj := s.life.tj, vin := s.life.vin } }

/-- R488: the end of a chip reset, t_r: the strap is sampled, D0 starts at 0, clearing starts, and the stored records are
loaded. `cycle`: the reset counts as a power cycle (R503). -/
def beginUp (cycle strap : Bool) (bad : List (Fin 64)) (s : State) : State :=
  let s := { afterReset s with svc := { ({} : SvcSt) with strap := strap } }
  let s := modLife s (fun l => { l with parkValid := parkGood l.park })
  let s := reportCalendar (loadJournal bad s)
  if cycle then modTallies s (fun t => { t with powerCycles := satU 32 (t.powerCycles + 1) }) else s

/-- R486: CHIP_RESET. While RESET_N is low the reset has not ended. -/
def chipResetEff (kind : ResetKind) (resetNHigh strap : Bool) (bad : List (Fin 64)) (s : State) : State :=
  if kind = .powerGood ∧ s.chip.powerGood ∧ ¬ s.life.inReset then s
  else if kind = .selfReset ∧ ¬ s.life.powerFailed then s
  else
    let cycle := kind != .resetN
    if resetNHigh then beginUp cycle strap bad s
    else
      let pg := kind == .powerGood || s.chip.powerGood
      let s := modLife (afterReset s) (fun l => { l with inReset := true, resetNLow := true })
      let s := modChip s (fun c => { c with powerGood := pg })
      if cycle then modTallies s (fun t => { t with powerCycles := satU 32 (t.powerCycles + 1) }) else s

/-- R486: RESET_N_RELEASE. -/
def resetReleaseEff (strap : Bool) (bad : List (Fin 64)) (s : State) : State :=
  if !s.life.resetNLow then s
  else if !s.chip.powerGood then modLife s (fun l => { l with resetNLow := false, inReset := true })
  else
    let cycles := s.tally.powerCycles
    modTallies (beginUp false strap bad s) (fun t => { t with powerCycles := max cycles t.powerCycles })

/-- R516: POWER_GOOD_FALL: 2.5 ms after VIN fell below 5.6 V, or at once when a rail leaves regulation. -/
def powerFallEff (railLost : Bool) (s : State) : State :=
  if !railLost && !s.life.powerFailed then s
  else
    let low := s.life.resetNLow
    let s := modLife (afterReset s) (fun l => { l with inReset := true, resetNLow := low })
    modChip s (fun c => { c with powerGood := false })

/-- R506: POWER_RECOVERY_RESET. -/
def powerRecoveryEff (strap : Bool) (bad : List (Fin 64)) (s : State) : State :=
  if s.life.powerFailed then
    modLife (beginUp true strap bad s) (fun l => { l with vin := max 600 l.vin })
  else s

/-! ### Bring-up (R487–R489) -/

/-- R487: CLEARING. -/
def raiseClearing (mask : Nat) (s : State) : State := emit { source := 8, sev := .note, payload := leBytes 2 mask } s

/-- R487: the wipe of chip reset has ended. -/
def clearingDoneEff (s : State) : State :=
  if s.life.clearing then raiseClearing 0x7F (modLife s (fun l => { l with clearing := false })) else s

/-- R489: a cell that BIST failed. `late`: after understory service has begun, a chip-level cause. -/
def bistFail (late : Bool) (payload : List Byte) (s : State) : State :=
  let s := modChip s (fun c => { c with bistFail := true })
  if late then raiseChip { source := 1, sev := .stop, payload := payload } 6 s
  else emit { source := 1, sev := .fault, payload := payload } s

/-- R126, R11: a lane that BIST failed: the spare takes its place, and a job that it runs is queued again. The manual does not number
blocks: a free value. -/
def bistLane (late : Bool) (k : Fin 9) (s : State) : State :=
  let was := s.canopy.lanes[k].state
  let s := match s.canopy.lanes[k].run with
    | some r => queueJob r.job s
    | none => s
  let s := modLane s k (fun l => { l with state := .failedBist, run := none, cut := none })
  let s := match was, spareLane s with
    | .inService, some j => modLane s j (fun l => { l with state := .inService })
    | _, _ => s
  let s := if was = .inService ∧ inService s < 8 then
      emit { source := 83, sev := .fault, handler := 1, payload := b1 (inService s) } (modCanopy s (fun c => { c with degraded := true }))
    else s
  let (x, s) := takeFree s
  bistFail late (b1 1 ++ b1 x ++ b1 k) s

/-- R22, R489: the cells that BIST failed are isolated. -/
def bistIsolate (late : Bool) (lanes : BitVec 9) (cells : List BistCell) (s : State) : State :=
  let s := ((List.finRange 9).filter (fun k => lanes.getLsbD k.val)).foldl (fun s k => bistLane late k s) s
  cells.foldl (fun s c =>
    bistFail late [c.region, c.block, c.cell] (modChip s (fun x => { x with isolated := c.unit :: x.isolated }))) s

/-- R488, R494: understory service begins. -/
def understoryEff (lanes : BitVec 9) (cells : List BistCell) (s : State) : State :=
  if s.chip.understory || s.life.clearing then s
  else
    let s := bistIsolate false lanes cells s
    let s := modChip s (fun c => { c with understory := true })
    parkStart (emit { source := 0, sev := .note, payload := b1 1 } s)

/-- R467: REGION_LOST. -/
def regionLost (region block : Nat) (s : State) : State :=
  raiseChip { source := 14, sev := .stop, payload := b1 region ++ b1 block } 8 (modLife s (fun l => { l with lostRegion := true }))

/-- R467: MOTION with fewer than 6 lanes in service is lost. -/
def motionSettle (s : State) : State :=
  if decide (6 ≤ inService s) || s.fault.causes.any (fun c => c.1 == 8) then s
  else
    let (x, s) := takeFree s
    regionLost 1 (x % 256) s

/-- R489: BIST_END. -/
def bistEndEff (lanes : BitVec 9) (cells : List BistCell) (lost : Option (Byte × Byte)) (s : State) : State :=
  if !s.chip.understory || s.life.bistDone then s
  else
    let s := bistIsolate true lanes cells (modLife s (fun l => { l with bistDone := true }))
    match lost with
    | some (r, b) => regionLost r.toNat b.toNat s
    | none =>
      if inService s < 6 then motionSettle s
      else
        let s := govFollow (modChip s (fun c => { c with fullService := true }))
        emit { source := 0, sev := .note, payload := b1 2 } s

/-! ### Supply and temperature (R467, R483, R506, R514) -/

/-- R514: VIN_LOW: VIN falls below 6.0 V while power is good. -/
def vinLowEff (vin : Nat) (s : State) : State :=
  let was := s.life.vin
  let s := modLife s (fun l => { l with vin := vin })
  if s.chip.powerGood && decide (600 ≤ was) && decide (vin < 600) then
    let (s, r, _) := raiseHap s { source := 2, sev := .warning, payload := leBytes 2 vin }
    voidCause 2 r s
  else s

/-- R506, R467: POWER_FAIL: VIN falls below 5.6 V. -/
def powerFailEff (vin : Nat) (s : State) : State :=
  if s.life.powerFailed || decide (560 ≤ vin) then s
  else
    let s := modLife s (fun l => { l with vin := vin, powerFailed := true })
    let (s, r, _) := raiseHap s { source := 3, sev := .stop, handler := 3, payload := leBytes 2 vin }
    let s := chipCause 4 3 r (voidCause 2 r s)
    writeTally 2 (modTallies s (fun t => { t with flushes := satU 16 (t.flushes + 1) }))

/-- R483: THERMAL: the junction rises above 115 °C. -/
def thermalEff (tj : Int) (s : State) : State :=
  let was := s.life.tj
  let s := modLife s (fun l => { l with tj := tj, hot := decide (115 < tj) })
  if was ≤ 115 ∧ 115 < tj then emit { source := 5, sev := .warning, payload := sgnBytes 1 tj } s else s

/-- R467, R514: THERMAL_LIMIT: the junction rises above 125 °C. -/
def thermalLimitEff (tj : Int) (s : State) : State :=
  let was := s.life.tj
  let s := modLife s (fun l => { l with tj := tj, hot := decide (115 < tj) })
  if was ≤ 125 ∧ 125 < tj then
    let (s, r, _) := raiseHap s { source := 6, sev := .stop, handler := 3, payload := sgnBytes 1 tj }
    chipCause 7 6 r (voidCause 2 r s)
  else s

/-- R514: the junction falls below −40 °C: the limits are left without an entry of their own. -/
def junctionLowEff (tj : Int) (s : State) : State :=
  let s := modLife s (fun l => { l with tj := tj, hot := decide (115 < tj) })
  if tj < -40 then voidCause 2 none s else s

/-- R467: CORE_RAIL. -/
def coreRailEff (rail : Byte) (mv : Nat) (s : State) : State :=
  raiseChip { source := 4, sev := .stop, idx := rail.toNat, payload := [rail] ++ leBytes 2 mv } 5 s

/-- R44: the crystal has stopped, or its measured frequency is more than 3 % from nominal. -/
def xtalBad (ratio : Nat) : Bool := decide (3 * 65536 < 100 * ((ratio : Int) - 65536).natAbs)

/-- R44: XTAL_FAULT. -/
def xtalFaultEff (ratio : Nat) (s : State) : State :=
  if !xtalBad ratio then s else
  raiseChip { source := 32, sev := .stop, payload := leBytes 4 ratio } 2 (modTime s (fun t => { t with xtalOk := false }))

/-- R44: REF_UNLOCK. -/
def refUnlockEff (s : State) : State :=
  raiseChip { source := 33, sev := .stop } 3 (modTime s (fun t => { t with refLocked := false }))

/-- R468: FAULT_ACK. -/
def faultAckEff (s : State) : State :=
  ackCauses ((if 125 < s.life.tj then [7] else []) ++ (if inService s < 6 then [8] else [])) s

/-! ### Lifecycle (R497–R501, R107) -/

/-- R498: whether a transition is permitted, and whether it requires a confirmed safety record. -/
def transition (a b : Lifecycle) : Option Bool :=
  match a, b with
  | .retired, _ => none
  | _, .retired => some false
  | .factory, .integration | .commissioned, .service | .service, .integration => some false
  | .integration, .commissioned | .service, .commissioned => some true
  | _, _ => none

/-- R499: the states that refuse a transition, in the order of the table. -/
def lifeState (new low : Nat) (s : State) : List Check :=
  let t := (lifeOf new).bind (transition s.life.state)
  [denied s.life.parkActive 0x90, denied t.isNone 0x91,
    denied (t == some true && !(s.firebreak.valid && s.firebreak.confirmed)) 0x92,
    denied (slotsOn s || s.pins.ltc.toList.any ltcArmed) 0x93, denied (low != Config.serial.toNat % 65536) 0x94]

/-- R499: the checks of LIFECYCLE_CHANGE. -/
def lifeCheck (f : InFlight) (s : State) : Option (Nat × Int) :=
  let p := f.payload
  firstFail ([resv p 17 17, resv p 20 63, inval (decide (4 < pU p 16 1)) 16] ++ lifeState (pU p 16 1) (pU p 18 2) s)

/-- R499: a change is to be committed. -/
def lifeNow (f : InFlight) (s : State) : State :=
  match lifeOf (pU f.payload 16 1) with
  | some l => modFlight (modLife s (fun x => { x with changing := some (l, some f.id) })) f.id (fun f => { f with due := .running })
  | none => s

/-- R501: LIFE_REQ acts as a LIFECYCLE_CHANGE. -/
def lifeReqEff (value : Nat) (s : State) : State :=
  match lifeOf (bits value 2 0) with
  | some l =>
    if bits value 15 3 = 0 ∧ s.life.changing.isNone ∧ (firstFail (lifeState (bits value 2 0) (bits value 31 16) s)).isNone
    then modLife s (fun x => { x with changing := some (l, none) }) else s
  | none => s

/-- R487, R424: the acquisition memory is wiped and a capture under way ends; the manual names no cause for that end: a free value. -/
def wipeQuire (s : State) : State :=
  let q := s.quire
  let s := modQuire s (fun _ => { eccFixed := q.eccFixed, eccBad := q.eccBad, lost := q.lost })
  if q.state == .armed || q.state == .triggered then
    let (x, s) := takeFree s
    emit { source := 196, sev := .note, idx := x % 256, payload := b1 x ++ leBytes 4 (q.taken - q.oldest) } s
  else s

/-- R487: bits 0 to 5: every word of these memories is zero with fresh check bits. -/
def wipeMemories (s : State) : State :=
  let s := modGlade s (fun g => { g with words := [], bad := [], thin := none, deferred := [], folio := [], folioBad := [] })
  let s := { s with axis := { s.axis with slots := s.axis.slots.map (fun sl => { sl with cur := {}, out := {} }) } }
  let s := wipeQuire s
  let s := modCanopy s (fun c => { c with ram := [], leaves := [], badProgram := c.badProgram.filter (fun a => decide (a < 3072)) })
  let s := { s with
    can := s.can.map (fun c => { c with buffer := [], recover := none }),
    link := { s.link with links := s.link.links.map (fun l => { l with queue := [] }) } }
  modNk s (fun k => { k with
    tunnels := []
    links := k.links.map (fun l => { l with vcs := l.vcs.map (fun v => { v with waiting := [], unacked := [], sentAt := none }) }) })

/-- R107, R94: every descriptor in flight but the change itself completes with LIFECYCLE; its detail is the new state. -/
def endFlight (but : Option Nat) (new : Nat) (s : State) : State :=
  (s.host.flight.filter (fun f => some f.id != but)).foldl (fun s f =>
    completeAs f stLifecycle 0 new f.applied s.time.now s) s

/-- R498, R500: a lifecycle change is committed. -/
def lifecycleCommitEff (s : State) : State :=
  match s.life.changing with
  | none => s
  | some (new, desc) =>
    let old := s.life.state
    let wipes := old == .commissioned || new == .retired
    let mask : Nat := 0xBF + (if wipes then 0x100 else 0)
    let s := endFlight desc (lifeCode new) (dropAllFrames (lifeCode new) s)
    let s := modLife s (fun l => { l with state := new, changing := none, park := [], parkValid := false })
    let s := if wipes then
        let s := modFb s (fun fb => { fb with record := [], valid := false, confirmed := false, nvConfirmed := false })
        recordState 0 (holdSto (loadEntries s))
      else s
    let s := wipeMemories s
    let s := emit { source := 7, sev := .note, payload := b1 (lifeCode old) ++ b1 (lifeCode new) } s
    let s := raiseClearing mask s
    let s := writeTally 3 (modTallies s (fun t => { t with changes := satU 16 (t.changes + 1) }))
    let s := govFollow s
    match desc with
    | some d => complete d stOK (lifeCode new) mask (some (nowStamp s)) s
    | none => s

/-! ### Audits (R36–R38) -/

/-- R37: a credit pair. -/
def creditPair (out free : Nat) : Nat := out % 65536 + free % 65536 * 65536

/-- R37: a 64-bit audit as its two registers. -/
def pair64 (o x : Nat) : List (Nat × Nat) := [(o, x % 2 ^ 32), (o + 4, x / 2 ^ 32 % 2 ^ 32)]

/-- R34, R123, R383: descriptors accepted, from whatever source, and not yet completed. -/
def inFlightAll (s : State) : Nat := s.host.flight.length + s.host.done.length

/-- R369: the credit totals of the virtual channels. -/
def vcTotal (v : Fin 4) : Nat := #v[4, 16, 8, 8][v]

/-- R477: tokens of this member that wait in the event buffer. -/
def tokensPending (s : State) : Nat := (s.fault.buffer.filter (fun t => !t.remote)).length

/-- R36, R37: every audit counter, with the per-slot audits of a slot. -/
def auditWords (s : State) (n : Fin 32) : List (Nat × Nat) :=
  let sl := s.axis.slots[n]
  let g := sl.gear
  let w (o : Nat) (x : Int) : Nat × Nat := (o, toW 32 x)
  let sqCredit (k : Fin 8) : Nat :=
    if ringOn s (sqBase k) then creditPair (outstanding s k) (ringSize s (sqBase k) - outstanding s k) else 0
  let slCredit (k : Fin 4) : Nat :=
    let es := (List.finRange 12).filter (fun e => epLink e == k)
    creditPair ((es.map (fun e => s.link.eps[e].creditTotal - s.link.eps[e].creditFree)).foldl (· + ·) 0)
      ((es.map (fun e => s.link.eps[e].creditFree)).foldl (· + ·) 0)
  let nkCredit (l : Fin 2) (v : Fin 4) : Nat :=
    let f := s.norrak.links[l].vcs[v].free
    creditPair (vcTotal v - f) f
  let can (c : Fin 2) : List (Nat × Nat) :=
    let x := s.can[c]
    let o := 0x300 + 0x20 * c.val
    [(o, x.queued.toNat), (o + 4, x.sent.toNat), (o + 8, x.cancelled.toNat), (o + 12, x.sentLate.toNat), (o + 16, x.slots.length)]
  pair64 0x208 s.time.now ++ pair64 0x210 s.host.descAcc.toNat ++ pair64 0x218 s.host.descCpl.toNat ++ [(0x220, inFlightAll s)]
    ++ (List.finRange 8).map (fun k => (0x240 + 4 * k.val, sqCredit k)) ++ (List.finRange 4).map (fun k => (0x260 + 4 * k.val, slCredit k))
    ++ (List.finRange 2).flatMap (fun l => (List.finRange 4).map (fun v => (0x270 + 16 * l.val + 4 * v.val, nkCredit l v)))
    ++ [(0x290, creditPair (leasedWords s) (freeWords s))]
    ++ pair64 0x2A0 (toW 64 sl.step.commanded) ++ pair64 0x2A8 (toW 64 sl.step.emitted)
    ++ [w 0x2B0 (sl.step.commanded - sl.step.emitted), w 0x2B4 sl.fb.wraps, w 0x2B8 sl.fb.skips.toNat, w 0x2BC sl.fb.reref.toNat]
    ++ pair64 0x2C0 (toW 64 g.m) ++ pair64 0x2C8 (toW 64 g.fq) ++ [w 0x2D0 g.rem]
    ++ pair64 0x2E0 s.fault.evtGen.toNat ++ pair64 0x2E8 s.fault.evtWritten.toNat
    ++ [(0x2F0, s.fault.evtLost.toNat), (0x2F4, tokensPending s)] ++ can 0 ++ can 1

/-- R38: what the equalities of a snapshot are judged by, with the slot it copies. -/
def auditCopy (s : State) (n : Fin 32) : AuditCopy :=
  let sl := s.axis.slots[n]
  let count : Int := match sl.bind with
    | some b => ((travelCount s n b).map (fun c => c.toInt)).getD 0
    | none => 0
  { sqTotal := (List.finRange 8).map (fun k => if ringOn s (sqBase k) then ringSize s (sqBase k) else 0)
    slTotal := (List.finRange 4).map (fun k => (((List.finRange 12).filter (fun e => epLink e == k)).map (fun e =>
      s.link.eps[e].creditTotal)).foldl (· + ·) 0)
    ratio := if sl.gear.masterKind < 4 then some (sl.gear.num, sl.gear.den) else none
    counter := count, offsets := sl.fb.o, extended := (count + sl.fb.wraps * 2 ^ 32) * 65536 - sl.fb.o
    void := s.chip.voidEcc || s.chip.voidRing || s.chip.voidLimits }

/-- R36: a snapshot is taken; a write while busy is ignored. -/
def auditSnapEff (s : State) : State :=
  if s.chip.auditBusy then s
  else
    let n : Fin 32 := Fin.ofNat 32 (regF s 0x0204 4 0)
    modChip s (fun c => { c with auditBusy := true, imageNext := auditWords s n, copied := auditCopy s n })

/-- R38: the guarantees whose equality fails in a copy, in the order of R34. -/
def auditFails (x : AuditCopy) (w : List (Nat × Nat)) : List Nat :=
  let at' (o : Nat) : Nat := (tabGet w o).getD 0
  let at64 (o : Nat) : Nat := at' o + 2 ^ 32 * at' (o + 4)
  let sum (o : Nat) : Nat := bits (at' o) 15 0 + bits (at' o) 31 16
  let totals (o : Nat) (ts : List Nat) : Bool := (ts.zipIdx).all (fun (t, k) => sum (o + 4 * k) == t)
  let nk := (List.finRange 2).all (fun l => (List.finRange 4).all (fun v => sum (0x270 + 16 * l.val + 4 * v.val) == vcTotal v))
  let can (c : Nat) : Bool :=
    let o := 0x300 + 0x20 * c
    at' o == (at' (o + 4) + at' (o + 8) + at' (o + 12) + at' (o + 16)) % 2 ^ 32
  let gear : Bool := match x.ratio with
    | some (num, den) => decide (sext 64 (at64 0x2C8) * den + at' 0x2D0 = sext 64 (at64 0x2C0) * num)
    | none => true
  let ok : List (Nat × Bool) := [(1, at64 0x210 == (at64 0x218 + at' 0x220) % 2 ^ 64),
    (2, totals 0x240 x.sqTotal && totals 0x260 x.slTotal && nk), (3, sum 0x290 == 6144),
    (4, decide (sext 64 (at64 0x2A0) = wrapS 64 (sext 64 (at64 0x2A8) + sext 32 (at' 0x2B0)))),
    (5, decide (x.extended = (x.counter + sext 32 (at' 0x2B4) * 2 ^ 32) * 65536 - x.offsets)), (6, gear),
    (7, at64 0x2E0 == (at64 0x2E8 + at' 0x2F0 + at' 0x2F4) % 2 ^ 64), (8, can 0 && can 1)]
  (ok.filter (fun x => !x.2)).map (fun x => x.1)

/-- R38: the snapshot completes; one copied while void was set warrants nothing. -/
def auditDoneEff (s : State) : State :=
  if !s.chip.auditBusy then s
  else
    let w := s.chip.imageNext
    let x := s.chip.copied
    let s := modChip s (fun c => { c with auditBusy := false, image := w, imageNext := [], snapSeq := c.snapSeq + 1 })
    if x.void then s
    else (auditFails x w).foldl (fun s k => emit { source := 9, sev := .fault, chip := true, idx := k, payload := b1 k } s) s

/-! ### The host link (R102–R105) -/

/-- R104, R106: the HOST region is reset; what it holds of descriptors stays, and the completions that are due and not to be
suppressed are held for CQ0. -/
def resetHost (s : State) : State :=
  let h := s.host
  let host : HostSt := {
    flight := h.flight.map (fun f => match f.src with
      | .sq _ => { f with slotGone := true }
      | _ => f)
    done := h.done.map (fun c => match c.src with
      | .sq _ => { c with held := c.held || (isDue s c && !suppressed c), toCq0 := true }
      | _ => c)
    nextId := h.nextId, nextOrder := h.nextOrder, orphanActive := h.orphanActive, orphanRunning := h.orphanRunning
    orphanStop := h.orphanStop, descAcc := h.descAcc, descCpl := h.descCpl }
  let mine (o : Nat) : Bool := decide (0x1000 ≤ o) && decide (o < 0x2000)
  { s with
    host := host, regs := s.regs.filter (fun c => !mine c.1)
    latches := s.latches.filter (fun l => !mine l.off) }

/-- R99, R105: FENCEs have no effect yet while they wait. -/
def purgeFences (status detail : Nat) (s : State) : State :=
  (s.host.flight.filter (fun f => f.opcode == 0x01 && f.due == .running)).foldl (fun s f =>
    completeAs f status 0 detail none s.time.now s) s

/-- R104: a HOST-region reset. The manual does not code its kinds: 0 PE_PERST_N, 1 hot reset, 2 Function Level Reset, 3 loss of the
link, in the order of its list (log 47). -/
def hostReset (kind : Nat) (s : State) : State :=
  let stop := regB s 0x1000 0
  let n := s.host.flight.length + s.host.done.length
  let s := modHost s (fun h => { h with orphanStop := stop })
  let s := emit { source := 20, sev := .warning, idx := kind, payload := b1 kind ++ b1 (ofBool stop) ++ leBytes 2 (min n 65535) } s
  let s := orphanApply stHostReset kind (purgeFences stHostReset kind s)
  resetHost s

/-- R104: HOST_REGION_RESET. -/
def hostResetEff (kind : HostResetKind) (s : State) : State :=
  hostReset (match kind with
    | .perst => 0
    | .hot => 1
    | .flr => 2) s

/-- R104: PCIE_LINK_DOWN. -/
def linkDownEff (s : State) : State :=
  if s.host.linkUp then modHost s (fun h => { h with linkUp := false, downAt := some s.time.now }) else s

/-- R104: LINK_LOSS: the link has been lost for 2 ms. -/
def linkLossEff (s : State) : State :=
  match s.host.downAt with
  | some t => if t + 2 * msLsb ≤ s.time.now then hostReset 3 s else s
  | none => s

/-- R104: PCIE_LINK_UP. -/
def linkUpEff (speed : BitVec 2) (s : State) : State :=
  if s.host.linkUp then modHost s (fun h => { h with linkSpeed := speed })
  else
    let s := modHost s (fun h => { h with linkUp := true, linkSpeed := speed, downAt := none })
    emit { source := 21, sev := .note, payload := b1 speed.toNat } s

/-- R105: ORPHAN_ACK. -/
def orphanAckEff (s : State) : State := modHost s (fun h => { h with orphanActive := false })

/-- R102: ptm_valid set, and a change raised. -/
def setPtm (ok : Bool) (s : State) : State :=
  if s.host.ptmValid = ok then s
  else emit { source := 24, sev := if ok then .note else .warning, payload := b1 (ofBool ok) } (modHost s (fun h => { h with ptmValid := ok }))

/-- R102: ptm_interval in LSB of D0. -/
def ptmInterval (s : State) : Nat :=
  match regF s 0x1000 4 2 with
  | 0 => msLsb
  | 1 => 2 * msLsb
  | 2 => 5 * msLsb
  | 3 => 10 * msLsb
  | _ => 100 * msLsb

/-- R102: whether a dialogue may be performed: one per ptm_interval. -/
def ptmDue (s : State) : Bool :=
  regB s 0x1000 1 && (match s.host.lastPtm with
    | some t => decide (t + ptmInterval s ≤ s.time.now)
    | none => true)

/-- R102, R49: PTM_DIALOGUE: the PTM master time in nanoseconds, or a failed dialogue. -/
def ptmEff (masterNs : Option T64) (s : State) : State :=
  if !ptmDue s then s
  else
    let s := modHost s (fun h => { h with lastPtm := some s.time.now })
    match masterNs with
    | none => setPtm false s
    | some ns =>
      let epoch : T64 := BitVec.ofNat 64 (reg s 0x21A0 + 2 ^ 32 * reg s 0x21A4)
      masterUpdateEff .d3 ((ns - epoch) * 16) (setPtm true s)

/-- R103: HB_LOST: no heartbeat for timeout_ms. -/
def hbLostEff (s : State) : State :=
  let ms := regF s 0x1008 15 0
  let action := regF s 0x1008 17 16
  if ms = 0 || s.host.hbLost || decide (s.time.now < s.host.hbFrom + ms * msLsb) then s
  else
    let s := modHost s (fun h => { h with hbLost := true, hbLostCount := satU 16 (h.hbLostCount + 1) })
    let h : Hap := { source := 18, sev := if action < 2 then .warning else .fault, idx := action, payload := leBytes 2 ms ++ b1 action }
    match action with
    | 0 => emit h s
    | 1 =>
      let stop := regB s 0x1000 0
      orphanApply stHbOrphan 0 (purgeFences stHbOrphan 0 (modHost (emit h s) (fun h => { h with orphanStop := stop })))
    | _ => raiseSs1 h 6 (List.finRange 8) s

end Sys2Proof.Machine
end

