-- ==== Sys2Proof/Machine/LaneOps.lean ====
section
/-!
DEFINITION. The lane instruction set (05 R129–R132, R138–R140): the operation of each instruction on a lane's registers, with
the residue check of R133 and the check of the program word of R134.
-/

namespace Sys2Proof.Machine

/-- R138: an instruction word. -/
def laneWord (op a b c x : Nat) : Nat := op * 2 ^ 26 + a * 2 ^ 22 + b * 2 ^ 18 + c * 2 ^ 14 + x

/-- The user leaf that a lane runs, if its present leaf is one. -/
def userLeafOf (s : State) (r : LaneRun) : Option UserLeaf := (r.job.leaves[r.leaf]?).bind (fun i => tabGet s.canopy.leaves i.toNat)

/-- R134: whether a lane fetches a word: in a user leaf it is the word in program RAM; the vendor ROM's words are not given. -/
def wordFits (s : State) (r : LaneRun) (w : Nat) : Bool :=
  match userLeafOf s r with
  | some _ => ramWord s (r.pc - 3072) == w
  | none => true

/-- The run of a lane that fetches a word. -/
def laneFetch (s : State) (l : LaneOp) (w : Nat) : Option LaneRun :=
  match s.canopy.lanes[l.lane].run with
  | some r => if wordFits s r w then some r else none
  | none => none

/-- R134: the address of the word a lane fetches; in the vendor ROM it is a free value. -/
def fetchAddr (r : LaneRun) (s : State) : Nat × State :=
  match userLeafOf s r with
  | some _ => (r.pc, s)
  | none =>
    let (x, s) := takeFree s
    (x % 3072, s)

/-- R158: whether a lane's operation shows a residue fault at the boundary at which the deadline ended its job. -/
def lateBad (s : State) (l : LaneOp) : Bool :=
  l.err % 15 != 0 && s.canopy.lanes[l.lane].run.isNone && (match s.canopy.lanes[l.lane].cut with
    | some (_, t) => t == s.time.now
    | none => false)

/-- R134, R144: one instruction: its word is fetched and checked, and the operation is done. -/
def laneGo (l : LaneOp) (w : Nat) (act : LaneRun → State → State) (s : State) : State :=
  match laneFetch s l w with
  | none => if lateBad s l then lateFault l.lane s else s
  | some r =>
    match l.fetch with
    | .clean => act r s
    | .corrected =>
      let (a, s) := fetchAddr r s
      act r (pstoreEcc a .corrected s)
    | .bad =>
      let (a, s) := fetchAddr r s
      abandon l.lane (pstoreEcc a .bad s)

/-- R139: the lane goes on after an instruction, `skip` further ones left out; an RPT body starts again at its end. -/
def advanceRun (r : LaneRun) (skip ops : Nat) : LaneRun :=
  let pc := r.pc + 1 + skip
  let r := { r with ops := r.ops + ops }
  match r.rpt with
  | some x =>
    if pc = x.last + 1 then
      (if x.left = 0 then { r with pc := pc, rpt := none } else { r with pc := x.first, rpt := some { x with left := x.left - 1 } })
    else if x.last < pc then { r with pc := pc, rpt := none } else { r with pc := pc }
  | none => { r with pc := pc }

/-- The run of a lane replaced. -/
def setRun (l : LaneOp) (r : LaneRun) (s : State) : State := modLane s l.lane (fun x => { x with run := some r })

/-- R139: an instruction without a result is done. -/
def laneNext (l : LaneOp) (r : LaneRun) (ops : Nat) (s : State) : State := setRun l (advanceRun r 0 ops) s

/-- R130: saturation to a data register and to an accumulator: the value and whether it was beyond the range. -/
def sat24 (x : Int) : Int × Bool := (satS 24 x, satS 24 x != x)
def sat56 (x : Int) : Int × Bool := (satS 56 x, satS 56 x != x)

/-- R133: whether a residue modulo 15 shows an error. -/
def residueBad (right stored : Int) : Bool := (stored - right) % 15 != 0

/-- R130, R133: a result for a data register, with the datapath's error; a residue that differs stops the job. -/
def setV (l : LaneOp) (r : LaneRun) (a : Fin 16) (x : Int × Bool) (ops : Nat) (s : State) : State :=
  let stored := wrapS 24 (x.1 + l.err)
  if residueBad x.1 stored then residueFault l.lane (r.ops + ops) s
  else setRun l (advanceRun { r with v := r.v.set a (BitVec.ofInt 24 stored), sat := r.sat || x.2 } 0 ops) s

/-- The same for an accumulator. -/
def setAcc (l : LaneOp) (r : LaneRun) (a : Fin 2) (x : Int × Bool) (s : State) : State :=
  let stored := wrapS 56 (x.1 + l.err)
  if residueBad x.1 stored then residueFault l.lane (r.ops + 1) s
  else setRun l (advanceRun { r with acc := r.acc.set a (BitVec.ofInt 56 stored), sat := r.sat || x.2 } 0 1) s

/-- The signed value of a data register and of an accumulator. -/
def vOf (r : LaneRun) (i : Fin 16) : Int := (r.v[i]).toInt
def accOf (r : LaneRun) (i : Fin 2) : Int := (r.acc[i]).toInt

/-- R130: rounding by 2^n: mode 0 to the nearest, ties to even; mode 1 toward −∞. -/
def laneRound (floor : Bool) (x : Int) (n : Nat) : Int := if floor then Int.fdiv x (2 ^ n) else roundDiv x (2 ^ n)

/-! ### Addresses (R131) -/

/-- R139: a length of 0 acts as 4,096. -/
def genLen (g : AddrGen) : Nat := if g.len = 0 then 4096 else g.len.toNat

/-- R131: the relative address of a generator at an offset. -/
def genAddr (g : AddrGen) (offset : Nat) : Nat := g.base.toNat + (g.idx.toNat + offset) % genLen g

/-- R131: the post-modify. -/
def genMod (g : AddrGen) (mod : BitVec 2) : AddrGen :=
  let d : Int := match mod.toNat with
    | 1 => 1
    | 2 => -1
    | 3 => g.step.toInt
    | _ => 0
  { g with idx := BitVec.ofInt 12 ((g.idx.toNat + d) % (genLen g : Int)) }

/-- R131, R144: a bounds fault. -/
def boundsFault (l : LaneOp) (r : LaneRun) (a : Nat) (s : State) : State :=
  let o := ownerByte r.job.owner
  abandon l.lane (emit { source := 88, sev := .fault, idx := o
                         payload := b1 o ++ b1 ((r.job.leaves[r.leaf]?).getD 0).toNat ++ leBytes 2 a } s)

/-- What a read of the Glade gives a lane. -/
inductive LaneRead where
  | value (x : Int)
  | outside
  | bad (phys : Nat)

/-- R131, R176, R177: a job reads a word of its space: its own staged store, else the word; one that a vendor leaf has left, whose layout
is not given, gets its value when it is first read, and keeps it. -/
def readGlade (r : LaneRun) (a : Nat) (e : Ecc) (s : State) : LaneRead × State :=
  match relAddr (spaceOf s r.job.owner) a with
  | none => (.outside, s)
  | some (phys, _, _) =>
    let s := countRange phys 1 s
    if s.glade.bad.contains phys || e == .bad then (.bad phys, s)
    else
      let s := if e = .corrected then gladeFixed phys s else s
      match r.staged.find? (fun x => x.1 == a) with
      | some x => (.value x.2.toInt, s)
      | none =>
        if s.glade.fog.contains phys then
          let (x, s) := takeFree s
          (.value (sext 24 x), modGlade s (fun g => { g with
            words := cellPut zero0 g.words phys (x % 2 ^ 24), fog := g.fog.filter (· != phys) }))
        else (.value (sext 24 (cellGet zero0 s.glade.words phys)), s)

/-- R139: LDG. -/
def ldgEff (l : LaneOp) (a : Fin 16) (p : Fin 4) (mod : BitVec 2) (offset : BitVec 12) (e : Ecc) (s : State) : State :=
  laneGo l (laneWord 0x08 a p 0 (mod.toNat * 4096 + offset.toNat)) (fun r s =>
    let g := r.p[p]
    let at' := genAddr g offset.toNat
    match readGlade r at' e s with
    | (.value x, s) => setV l { r with p := upd r.p p (fun g => genMod g mod) } a (x, false) 1 s
    | (.outside, s) => boundsFault l r at' s
    | (.bad phys, s) => abandon l.lane (gladeUncorrectable phys s)) s

/-- R131, R139: STG. -/
def stgEff (l : LaneOp) (a : Fin 16) (p : Fin 4) (mod : BitVec 2) (offset : BitVec 12) (s : State) : State :=
  laneGo l (laneWord 0x09 a p 0 (mod.toNat * 4096 + offset.toNat)) (fun r s =>
    let at' := genAddr r.p[p] offset.toNat
    match relAddr (spaceOf s r.job.owner) at' with
    | some (_, _, lease) =>
      if lease.leaves.any (fun i => r.job.leaves.contains i) then
        laneNext l { r with staged := (at', r.v[a]) :: r.staged.filter (fun x => x.1 != at')
                            p := upd r.p p (fun g => genMod g mod) } 1 s
      else boundsFault l r at' s
    | none => boundsFault l r at' s) s

/-- R139, R182: LDF. -/
def ldfEff (l : LaneOp) (a b : Fin 16) (table : Fin 32) (e : Ecc) (s : State) : State :=
  laneGo l (laneWord 0x0A a b 0 table) (fun r s =>
    match tabGet s.glade.tables table with
    | none =>
      let (x, s) := takeFree s
      setV l r a (sext 24 x, false) 1 s
    | some t =>
      let i := vOf r b
      let past := decide (i < 0) || decide ((t.len : Int) ≤ i)
      let k := if past then t.len - 1 else i.toNat
      let phys := t.base + k
      if s.glade.folioBad.contains phys || e == .bad then abandon l.lane (folioEcc phys .bad s)
      else setV l r a (folioWord s phys, past) 1 (folioEcc phys e s)) s

/-! ### Searches (R132) -/

/-- R132, R176: the words that a search reads, in order, with what the check bits of one of them show. -/
def searchWords (r : LaneRun) (g : AddrGen) (hit : Option (Nat × Ecc)) : List Nat → State → List Int → (LaneRead × List Int) × State
  | [], s, acc => ((.value 0, acc), s)
  | i :: is, s, acc =>
    let e : Ecc := match hit with
      | some (k, e) => if k = i then e else .clean
      | none => .clean
    match readGlade r (genAddr g i) e s with
    | (.value x, s) => searchWords r g hit is s (acc ++ [x])
    | (bad, s) => ((bad, acc), s)

/-- R132: the best value of a list and the place of its first occurrence. -/
def searchBest (better : Int → Int → Bool) : List Int → Nat → Int × Nat → Int × Nat
  | [], _, b => b
  | x :: xs, i, b => searchBest better xs (i + 1) (if better x b.1 then (x, i) else b)

/-- R132: a search over `n` words; `key` is the value compared and written. -/
def searchEff (op : Nat) (better : Int → Int → Bool) (key : Int → Int) (l : LaneOp) (a : Fin 16) (p : Fin 4) (n : Nat) (s : State) :
    State :=
  laneGo l (laneWord op a p 0 n) (fun r s =>
    let g := r.p[p]
    match searchWords r g l.hit (List.range n) s [] with
    | ((.value _, xs), s) =>
      match xs.map key with
      | [] => laneNext l r 0 s
      | y :: ys =>
        let (v, i) := searchBest better ys 1 (y, 0)
        setV l { r with idx := BitVec.ofNat 12 i } a (sat24 v) n s
    | ((.outside, xs), s) => boundsFault l r (genAddr g xs.length) s
    | ((.bad phys, _), s) => abandon l.lane (gladeUncorrectable phys s)) s

/-! ### Conditions and exponents (R139, R140) -/

/-- R140, R139: the loops of a job's leaves: whether DRIVE is in force, and the exponents of its two banks. -/
def jobLoops (s : State) (j : Job) : List (Bool × Int) :=
  match j.owner with
  | .lattice _ => []
  | .slot n =>
    let sl := s.axis.slots[n]
    let of' (l : Loop) : Bool × Int := (l.drive, if l.drive then (inForce l).expDrive else (inForce l).expHold)
    j.leaves.flatMap (fun i => match i.toNat with
      | 0x01 => [of' sl.cur.d, of' sl.cur.q]
      | 0x02 => [of' sl.cur.dc]
      | 0x08 => [of' sl.out.vel]
      | 0x09 => [of' sl.out.pos]
      | 0x21 => [of' sl.out.band]
      | 0x20 => [(sl.out.two.hi, 0)]
      | _ => [])

/-- R139, R140, R155: what is left open of a job: the same whenever the job runs again. -/
def openOf (j : Job) (what : Nat) : Nat := Config.jobChoice [what, ownerByte j.owner, schedByte j.owner j.sched, j.ts.t.toNat]

/-- R140: whether the DRIVE bank is in force for a job: where its loops differ, or it has none, the manual does not say. -/
def driveInForce (j : Job) (s : State) : Bool :=
  match jobLoops s j with
  | (d, _) :: rest => if rest.all (fun x => x.1 == d) then d else bit (openOf j 0) 0
  | [] => bit (openOf j 0) 0

/-- R139: the bank exponent in force for a job, likewise. -/
def bankExponent (j : Job) (s : State) : Int :=
  match jobLoops s j with
  | (_, e) :: rest => if rest.all (fun x => x.2 == e) then e else sext 5 (openOf j 1)
  | [] => sext 5 (openOf j 1)

/-- R140: a condition. -/
def condHolds (r : LaneRun) (c : Nat) (s : State) : Bool :=
  match c with
  | 0 => true
  | 1 => r.eq
  | 2 => !r.eq
  | 3 => r.lt
  | 4 => !r.lt
  | 5 => r.sat
  | 6 => r.stale
  | 7 => driveInForce r.job s
  | _ => false

/-! ### Control (R139, R141, R143) -/

/-- R139, R143, R174: END. A vendor leaf that is run to its END as a whole makes the accesses of the plan. -/
def endLeafEff (l : LaneOp) (s : State) : State :=
  laneGo l 0 (fun r s =>
    let s := if r.ops = r.leafOps then planAccesses r.job.owner ((r.job.leaves[r.leaf]?).getD 0).toNat s else s
    match r.job.leaves[r.leaf + 1]? with
    | some i => setRun l { r with leaf := r.leaf + 1, pc := leafStart s i, rpt := none, leafOps := r.ops } s
    | none => jobDone l.lane r s) s

/-- R139: NOP of a lane. -/
def laneNopEff (l : LaneOp) (s : State) : State := laneGo l (laneWord 0x01 0 0 0 0) (fun r s => laneNext l r 1 s) s

/-- R139: RPT. -/
def rptEff (l : LaneOp) (count : BitVec 8) (body : BitVec 4) (s : State) : State :=
  laneGo l (laneWord 0x02 0 0 0 (body.toNat * 256 + count.toNat)) (fun r s =>
    setRun l { r with pc := r.pc + 1, rpt := some ⟨r.pc + 1, r.pc + 1 + body.toNat, count.toNat⟩ } s) s

/-- R139: the word of SKIP and of SEL. -/
def skipWord (cond : BitVec 4) (k : BitVec 6) : Nat := laneWord 0x03 0 0 0 (k.toNat * 16 + cond.toNat)
def selWord (a b c : Fin 16) (cond : BitVec 4) : Nat := laneWord 0x1B a b c cond.toNat

/-- R139: SKIP. -/
def skipEff (l : LaneOp) (cond : BitVec 4) (k : BitVec 6) (s : State) : State :=
  laneGo l (skipWord cond k) (fun r s =>
    setRun l (advanceRun r (if condHolds r cond.toNat s then k.toNat else 0) 1) s) s

/-- R136, R139: LEAF, the header of a leaf. -/
def leafEff (l : LaneOp) (ident : Byte) (words : BitVec 12) (s : State) : State :=
  laneGo l (0x3E * 2 ^ 26 + ident.toNat * 2 ^ 18 + words.toNat * 2 ^ 6) (fun r s =>
    if r.job.leaves[r.leaf]? = some ident then laneNext l r 0 s else s) s

/-! ### Moves and arithmetic (R130, R139) -/

/-- R139: LDI. -/
def ldiEff (l : LaneOp) (a : Fin 16) (imm : BitVec 22) (s : State) : State :=
  laneGo l (laneWord 0x0B a 0 0 0 + imm.toNat) (fun r s => setV l r a (imm.toInt, false) 1 s) s

/-- R139, R142: LDIN: which input a number names is not given, so the values are those that the job was made with. -/
def ldinEff (l : LaneOp) (a : Fin 16) (input : BitVec 4) (s : State) : State :=
  laneGo l (laneWord 0x0C a 0 0 input.toNat) (fun r s =>
    let (x, stale) := (r.job.ins.vals[input.toNat]?).getD (0, false)
    setV l { r with stale := stale } a (sat24 x) 1 s) s

/-- R139: OUT. -/
def outEff (l : LaneOp) (b : Fin 16) (output : BitVec 3) (s : State) : State :=
  laneGo l (laneWord 0x0D 0 b 0 output.toNat) (fun r s =>
    laneNext l { r with outs := upd r.outs (Fin.ofNat 8 output.toNat) (fun _ => some r.v[b]) } 1 s) s

/-- R139: an operation on one register. -/
def unaryEff (op : Nat) (f : Int → Int) (l : LaneOp) (a b : Fin 16) (s : State) : State :=
  laneGo l (laneWord op a b 0 0) (fun r s => setV l r a (sat24 (f (vOf r b))) 1 s) s

/-- R139: an operation on two registers. -/
def binaryEff (op : Nat) (x : Nat) (f : Int → Int → Int) (l : LaneOp) (a b c : Fin 16) (s : State) : State :=
  laneGo l (laneWord op a b c x) (fun r s => setV l r a (sat24 (f (vOf r b) (vOf r c))) 1 s) s

/-- R130, R139: MUL. -/
def mulEff (l : LaneOp) (a b c : Fin 16) (round : Bool) (s : State) : State :=
  binaryEff 0x14 (64 * ofBool round) (fun x y => laneRound round (x * y) 23) l a b c s

/-- R139: CLMP. -/
def clmpEff (l : LaneOp) (a b c : Fin 16) (s : State) : State :=
  laneGo l (laneWord 0x17 a b c 0) (fun r s =>
    let x := vOf r a
    let y := min (max x (vOf r b)) (vOf r c)
    setV l r a (y, y != x) 1 s) s

/-- R139: SHL. -/
def shlEff (l : LaneOp) (a b : Fin 16) (n : Nat) (s : State) : State :=
  laneGo l (laneWord 0x18 a b 0 n) (fun r s => setV l r a (sat24 (vOf r b * 2 ^ n)) 1 s) s

/-- R139: ASR. -/
def asrEff (l : LaneOp) (a b : Fin 16) (n : BitVec 5) (s : State) : State :=
  laneGo l (laneWord 0x19 a b 0 n.toNat) (fun r s => setV l r a (Int.fdiv (vOf r b) (2 ^ n.toNat), false) 1 s) s

/-- R139: CMP. -/
def cmpEff (l : LaneOp) (b c : Fin 16) (s : State) : State :=
  laneGo l (laneWord 0x1A 0 b c 0) (fun r s =>
    laneNext l { r with eq := vOf r b == vOf r c, lt := decide (vOf r b < vOf r c) } 1 s) s

/-- R139: SEL. -/
def selEff (l : LaneOp) (a b c : Fin 16) (cond : BitVec 4) (s : State) : State :=
  laneGo l (selWord a b c cond) (fun r s =>
    setV l r a (if condHolds r cond.toNat s then vOf r b else vOf r c, false) 1 s) s

/-! ### Accumulators (R130, R139) -/

/-- R130: a product scaled by 2^e: a shift left, or right toward −∞. -/
def scaleProduct (x e : Int) : Int := if 0 ≤ e then x * 2 ^ e.toNat else Int.fdiv x (2 ^ (-e).toNat)

/-- R139: a MAC-family instruction: `f` of the accumulator and the scaled product. -/
def macEff (op : Nat) (f : Int → Int → Int) (l : LaneOp) (acc : Fin 2) (b c : Fin 16) (e : BitVec 5) (bank : Bool) (s : State) : State :=
  laneGo l (laneWord op acc b c (32 * ofBool bank + e.toNat)) (fun r s =>
    let ex : Int := if bank then bankExponent r.job s else e.toInt
    setAcc l r acc (sat56 (f (accOf r acc) (scaleProduct (vOf r b * vOf r c) ex))) s) s

/-- R139: ACCADD. -/
def accaddEff (l : LaneOp) (acc : Fin 2) (b : Fin 16) (n : Nat) (s : State) : State :=
  laneGo l (laneWord 0x23 acc b 0 n) (fun r s => setAcc l r acc (sat56 (accOf r acc + vOf r b * 2 ^ n)) s) s

/-- R130, R139: EXT. -/
def extEff (l : LaneOp) (a : Fin 16) (acc : Fin 2) (n : Nat) (round : Bool) (s : State) : State :=
  laneGo l (laneWord 0x24 a acc 0 (64 * ofBool round + n)) (fun r s =>
    setV l r a (sat24 (laneRound round (accOf r acc) n)) 1 s) s

/-- R139: ACCCLR. -/
def accclrEff (l : LaneOp) (acc : Fin 2) (s : State) : State :=
  laneGo l (laneWord 0x25 acc 0 0 0) (fun r s => setAcc l r acc (0, false) s) s

/-! ### Address generators (R131, R139) -/

/-- R139: MIDX. -/
def midxEff (l : LaneOp) (a : Fin 16) (s : State) : State :=
  laneGo l (laneWord 0x2B a 0 0 0) (fun r s => setV l r a (r.idx.toNat, false) 1 s) s

/-- R139: PSET, PLEN and PSTEP: a generator changed. -/
def genEff (op : Nat) (f : BitVec 12 → AddrGen → AddrGen) (l : LaneOp) (p : Fin 4) (x : BitVec 12) (s : State) : State :=
  laneGo l (laneWord op 0 p 0 x.toNat) (fun r s => laneNext l { r with p := upd r.p p (f x) } 1 s) s

/-- R139: PLEN sets the length. -/
def setLength (x : BitVec 12) (g : AddrGen) : AddrGen := { g with len := x }

end Sys2Proof.Machine
end

