-- ==== Sys2Proof/Machine/Program.lean ====
section
/-!
DEFINITION. PROGRAM_LOAD (R136, R137): the checks of user leaves and their loading into program RAM.
-/

namespace Sys2Proof.Machine

/-- R138, R139: the bits of a word that its opcode uses, the opcode's own included; none: an opcode that is not defined. -/
def usedBits (op : Nat) : Option Nat :=
  let m (a b c x : Nat) : Option Nat := some (laneWord 63 a b c x)
  match op with
  | 0x00 | 0x01 => m 0 0 0 0
  | 0x02 => m 0 0 0 0xFFF
  | 0x03 => m 0 0 0 0x3FF
  | 0x08 | 0x09 => m 15 3 0 0x3FFF
  | 0x0A => m 15 15 0 0x1F
  | 0x0B => some (63 * 2 ^ 26 + (2 ^ 26 - 1))
  | 0x0C => m 15 0 0 0xF
  | 0x0D => m 0 15 0 0x7
  | 0x10 | 0x13 => m 15 15 0 0
  | 0x11 | 0x12 | 0x15 | 0x16 | 0x17 => m 15 15 15 0
  | 0x14 => m 15 15 15 0x40
  | 0x18 | 0x19 => m 15 15 0 0x1F
  | 0x1A => m 0 15 15 0
  | 0x1B => m 15 15 15 0xF
  | 0x20 | 0x21 | 0x22 => m 1 15 15 0x3F
  | 0x23 => m 1 15 0 0x3F
  | 0x24 => m 15 1 0 0x7F
  | 0x25 => m 1 0 0 0
  | 0x28 | 0x29 | 0x2A => m 15 3 0 0xFFF
  | 0x2B => m 15 0 0 0
  | 0x30 | 0x31 | 0x32 => m 0 3 0 0xFFF
  | 0x3E => some (63 * 2 ^ 26 + (2 ^ 26 - 64))
  | _ => none

/-- The opcode of a word. -/
def opOf (w : Nat) : Nat := bits w 31 26

/-- R136, R139, R140: a defined encoding with its reserved fields zero. -/
def legalWord (w : Nat) : Bool :=
  match usedBits (opOf w) with
  | none => false
  | some m => Nat.land w m == w && (match opOf w with
    | 0x03 => decide (bits w 3 0 < 8) && bits w 9 4 != 0
    | 0x1B => decide (bits w 3 0 < 8)
    | 0x18 => decide (bits w 4 0 ≤ 23)
    | 0x20 | 0x21 | 0x22 => !bit w 5 || bits w 4 0 == 0
    | 0x23 => decide (bits w 5 0 ≤ 32)
    | 0x24 => decide (bits w 5 0 ≤ 48)
    | 0x28 | 0x29 | 0x2A => bits w 11 0 != 0 && decide (bits w 11 0 ≤ 256)
    | _ => true)

/-- A user leaf found in a buffer: identifier, place of its header and of its END, Glade words, operations, stores. -/
structure FoundLeaf where
  ident : Nat
  first : Nat
  last : Nat
  words : Nat
  ops : Nat
  stores : Nat

/-- The words after a header up to the first END, with the header's place; the place of a word that is not legal. -/
def leafBody : List Nat → Nat → List Nat → (List Nat × List Nat) ⊕ (Nat × Nat)
  | [], i, _ => .inr (0x0081, i - 1)
  | w :: ws, i, acc =>
    if !legalWord w || opOf w == 0x3E then .inr (0x0080, i)
    else if opOf w = 0 then .inl (acc ++ [w], ws) else leafBody ws (i + 1) (acc ++ [w])

/-- R136: the operations of one instruction. -/
def wordOps (w : Nat) : Nat :=
  match opOf w with
  | 0x00 | 0x02 | 0x3E => 0
  | 0x28 | 0x29 | 0x2A => bits w 11 0
  | _ => 1

/-- R136: the repetitions of each word of a body: those of the RPT whose body holds it. -/
def repsAt (body : List Nat) (i : Nat) : Nat :=
  ((List.range i).findSome? (fun j =>
    let w := (body[j]?).getD 0
    if opOf w = 0x02 ∧ i ≤ j + 1 + bits w 11 8 then some (bits w 7 0 + 1) else none)).getD 1

/-- R136: the place, in a body that ends with END, of a SKIP or RPT that leaves the leaf, or of an RPT within an RPT body. -/
def unbounded (body : List Nat) : Option Nat :=
  (List.range body.length).find? (fun i =>
    let w := (body[i]?).getD 0
    (opOf w == 0x03 && decide (body.length ≤ i + 1 + bits w 9 4))
    || (opOf w == 0x02 && (decide (body.length ≤ i + 1 + bits w 11 8) || repsAt body i != 1
          || (List.range i).any (fun j =>
            let v := (body[j]?).getD 0
            opOf v == 0x02 && decide (i ≤ j + 1 + bits v 11 8)))))

/-- R136: a sum over the words of a body, each as often as it is repeated. -/
def weigh (body : List Nat) (f : Nat → Nat) : Nat :=
  (body.zipIdx.map (fun (w, i) => f w * repsAt body i)).foldl (· + ·) 0

/-- R136, R137: the leaves of a buffer, or the status and word offset of the first rule broken. -/
def findLeaves : Nat → List Nat → Nat → List FoundLeaf → (List FoundLeaf) ⊕ (Nat × Nat)
  | 0, _, _, acc => .inl acc
  | _, [], _, acc => .inl acc
  | fuel + 1, w :: ws, i, acc =>
    let ident := bits w 25 18
    if opOf w ≠ 0x3E ∨ !legalWord w ∨ ((ident < 0x80 ∨ 0x9F < ident) ∧ (vendorLeaf ident).isNone) then .inr (0x0080, i)
    else
      match leafBody ws (i + 1) [] with
      | .inr e => .inr e
      | .inl (body, rest) =>
        match unbounded body with
        | some j => .inr (0x0081, i + 1 + j)
        | none =>
          let ops := weigh body wordOps
          let stores := weigh body (fun w => ofBool (opOf w == 0x09))
          if 2048 < ops ∨ 128 < stores then .inr (0x0081, i)
          else findLeaves fuel rest (i + 1 + body.length)
            (acc ++ [⟨ident, i, i + body.length, bits w 17 6, ops, stores⟩])

/-- R137: the words of a buffer. -/
def bufWords : List Byte → List Nat
  | a :: b :: c :: d :: rest => ofLe [a, b, c, d] :: bufWords rest
  | _ => []

/-- R137: the overwritten range, in words of program RAM. -/
def loadBase (f : InFlight) : Nat := pU f.payload 26 2 - 3072
def loadLen (f : InFlight) : Nat := pU f.payload 24 2

/-- R137: the leaves of the table that a range overwrites. -/
def overwritten (f : InFlight) (s : State) : List (Nat × UserLeaf) :=
  s.canopy.leaves.filter (fun x => decide (x.2.entry < loadBase f + loadLen f) && decide (loadBase f ≤ x.2.last))

/-- R137: a leaf that a slot not in OFF runs. -/
def leafRuns (s : State) (ident : Nat) : Bool :=
  (List.finRange 32).any (fun n => (runningLeaves s (.slot n)).contains ident)

/-- R136, R137: an identifier that is loaded twice, or held by a leaf whose header lies outside the range, as those of the ROM do. -/
def takenIdent (f : InFlight) (found : List FoundLeaf) (s : State) : Option Nat :=
  (found.map (fun x => x.ident)).find? (fun i =>
    decide (1 < (found.filter (fun y => y.ident == i)).length) || (vendorLeaf i).isSome
    || (match tabGet s.canopy.leaves i with
      | some u => !(decide (loadBase f ≤ u.entry) && decide (u.entry < loadBase f + loadLen f))
      | none => false))

/-- R137: the checks of PROGRAM_LOAD. -/
def programCheck (f : InFlight) (s : State) : Option (Nat × Int) :=
  let p := f.payload
  let dest := pU p 26 2
  let len := loadLen f
  match firstFail [resv p 28 63, inval (pU p 16 8 % 4 != 0) 16, inval (len == 0 || decide (512 < len)) 24,
      inval (decide (dest < 3072) || decide (4095 < dest) || decide (512 < (dest - 3072) % 512 + len)) 26,
      bufFailed f (4 * len)] with
  | some e => some e
  | none =>
    match findLeaves 600 ((bufWords (bufData f)).take len) 0 [] with
    | .inr (st, i) => some (st, i)
    | .inl found =>
      match (overwritten f s).find? (fun x => leafRuns s x.1) with
      | some x => some (0x0082, x.1)
      | none => (takenIdent f found s).map (fun i => (0x0083, (i : Int)))

/-- R137: PROGRAM_LOAD takes effect. -/
def programNow (f : InFlight) (s : State) : State :=
  let base := loadBase f
  let len := loadLen f
  let ws := (bufWords (bufData f)).take len
  match findLeaves 600 ws 0 [] with
  | .inr _ => s
  | .inl found =>
    let keep := s.canopy.leaves.filter (fun x => !(decide (base ≤ x.2.entry) && decide (x.2.entry < base + len)))
    let s := modCanopy s (fun c => { c with
      ram := cellPuts zero0 c.ram base ws
      badProgram := c.badProgram.filter (fun a => !(decide (3072 + base ≤ a) && decide (a < 3072 + base + len)))
      leaves := found.foldl (fun t x => tabPut t x.ident
        { entry := base + x.first, words := x.words, worst := x.ops, stores := x.stores, last := base + x.last }) keep })
    complete f.id stOK found.length ((found.map (fun x => x.ops)).foldl max 0 : Nat) (some (nowStamp s)) s

end Sys2Proof.Machine
end

