-- ==== Sys2Proof/Machine/Accept.lean ====
section
/-!
DEFINITION. Acceptance of descriptors (03): the checks of R88, the opcode table of R90, the choice of the sample (R60), pair groups
(R98), fences (R99), the rings they come from (R83–R85) and the way completions go back (R93–R96, R106), the service descriptor
window (R123–R125) and tunnels (R383, R384).
-/

namespace Sys2Proof.Machine

/-! ### Opcodes (R87, R90) -/

/-- R87, R90: the target class of an opcode, how many indices it has, and whether apply-at-time is permitted. -/
def opInfo : Nat → Option (Nat × Nat × Bool)
  | 0x01 | 0x02 | 0x52 | 0x5C | 0xA0 | 0xA1 | 0xB0 | 0xB1 | 0xF0 | 0xF1 => some (0x00, 1, false)
  | 0x90 | 0x91 => some (0x00, 1, true)
  | 0x10 | 0x50 | 0x51 => some (0x01, 32, false)
  | 0x11 | 0x12 | 0x13 | 0x20 | 0x21 | 0x22 | 0x23 | 0x24 | 0x25 | 0x30 | 0x31 | 0x38 | 0x39 | 0x79 => some (0x01, 32, true)
  | 0x28 | 0x29 => some (0x02, 4, true)
  | 0x40 => some (0x03, 16, true)
  | 0x41 => some (0x04, 16, true)
  | 0x42 | 0x43 => some (0x05, 4, true)
  | 0x60 | 0x61 => some (0x06, 1, true)
  | 0x68 | 0x69 => some (0x07, 12, false)
  | 0x70 => some (0x09, 2, true)
  | 0x71 | 0x72 => some (0x09, 2, false)
  | 0x78 => some (0x0A, 1, false)
  | 0x7A => some (0x0A, 16, false)
  | 0x80 => some (0x0B, 1, true)
  | 0x81 => some (0x0B, 1, false)
  | 0x88 => some (0x0C, 8, false)
  | 0x58 | 0x59 => some (0x0D, 32, false)
  | _ => none

/-- R105: the set-point opcodes. -/
def setPoint (op : Nat) : Bool := (decide (0x20 ≤ op) && decide (op ≤ 0x31)) || op == 0x39 || op == 0x43

/-- R497: the opcodes that a lifecycle state refuses over the host rings. -/
def lifeRefuses (l : Lifecycle) (op : Nat) : Bool :=
  match l with
  | .commissioned => op == 0xB0 || op == 0xB1
  | .retired => !(op == 0x01 || op == 0x02 || op == 0xA0)
  | _ => false

/-- R86: the `n` bytes of a descriptor at an offset. -/
def rawU (r : RawDesc) (off n : Nat) : Nat := bits r.bits.toNat (8 * (off + n) - 1) (8 * off)

/-- R86: a descriptor of an opcode as its 64 bytes. -/
def rawOf (op : Nat) (d : Desc) : RawDesc :=
  { bits := BitVec.ofNat 512 (op + d.flags.toNat * 2 ^ 16 + d.tag.toNat * 2 ^ 24 + d.target.toNat * 2 ^ 32
      + d.apply.toNat * 2 ^ 64 + d.payload.toNat * 2 ^ 128), buf := d.buf }

/-- A payload whose byte at an offset is set. -/
def forceByte (p : BitVec 384) (off v : Nat) : BitVec 384 := BitVec.ofNat 384 (putBits p.toNat (8 * (off - 16) + 7) (8 * (off - 16)) v)

/-! ### Host buffers (R91, R124, R383) -/

/-- R91: the host buffers of a descriptor: the offset of the address field, the bytes, and whether the device reads them. -/
def bufFields (op : Nat) (p : BitVec 384) (s : State) : List (Nat × Nat × Bool) :=
  match op with
  | 0x58 => [(16, 4 * pU p 26 2, true)]
  | 0x59 => [(16, 4 * pU p 26 2, false)]
  | 0x5C => [(16, 4 * pU p 24 2, true)]
  | 0x68 => [(32, pU p 28 2, pU p 17 1 == 1)]
  | 0x70 => if bit (pU p 20 1) 2 then [(24, dlcBytes (bit (pU p 19 1) 7) (pU p 21 1), true)] else []
  | 0x78 => [(16, 16 * pU p 24 1, true)]
  | 0x7A => [(16, 64 * pU p 24 1, true), (28, 32 * pU p 24 1, false), (36, pU p 44 4, true)]
  | 0x81 => [(16, 4 * pU p 28 4 * s.quire.nch, false)]
  | 0xA0 => if pU p 16 8 = 0 then [] else [(16, 1024, false)]
  | 0xB0 => [(16, 96, true)]
  | 0xF1 => [(16, 160, true)]
  | _ => []

/-- R124: the bytes of the service data area at an offset of space 1. -/
def svcBytes (s : State) (a n : Nat) : List Byte :=
  (List.range n).map (fun i =>
    let o := a - 0x1000 + i
    BitVec.ofNat 8 (cellGet zero0 s.svc.data (o / 4) / 2 ^ (8 * (o % 4))))

/-- R124: the buffer of a service descriptor that does not lie in the service data area. -/
def svcBufBad (op : Nat) (p : BitVec 384) (s : State) : Option Nat :=
  ((bufFields op p s).find? (fun (o, n, _) =>
    n != 0 && (decide (pU p o 8 < 0x1000) || decide (0x2000 < pU p o 8 + n)))).map (fun x => x.1)

/-- R124, R383: where a descriptor's data comes from: host memory, the service data area, or the data that came with the tunnel. -/
def bufOf (src : Source) (r : RawDesc) (op : Nat) (p : BitVec 384) (s : State) : HostBuf :=
  let reads := (bufFields op p s).filter (fun x => x.2.2)
  match src with
  | .sq _ => r.buf
  | .svc => { data := reads.flatMap (fun (o, n, _) => svcBytes s (pU p o 8) n), ok := true }
  | .tunnel => { data := reads.flatMap (fun (o, n, _) => (r.buf.data.drop (pU p o 8)).take n), ok := true }

/-! ### The descriptor accepted (R82, R88, R93) -/

/-- TIME_CTRL.desc_domain. -/
def descDomain (s : State) : Dom := domOf (regF s 0x2000 3 2)

/-- R59, R383: the domain a descriptor's apply time is read in. -/
def applyDom (s : State) (src : Source) (op : Nat) : Dom :=
  if op = 0x90 ∨ op = 0x91 then .d0 else if src = .tunnel then .d1 else descDomain s

/-- R59: the apply time of a descriptor. -/
def applyOf (s : State) (src : Source) (r : RawDesc) : Option Stamp :=
  if bit (rawU r 2 1) 2 then some ⟨applyDom s src (rawU r 0 2), BitVec.ofNat 64 (rawU r 8 8)⟩ else none

/-- R82: a descriptor taken from its ring. -/
def mkFlight (src : Source) (cq : Option (Fin 8)) (r : RawDesc) (id : Nat) (group : Option (Nat × Nat)) (s : State) : InFlight :=
  let op := rawU r 0 1
  let p : BitVec 384 := BitVec.ofNat 384 (r.bits.toNat / 2 ^ 128)
  { id := id, src := src, opcode := BitVec.ofNat 8 op, flags := BitVec.ofNat 8 (rawU r 2 1), tag := BitVec.ofNat 8 (rawU r 3 1)
    target := { cls := rawU r 5 1, idx := rawU r 4 1 }, payload := p, buf := bufOf src r op p s, accepted := s.time.now
    accStamp := stampIn s (descDomain s) s.time.now, descDom := descDomain s, due := .update none s.time.now, group := group, cq := cq }

/-- R89: an apply time too far ahead. -/
def applyFar (s : State) (a : Stamp) : Bool := a.t != 0 && decide ((2 : Int) ^ 40 < diff64 a.t (domNow s a.dom))

/-- R94: the first reserved byte of the header that is not zero. -/
def headerReserved (r : RawDesc) : Option Nat :=
  if rawU r 2 1 / 16 != 0 then some 2 else if rawU r 6 1 != 0 then some 6 else if rawU r 7 1 != 0 then some 7 else none

/-- R88: steps 1 to 7; inside a tunnel the opcodes of R383 are refused with their opcode. -/
def headerCheck (src : Source) (r : RawDesc) (s : State) : Option (Nat × Int) :=
  let op := rawU r 0 2
  let inner := src == .tunnel && (op == 0x78 || op == 0x7A || op == 0xF0)
  match headerReserved r with
  | some o => some (stReserved, o)
  | none =>
    match opInfo op with
    | none => some (stOpcode, 0)
    | some (cls, count, timed) =>
      let a := applyOf s src r
      let un := match a with
        | some x => unset s x.dom
        | none => false
      let far := match a with
        | some x => applyFar s x
        | none => false
      firstFail [(inner, 0x0081, op), (a.isSome && !timed, stFlags, rawU r 2 1),
        (rawU r 5 1 != cls || decide (count ≤ rawU r 4 1), stTarget, rawU r 4 4),
        (src != .svc && lifeRefuses s.life.state op, stLifeDenied, lifeCode s.life.state),
        (s.host.orphanActive && setPoint op, stOrphaned, 0),
        (un, stDomUnset, domCode (applyDom s src op)), (far, stApplyRange, 0)]

/-- R496: a slot that a park entry drives. -/
def parkedSlot (f : InFlight) (s : State) : Bool := f.target.cls == 1 && parkSlot s (Fin.ofNat 32 f.target.idx)

/-- R99: the checks of FENCE. -/
def fenceCheck (p : BitVec 384) : Option (Nat × Int) := firstFail [inval (decide (1 < pU p 17 1)) 17, resv p 18 63]

/-- R88: steps 8 and 9 of an opcode. -/
def opCheck (f : InFlight) (s : State) : Option (Nat × Int) :=
  match f.opcode.toNat with
  | 0x01 => fenceCheck f.payload
  | 0x02 => firstFail [resv f.payload 16 63]
  | 0x10 => slotConfigCheck f s
  | 0x11 => bankLoadCheck f s
  | 0x12 => bankSwapCheck f s
  | 0x13 => modeSetCheck f s
  | 0x20 => moveAbsCheck f s
  | 0x21 => moveRelCheck f s
  | 0x22 => jogCheck f s
  | 0x23 => softStartCheck f s
  | 0x24 => if parkedSlot f s then firstFail [resv f.payload 17 63, inval (decide (1 < pU f.payload 16 1)) 16] else stopCheck f s
  | 0x25 => limitsSetCheck f s
  | 0x28 => pathSegCheck f s
  | 0x29 => pathGroupCheck f s
  | 0x30 => gearSetCheck f s
  | 0x31 => camSetCheck f s
  | 0x38 => stepCfgCheck f s
  | 0x39 => homeCheck f s
  | 0x40 => cmpCheck f s
  | 0x41 => latchCheck f s
  | 0x42 => ltcLoadCheck f s
  | 0x43 => ltcRunCheck f s
  | 0x50 => leaseFieldCheck f
  | 0x51 => releaseFieldCheck f
  | 0x52 => thinFieldCheck f
  | 0x58 => folioWriteCheck f s
  | 0x59 => folioReadCheck f s
  | 0x5C => programCheck f s
  | 0x60 => powerSetCheck f s
  | 0x61 => powerForceCheck f s
  | 0x68 => xferCheck f s
  | 0x69 => bindCheck f s
  | 0x70 => canSendCheck f s
  | 0x71 => canCancelCheck f s
  | 0x72 => canRecoverCheck f s
  | 0x78 => membersCheck f s
  | 0x79 => publishCheck f s
  | 0x7A => tunnelCheck f s
  | 0x80 => quireArmCheck f s
  | 0x81 => quireReadCheck f s
  | 0x88 => contextCheck f s
  | 0x90 => timeSetCheck f s
  | 0x91 => timeSlewCheck f s
  | 0xA0 => tallyReadCheck f s
  | 0xA1 => calendarCheck f s
  | 0xB0 => recordWriteCheck f s
  | 0xB1 => confirmCheck f s
  | 0xF0 => lifeCheck f s
  | 0xF1 => parkWriteCheck f s
  | _ => some (stOpcode, 0)

/-- R88: steps 8 and 9, with the buffer of a service descriptor among the payload checks and a park slot among the states. -/
def bodyCheck (f : InFlight) (s : State) : Option (Nat × Int) :=
  let r := opCheck f s
  let early (st : Nat) (d : Int) (o : Nat) : Bool := (st == stReserved || st == stPayload) && decide (d < o)
  let buf := if f.src == .svc then svcBufBad f.opcode.toNat f.payload s else none
  let r := match buf, r with
    | some o, some (st, d) => if early st d o then some (st, d) else some (stPayload, (o : Int))
    | some o, none => some (stPayload, (o : Int))
    | none, r => r
  if parkedSlot f s && f.opcode != 0x24 then
    match r with
    | some (st, d) => if st == stReserved || st == stPayload then some (st, d) else some (stState, 0x90)
    | none => some (stState, 0x90)
  else r

/-! ### What takes effect at acceptance -/

/-- R99: the ring masks of a FENCE. -/
def fenceMask (f : InFlight) : Nat :=
  let own := match f.src with
    | .sq n => 2 ^ n.val
    | _ => 0
  if pU f.payload 16 1 = 0 then own else pU f.payload 16 1

/-- R99: whether a FENCE in purge mode removes a descriptor: its sample is not less than 2.0 µs away. -/
def purgeable (s : State) (f x : InFlight) : Bool :=
  let masked := match x.src with
    | .sq n => bit (fenceMask f) n
    | _ => false
  decide (x.id < f.id) && masked && x.applied.isNone && (match x.due with
    | .sample n ts => decide ((s.time.now + guard2 : Nat) ≤ toD0 s ⟨slotDom s n, ts⟩)
    | .update _ _ => true
    | .running => x.opcode == 0x70)

/-- R99: FENCE: wait, or purge first. -/
def fenceNow (f : InFlight) (s : State) : State :=
  let s := modFlight s f.id (fun f => { f with due := .running })
  if pU f.payload 17 1 = 1 then
    let xs := s.host.flight.filter (purgeable s f)
    let (tag, sq) := cancelOf f
    let s := xs.foldl (fun s x =>
      if x.opcode = 0x70 then purgeFrame x.id (tag, sq) s
      else completeAs x stCancelled 0 ((tag.toNat + 256 * sq : Nat) : Int) none s.time.now s) s
    let gone := (xs.filter (fun x => (flightOf s x.id).isNone)).length
    releaseFences (modFlight s f.id (fun f => { f with res := gone }))
  else releaseFences s

/-- R383: the inner descriptors of a request are given their places, and its data its area. -/
def openTunnel (ident : BitVec 16) (src : Fin 16) (n : Nat) (data : List Byte) (s : State) : State :=
  let t : TunnelIn := { ident := ident, src := src, ids := (List.range n).map (fun i => s.host.nextId + i), data := data }
  modNk s (fun k => { k with tunnelsIn := k.tunnelsIn ++ [t] })

/-- R383: TUNNEL leaves for its member; a local one is carried out by `serve`. -/
def tunnelNow (serve : BitVec 16 → List RawDesc → State → State) (f : InFlight) (s : State) : State :=
  let ident := s.norrak.nextTunnel
  let n := pU f.payload 24 1
  let d := tunnelDst f
  let t : Tunnel := { desc := f.id, ident := ident, dst := d, count := n, cplBuf := BitVec.ofNat 64 (pU f.payload 28 8)
                      dataBuf := BitVec.ofNat 64 (pU f.payload 36 8), dataLen := pU f.payload 44 4 }
  let s := modNk s (fun k => { k with nextTunnel := ident + 1, tunnels := k.tunnels ++ [t] })
  let s := takesEffect f.id (nowStamp s) s
  if d = s.norrak.position then serve ident (innerDescs f) s
  else tunnelFrames 0x18 d ident (f.buf.data.take (64 * n + pU f.payload 44 4)) s

/-- R496: a STOP of a park slot. -/
def parkStop (f : InFlight) (s : State) : State := parkStopSlot (Fin.ofNat 32 f.target.idx) s

/-- R433: the block that a descriptor's host-memory read is for the check units. -/
def tapRead (f : InFlight) (s : State) : State :=
  match f.src with
  | .sq _ => if (bufFields f.opcode.toNat f.payload s).any (fun x => x.2.2) then chkObserve 1 0 1 f.buf.data s else s
  | _ => s

/-- R82, R89: a descriptor that takes effect at acceptance. -/
def opNow (serve : BitVec 16 → List RawDesc → State → State) (f : InFlight) (s : State) : State :=
  let at' := nowStamp s
  match f.opcode.toNat with
  | 0x01 => fenceNow f s
  | 0x02 => completeOk f.id (some at') s
  | 0x10 => slotConfigNow f s
  | 0x11 => bankLoadNow f at' s
  | 0x12 => bankSwapNow f at' s
  | 0x24 => completeOk f.id (some at') (parkStop f s)
  | 0x25 => limitsSetNow f at' s
  | 0x38 => stepCfgNow f at' s
  | 0x50 | 0x51 | 0x52 => gladeAccept f s
  | 0x58 => folioWriteNow f s
  | 0x59 => folioReadNow f s
  | 0x5C => programNow f s
  | 0x68 => xferNow f (modFlight s f.id (fun f => { f with due := .running }))
  | 0x69 => bindNow f s
  | 0x70 => canSendNow f s
  | 0x71 => canCancelNow f s
  | 0x72 => canRecoverNow f s
  | 0x78 => membersNow f s
  | 0x7A => tunnelNow serve f s
  | 0x81 => quireReadNow f s
  | 0x88 => contextNow f s
  | 0xA0 => tallyReadNow f s
  | 0xA1 => calendarNow f s
  | 0xB0 => recordWriteNow f s
  | 0xB1 => confirmNow f s
  | 0xF0 => lifeNow f s
  | 0xF1 => parkWriteNow f s
  | _ => s

/-- R195, R222, R245, R392, R496: whether a descriptor takes effect at acceptance. -/
def isImmediate (f : InFlight) (s : State) : Bool :=
  let off := f.target.cls == 1 && s.axis.slots[(Fin.ofNat 32 f.target.idx : Fin 32)].mode == .off
  match f.opcode.toNat with
  | 0x11 | 0x12 | 0x25 | 0x38 => off
  | 0x24 => off && parkedSlot f s
  | 0x70 => true
  | op => match opInfo op with
    | some (_, _, timed) => !timed
    | none => true

/-! ### The chosen sample (R57, R60, R89, R380) -/

/-- R195: a descriptor that follows the current schedule of its slot. -/
def onCurrent (f : InFlight) (b : Binding) : Bool := f.opcode == 0x11 && partCurrent (pU f.payload 16 1) && b.kind == .servo

/-- R60, R380: the sample of a slot that a descriptor accepted now takes effect at. -/
def chooseSample (n : Fin 32) (current : Bool) (b : Binding) (apply : Option Stamp) (s : State) : T64 :=
  let sl := s.axis.slots[n]
  let ahead := ((localPub s n).map (fun p => p.horizonMs * msLsb)).getD 0
  let g := fromD0 s b.dom ((s.time.now + guard2 : Nat) : Int) + BitVec.ofNat 64 ahead
  let t := laterT (earliest s b.dom apply) g
  let P := if current then curPeriod b else outPeriod b
  let next := if current then sl.curSched.next else sl.outSched.next
  match sl.mode, next with
  | .off, _ => gridAt P (b.phase % P) t
  | _, some x => sampleFrom x P t
  | _, none => gridAt P (b.phase % P) t

/-- R60, R89: when a descriptor that waits takes effect. `grouped`: it is a member of a pair group, R98. -/
def dueOf (f : InFlight) (grouped : Bool) (apply : Option Stamp) (s : State) : When :=
  let wait : When := .update apply (s.time.now + guard2)
  if f.target.cls = 1 then
    let n : Fin 32 := Fin.ofNat 32 f.target.idx
    match s.axis.slots[n].bind with
    | some b => .sample n (chooseSample n (!grouped && onCurrent f b) b apply s)
    | none => wait
  else wait

/-! ### What takes effect at a sample -/

/-- R98, R229: the states that refuse a slot's descriptor at its sample. -/
def lateSlot (f : InFlight) (s : State) : Option (Nat × Int) :=
  match f.opcode.toNat with
  | 0x11 => firstFail (bankLoadState f s)
  | 0x12 => firstFail (bankSwapState f s)
  | 0x13 => lateMode f s
  | 0x20 | 0x21 | 0x22 | 0x23 => lateCourse f s
  | 0x24 => if parkedSlot f s then none else lateCourse f s
  | 0x30 | 0x31 => lateGear f s
  | 0x38 => lateStepCfg f s
  | 0x39 => lateHome f s
  | _ => none

/-- R60: a slot's descriptor takes effect at a sample `ts` whose output is applied at `tApply`. -/
def slotNow (tApply ts : Stamp) (f : InFlight) (s : State) : State :=
  match lateSlot f s with
  | some (st, d) => reject f.id st d s
  | none =>
    match f.opcode.toNat with
    | 0x11 => bankLoadNow f tApply s
    | 0x12 => bankSwapNow f tApply s
    | 0x13 => modeSetNow f tApply ts s
    | 0x20 => moveAbsNow f tApply s
    | 0x21 => moveRelNow f tApply s
    | 0x22 => jogNow f tApply s
    | 0x23 => softStartNow f tApply s
    | 0x24 => if parkedSlot f s then parkStop f (stopNow f tApply s) else stopNow f tApply s
    | 0x25 => limitsSetNow f tApply s
    | 0x30 => gearSetNow f tApply s
    | 0x31 => camSetNow f tApply s
    | 0x38 => stepCfgNow f tApply s
    | 0x39 => homeNow f tApply s
    | 0x79 => publishNow f tApply ts s
    | _ => s

/-- R98: what a member that waits would leave, for the checks of the members after it. The checks of POWER_SET and POWER_FORCE depend
on nothing that either leaves. -/
def trialNow (f : InFlight) (s : State) : State :=
  let at' := nowStamp s
  match f.opcode.toNat with
  | 0x40 => match s.axis.slots[cmpSlot f].bind with
    | some b => cmpNow f (cmpSlot f) b (domNow s b.dom) s
    | none => s
  | 0x41 => latchNow f s.time.now s
  | 0x80 => quireTrial f s
  | 0x91 => timeSlewNow f s
  | 0x28 => pathSegNow f s
  | 0x29 => pathGroupNow f at' s
  | 0x42 => ltcLoadNow f at' s
  | 0x43 => ltcRunNow f at' s
  | 0x90 => timeSetNow f s
  | _ => if f.target.cls = 1 then slotNow at' at' f s else s

/-! ### Acceptance (R82, R88, R98) -/

/-- R88: a checked descriptor takes effect, or waits for its sample. -/
def enact (serve : BitVec 16 → List RawDesc → State → State) (grouped : Bool) (apply : Option Stamp) (f : InFlight) (s : State) : State :=
  if isImmediate f s then
    let due : When := match f.opcode.toNat with
      | 0x70 => .update apply (s.time.now + guard2)
      | _ => f.due
    let g := { f with due := due }
    opNow serve g (modFlight (tapRead f s) f.id (fun x => { x with due := due }))
  else modFlight s f.id (fun x => { x with due := dueOf f grouped apply s })

/-- R98: the checks of a group on the state that its earlier members would leave: the first member that fails. -/
def groupTrial (serve : BitVec 16 → List RawDesc → State → State) : List InFlight → State → Option (Nat × Nat × Nat × Int)
  | [], _ => none
  | f :: fs, s =>
    let place := (f.group.map (fun g => g.2)).getD 0
    match bodyCheck f s with
    | some (st, d) => some (f.id, place, st, d)
    | none =>
      let s := if isImmediate f s then opNow serve f s else trialNow f s
      match rejection s f.id with
      | some (st, d) => some (f.id, place, st, d)
      | none => groupTrial serve fs s

/-- R98: a group is accepted. The manual gives no order between the two ways in which a whole group is rejected: the length comes first
(log 47). -/
def acceptGroup (serve : BitVec 16 → List RawDesc → State → State) (src : Source) (rs : List RawDesc) (fs : List InFlight) (s : State) :
    State :=
  let heads := rs.zip fs
  if 4 < fs.length then fs.foldl (fun s f => reject f.id stPairLong 0 s) s
  else if fs.any (fun f => (fs.head?.map (fun x => x.target)) != some f.target) then
    fs.foldl (fun s f => reject f.id stPairTarget 0 s) s
  else
    let bad := (heads.zipIdx).findSome? (fun ((r, f), i) => (headerCheck src r s).map (fun e => (f.id, i, e.1, e.2)))
    match bad with
    | some (id, i, st, d) => breakGroup fs id i st d s
    | none =>
      match groupTrial serve fs s with
      | some (id, i, st, d) => breakGroup fs id i st d s
      | none =>
        let apply := (rs.head?.bind (applyOf s src))
        fs.foldl (fun s f => enact serve true apply f s) s

/-- R82, R88: descriptors taken together from their source: one, or the members of a pair group. -/
def acceptThese (serve : BitVec 16 → List RawDesc → State → State) (src : Source) (cq : Option (Fin 8)) (rs : List RawDesc) (s : State) :
    State :=
  let base := s.host.nextId
  let paired := decide (1 < rs.length)
  let fs := (rs.zipIdx).map (fun (r, i) => mkFlight src cq r (base + i) (if paired then some (base, i) else none) s)
  let s := modHost s (fun h => { h with
    nextId := base + rs.length, flight := h.flight ++ fs, descAcc := h.descAcc + BitVec.ofNat 64 rs.length })
  if paired then acceptGroup serve src rs fs s
  else
    match rs, fs with
    | [r], [f] =>
      match headerCheck src r s with
      | some (st, d) => reject f.id st d s
      | none =>
        match bodyCheck f s with
        | some (st, d) => reject f.id st d s
        | none => enact serve false (applyOf s src r) f s
    | _, _ => s

/-- R383: the inner descriptors are accepted in order. A tunnel inside a tunnel is refused, so none serves another. -/
def serveTunnel (src : Fin 16) (ident : BitVec 16) (ds : List RawDesc) (s : State) : State :=
  ds.foldl (fun s d => acceptThese (fun _ _ s => s) .tunnel none [d] s) 
    (openTunnel ident src ds.length ((ds.head?.map (fun d => d.buf.data)).getD []) s)

/-- R82, R88: descriptors of a ring or of the service port. -/
def accept (src : Source) (cq : Option (Fin 8)) (rs : List RawDesc) (s : State) : State :=
  acceptThese (fun ident ds s => serveTunnel s.norrak.position ident ds s) src cq rs s

/-! ### Submission rings (R83–R85) -/

/-- R108: the completion ring of a submission ring. -/
def sqCq (s : State) (n : Fin 8) : Fin 8 := Fin.ofNat 8 (regF s (sqBase n + 8) 7 5)

/-- R98: the length of the pair group at the head, once all its members are there. -/
def groupLen : List RawDesc → Option Nat
  | [] => none
  | r :: rs => if bit (rawU r 2 1) 1 then (groupLen rs).map (· + 1) else some 1

/-- Descriptors of a ring accepted and not yet completed. -/
def ringBusy (s : State) (n : Fin 8) : Bool :=
  s.host.flight.any (fun f => f.src == .sq n) || s.host.done.any (fun c => c.src == .sq n)

/-- R83: in flight in the whole device. -/
def flightCount (s : State) : Nat := s.host.flight.length + s.host.done.length

/-- R83, R96, R99, R106, R491: what acceptance at a ring's head asks, but for the completion slots; how many are taken. The fence flag
of any member of a pair group holds the group back (log 47). -/
def mayAccept (s : State) (n : Fin 8) : Option Nat :=
  let q := s.host.sq[n]
  match groupLen q.fetched with
  | none => none
  | some k =>
    let fence := (q.fetched.take k).any (fun r => bit (rawU r 2 1) 0)
    if ringOn s (sqBase n) && !q.error && s.chip.fullService && !s.life.inReset && decide (flightCount s + k ≤ 512)
      && heldCount s == 0 && !(fence && ringBusy s n)
      && !s.host.flight.any (fun f => f.opcode == 0x01 && f.due == .running && f.src == .sq n) then some k
    else none

/-- R83: the completion ring has a free slot for each. -/
def cqRoom (s : State) (n : Fin 8) (k : Nat) : Bool := decide (k ≤ ringFree s (.cq (sqCq s n)))

/-- R82–R84: the descriptors at a ring's head are accepted. -/
def acceptHead (n : Fin 8) (k : Nat) (s : State) : State :=
  let cq := sqCq s n
  let size := ringSize s (sqBase n)
  let rs := s.host.sq[n].fetched.take k
  let s := modSq s n (fun q => { q with head := (q.head + k) % size, published := q.published - k, fetched := q.fetched.drop k })
  let s := modWr s (.cq cq) (fun w => { w with reserved := w.reserved + k })
  accept (.sq n) (some cq) rs (shadowHead n s)

/-- R16: the rings in the order in which the next grant considers them: round-robin, from the one after the last granted. -/
def ringOrder (last : Fin 8) : List (Fin 8) := (List.finRange 8).map (fun i => last + 1 + i)

/-- R83, R16: the device accepts until no ring has a descriptor that can be accepted. -/
def drainN : Nat → State → State
  | 0, s => s
  | fuel + 1, s =>
    match (ringOrder s.host.lastRing).findSome? (fun n =>
        (mayAccept s n).bind (fun k => if cqRoom s n k then some (n, k) else none)) with
    | some (n, k) => drainN fuel (acceptHead n k (modHost s (fun h => { h with lastRing := n })))
    | none => s

/-- R83: acceptance, and CQ_STALL where it waits on a full completion ring. -/
def drain (s : State) : State :=
  let s := drainN ((s.host.sq.toList.map (fun q => q.fetched.length)).foldl (· + ·) 0) s
  (List.finRange 8).foldl (fun s (n : Fin 8) =>
    match mayAccept s n with
    | some k =>
      if cqRoom s n k then s
      else
        let r := ringByte (.out (.cq (sqCq s n)))
        emitLim msLsb r (fun _ => { source := 25, sev := .note, idx := r, payload := b1 r }) s
    | none => s) s

/-- R85: DESCRIPTOR_FETCH. -/
def fetchEff (n : Fin 8) (r : FetchResult) (s : State) : State :=
  if !ringOn s (sqBase n) || s.host.sq[n].error || s.host.sq[n].asked == 0 then s
  else match r with
    | .failed code => ringDmaError (.sq n) code (modSq s n (fun q => { q with asked := 0 }))
    | .ok es =>
      let s := modSq s n (fun q => { q with fetched := q.fetched ++ es.take q.asked })
      drain (requestFetch s n)

/-- R125: whether a lifecycle state refuses a service descriptor. -/
def svcRefuses (s : State) (r : RawDesc) : Bool :=
  match s.life.state with
  | .commissioned => !(rawU r 0 2 == 0xF0 && rawU r 16 1 == 3)
  | .retired => rawU r 0 2 != 0xA0
  | _ => false

/-- R123: SVC_DESCRIPTOR_SUBMIT: the descriptor commits at select release. -/
def svcSubmitEff (r : RawDesc) (s : State) : State :=
  if !s.svc.strap || !s.chip.understory then s
  else
    let s := { s with svc := { s.svc with frames := s.svc.frames + 1 } }
    if !s.chip.fullService || svcRefuses s r then { s with svc := { s.svc with denied := true } }
    else if 512 ≤ flightCount s ∨ heldCount s ≠ 0 ∨ 8 ≤ s.svc.cpls.length + s.svc.reserved then { s with svc := { s.svc with busy := true } }
    else drain (accept .svc none [r] { s with svc := { s.svc with reserved := s.svc.reserved + 1 } })

/-! ### Completions (R93–R96, R106) -/

/-- R383, R384: the inner completions of a request go back, or are held where their member cannot be reached. -/
def returnTunnel (t : TunnelIn) (s : State) : State :=
  let cs := t.ids.filterMap (fun i => s.host.done.find? (fun c => c.id == i))
  let here := t.src == s.norrak.position
  let s := modNk s (fun k => { k with tunnelsIn := k.tunnelsIn.filter (fun x => x.ids != t.ids) })
  if here || (nkOn s && heard s t.src) then
    let recs := cs.map (fun c => cplBits s c false)
    let s := cs.foldl (fun s c => countCpl (dropDone c s)) s
    if here then
      match s.norrak.tunnels.find? (fun x => x.ident == t.ident && x.dst == t.src) with
      | some x => tunnelDone { x with got := recs, data := t.data } s
      | none => s
    else tunnelFrames 0x19 t.src t.ident (recs.flatMap (fun c => leBytes 32 c.toNat) ++ t.data) s
  else
    let s := modHost s (fun h => { h with done := h.done.map (fun c =>
      if t.ids.contains c.id then { c with held := true, toCq0 := true } else c) })
    let s := modNk s (fun k => { k with orphans := k.orphans + BitVec.ofNat 32 cs.length })
    emit { source := 169, sev := .warning, payload := leBytes 2 t.ident.toNat ++ cnt1 cs.length } s

/-- R95: a completion is suppressed. -/
def suppress (c : Cpl) (s : State) : State :=
  let s := match c.cq with
    | some q => modWr s (.cq q) (fun w => { w with suppressed := w.suppressed + 1 })
    | none => s
  countCpl (unreserve c (dropDone c s))

/-- R92, R106: a completion is written to its ring, or held. -/
def deliver (c : Cpl) (r : WriteResult) (s : State) : State :=
  match c.cq with
  | none => modHost (holdCpl c s) (fun h => { h with done := h.done.map (fun x => if x.order = c.order then { x with toCq0 := true } else x) })
  | some q =>
    if c.toCq0 || !ringOn s (cqBase q) || s.host.cq[q].error || s.host.done.any (fun x => x.held && !x.toCq0 && x.cq == some q) then
      holdCpl c s
    else match r with
      | .ok => writeCpl q c s
      | .failed code => holdCpl c (ringDmaError (.out (.cq q)) code s)

/-- R93: COMPLETION_WRITE: the next completion that is due is written, suppressed or held. -/
def completionEff (r : WriteResult) (s : State) : State :=
  match pickDue s with
  | none => s
  | some c =>
    let s := match c.src with
      | .tunnel =>
        match tunnelOf s c.id with
        | some t => returnTunnel t s
        | none => deliver c r s
      | .svc =>
        if suppressed c then suppress c s
        else
          let rec' := cplBits s c false
          let s := countCpl (unreserve c (dropDone c s))
          { s with svc := { s.svc with cpls := s.svc.cpls ++ [rec'] } }
      | .sq _ => if suppressed c then suppress c s else deliver c r s
    drain (releaseFences s)

/-- R106: the ring that a held completion is written to. -/
def heldRing (c : Cpl) : Option (Fin 8) := if c.toCq0 then some 0 else c.cq

/-- R106: a held completion can be written. One whose reserved slot is gone needs a free one of CQ0. -/
def heldReady (s : State) (c : Cpl) : Bool :=
  c.held && isDue s c && !groupWaits s (fun _ => true) c && (match heldRing c with
    | some q => ringOn s (cqBase q) && !s.host.cq[q].error && (!c.toCq0 || decide (1 ≤ ringFree s (.cq q)))
    | none => false)

/-- R106: HELD_COMPLETION_DELIVERY. -/
def heldEff (r : WriteResult) (s : State) : State :=
  match bestBy (fun (a b : Cpl) => decide (a.order < b.order)) (s.host.done.filter (heldReady s)) with
  | none => s
  | some c =>
    match heldRing c with
    | none => s
    | some q =>
      match r with
      | .failed code => ringDmaError (.out (.cq q)) code s
      | .ok =>
        let s := modHost (writeCpl q c s) (fun h => { h with heldWritten := h.heldWritten + 1 })
        if heldCount s ≠ 0 then s
        else
          let n := s.host.heldWritten
          let s := modHost s (fun h => { h with heldWritten := 0 })
          drain (releaseFences (emit { source := 23, sev := .note, payload := leBytes 2 (min n 65535) } s))

/-- R80, R83: CQn_HEAD: returned slots let acceptance go on. -/
def cqHeadEff (n : Fin 8) (value : Word) (s : State) : State := canPumpAll (drain (headEff (.cq n) value s))

/-- R78, R80: STRn_HEAD. -/
def strHeadEff (n : Fin 4) (value : Word) (s : State) : State := headEff (.str n) value s

/-! ### Ring set-up (R81, R108) -/

/-- R81, R108: setting enable zeroes head and tail and sets the phase. -/
def startRing (r : Ring) (s : State) : State :=
  match r with
  | .sq n => modHost s (fun h => { h with sq := upd h.sq n (fun _ => {}) })
  | .out o => modHost s (fun h => putWr h o (fun w => { w with
      tail := 0, head := 0, phase := true, used := 0, error := false, unsig := 0, oldest := none }))

/-- R108: the STATUS of a ring without upd_seq. -/
def ringStatus (s : State) : Ring → Nat
  | .sq n => sqStatus s n
  | .out o => wrStatus s o

/-- R114: the upd_seq of a ring after a write of its CFG. -/
def noteRing (old : State) (r : Ring) (s : State) : State :=
  { s with seqs := seqStep s.seqs (ringBase r + 0xC) (ringStatus old r) (ringStatus s r) }

/-- R108: a write of a ring's CFG register. -/
def ringCfgWrite (r : Ring) (v : Nat) (s : State) : State :=
  let o := ringBase r + 8
  if regB s o 0 then
    if bit v 0 then s else noteRing s r (setReg s o (putBits (reg s o) 0 0 0))
  else if regB (writeRw s o v) o 0 then canPumpAll (drain (noteRing s r (startRing r (writeRw s o v))))
  else writeRw s o v

/-! ### The service descriptor window (R123–R125, R491) -/

/-- R120: the status byte, as sent now. -/
def svcByte (s : State) : Byte :=
  BitVec.ofNat 8 (ofMask [s.svc.range, s.svc.abort, s.svc.denied, s.svc.busy, s.svc.unknown] + 32 * (s.svc.frames.toNat % 8))

/-- R118, R120: the status byte and the words of a complete reading frame; reporting clears the flags. -/
def svcReply (ws : List Word) (s : State) : State :=
  { s with
    out := s.out ++ [.status (svcByte s), .words ws]
    svc := { s.svc with
      range := false, abort := false, denied := false, busy := false, unknown := false, frames := s.svc.frames + 1 } }

/-- R123: SVC_COMPLETION_READ: all 8 words were read; the oldest completion is removed. -/
def svcCplReadEff (s : State) : State :=
  if !s.svc.strap || !s.chip.understory then s
  else
    let word := (s.svc.cpls.headD 0).toNat
    let data := (List.range 8).map (fun i => BitVec.ofNat 32 (bits word (32 * i + 31) (32 * i)))
    let s := svcReply data s
    { s with svc := { s.svc with cpls := s.svc.cpls.drop 1 } }

/-! ### Requests from members (R384) -/

/-- R384: TUNNEL_REQ_RX: a request has arrived whole. -/
def tunnelReqRxEff (l : Fin 2) (hdr : NkHdr) (ident : BitVec 16) (ds : List RawDesc) (s : State) : State :=
  let body := leBytes 2 ident.toNat ++ [0, 0] ++ ds.flatMap (fun d => leBytes 64 d.bits.toNat)
    ++ (ds.head?.map (fun d => d.buf.data)).getD []
  let (s, mine) := nkReceive l hdr 3 0x18 body s
  if !mine || hdr.src == s.norrak.position || s.norrak.reqSeen.contains (hdr.src, ident) then s
  else
    serveTunnel hdr.src ident ds (modNk s (fun k => { k with reqSeen := ((hdr.src, ident) :: k.reqSeen).take 64 }))

end Sys2Proof.Machine
end

