-- ==== Sys2Proof/Machine/Events.lean ====
section
/-!
DEFINITION. Event records and handlings (18): writing the event ring (R475–R480), clearing ledgers (R474), the event test (R484),
handlings that waited (R472), and the scrubber's reads (R176, R178, R134, R414).
-/

namespace Sys2Proof.Machine

/-! ### The event ring (R475–R480) -/

/-- R480: FAULT_CFG.urgent_vec. -/
def urgentVec (s : State) : Nat := regF s 0xF008 16 12

/-- R480: the vector of a source group. -/
def routeVec (s : State) (source : Nat) : Nat :=
  let g := source / 16
  regF s (0xF010 + 4 * (g / 4)) (8 * (g % 4) + 4) (8 * (g % 4))

/-- R480, R101: one record counted for its vector, which signals when its count is reached. -/
def countVec (v : Nat) (s : State) : State :=
  let old := s.fault.unsig.find? (fun u => u.1 == v)
  let rest := s.fault.unsig.filter (fun u => u.1 != v)
  let n := (old.map (fun u => u.2.1)).getD 0 + 1
  let since := (old.map (fun u => u.2.2)).getD s.time.now
  let put (us : List (Nat × Nat × Nat)) : State := { s with fault := { s.fault with unsig := us } }
  if coalCount s evqBase ≤ n then signalVec v (put rest) else put (rest ++ [(v, n, since)])

/-- R475–R481: a token written to the event ring, counted, signalled, and sent on to the sink. -/
def writeEvent (t : Token) (s : State) : State :=
  let w := s.host.evq
  let s := { s with out := s.out ++ [.event w.tail (entryAddr s 0x1300 32 w.tail) (BitVec.ofNat 256 (ofLe (recordBytes t w.phase)))] }
  let s := wroteEntry .evq s
  let s := { s with fault := if t.remote then { s.fault with remote := s.fault.remote + 1 }
    else { s.fault with evtWritten := s.fault.evtWritten + 1 } }
  let s := if 2 ≤ sevCode t.sev then signalVec (urgentVec s) s else countVec (routeVec s t.source) s
  forwardEvent t s

/-- R479: EVENTS_LOST: generated at the first ring write after a loss, whatever mask and min_sev say. -/
def reportLost (s : State) : State :=
  let f := s.fault
  let pay := leBytes 4 f.lostCount ++ b1 f.lostLow ++ b1 f.lostHigh ++ leBytes 4 (t32 (f.lostFirst.inDom (evtDomain s)).t).toNat
  let s := { s with fault := { s.fault with lostCount := 0, lostLow := 0, lostHigh := 0, lostFirst := {} } }
  let (s, _, m) := logEntry s { source := 248, sev := .warning, payload := pay }
  let s := reportOverflow s m
  let (s, t) := makeToken (noteSource 248 s) 248 .warning pay none
  writeEvent t s

/-- R479: the event ring takes a record. -/
def evqFree (s : State) : Bool := ringOn s evqBase && !s.host.evq.error && decide (1 ≤ ringFree s .evq)

/-- R479: EVENT_WRITE: the oldest token is written, EVENTS_LOST before it. A failed write puts the ring in error; its token stays. -/
def eventWriteEff (r : WriteResult) (s : State) : State :=
  if s.fault.buffer.isEmpty || !evqFree s then s
  else match r with
    | .failed code => ringDmaError (.out .evq) code s
    | .ok =>
      let s := if s.fault.lostCount = 0 then s else reportLost s
      if !evqFree s then s
      else match s.fault.buffer with
        | t :: rest => writeEvent t { s with fault := { s.fault with buffer := rest } }
        | [] => s

/-- R80: EVQ_HEAD. -/
def evqHeadEff (value : Word) (s : State) : State := headEff .evq value s

/-! ### Ledgers (R474, R484) -/

/-- R474: a ledger's entries are removed, those in progress excepted, and stop entries only while FAULT_N is high. -/
def clearLedger (s : State) (L : Fin 7) : State :=
  let high := !s.fault.faultLow
  let goes (e : Entry) : Bool := !inProgress e && (e.level != .stop || high)
  let gone := (s.fault.ledgers[L].entries.zipIdx).filterMap (fun (e, i) => e.bind (fun e => if goes e then some i else none))
  let s := gone.foldl (fun s i => orphanChildren s ⟨L.val, i⟩) s
  modLedger s L (fun l => { l with
    entries := l.entries.map (fun e => e.bind (fun e => if goes e then none else some e))
    ovNote := 0, ovWarn := 0, ovFault := 0, stopUnlogged := 0 })

/-- R474: LEDGER_CLEAR. -/
def ledgerClearEff (mask : Nat) (s : State) : State :=
  ((List.finRange 7).filter (fun L => bit mask L.val)).foldl clearLedger s

/-- R484: EVT_TEST. -/
def evtTestEff (value : Nat) (s : State) : State := emit { source := 249, sev := .note, payload := leBytes 4 value } s

/-! ### Handlings that waited (R472) -/

/-- R214: the cause of an SS1 that an entry requests. -/
def ss1Cause (source : Nat) : Nat :=
  if source = 86 then 1 else if 48 ≤ source ∧ source < 80 then 2 else if 128 ≤ source ∧ source < 140 then 3
  else if source = 91 then 4 else if source = 18 then 6 else 5

/-- R472: a waiting handling starts next: nothing it waits for runs, and no handling that would hold it has waited longer. -/
def startsNext (s : State) (r : EntryRef) (e : Entry) : Bool :=
  e.hstate == .waiting && !mustWait s r.ledger e.level r
    && !(allEntries s).any (fun (q, x) => q != r && (q.ledger == r.ledger || q.ledger == 6) && x.hstate == .waiting
      && decide (x.order < e.order) && !mustWait s q.ledger x.level q)

/-- R472: HANDLING_START. -/
def handlingStartEff (L : Fin 7) (i : Fin 32) (s : State) : State :=
  let r : EntryRef := ⟨L.val, i.val⟩
  match entryAt s r with
  | none => s
  | some e =>
    if !startsNext s r e then s
    else
      let s := preemptOthers s r.ledger e.level r
      let s := modEntry s r (fun e => { e with hstate := .running })
      match e.action with
      | some .isolate => endHandling (quarantineLane (Fin.ofNat 9 e.index) (some r) s) r false
      | some (.ss1 m) =>
        let gs := (List.finRange 8).filter (fun g => m.getLsbD g.val)
        requestAll (ss1Cause e.source) (some r) gs s
      | _ => s

/-! ### The scrubber (R176) -/

/-- R176, R178, R134, R414: SCRUB_READ. -/
def scrubEff (mem : EccMem) (addr : Nat) (e : Ecc) (s : State) : State :=
  match mem with
  | .glade => gladeScrub addr e s
  | .folio => folioScrub addr e s
  | .pstore => if addr < 4096 then pstoreEcc addr e s else s
  | .quire => quireScrub addr e s

/-! ### The bell window (R79) -/

/-- R79: reads of the bell window return zero. -/
def bellRead (_ : Nat) : Word := 0

/-- R79: a write of the bell window by its offset; an offset that the table does not assign is discarded. -/
def bellWrite (off : Nat) (value : Word) (s : State) : State :=
  if off % 4 ≠ 0 then s
  else if off < 0x20 then sqTailEff (Fin.ofNat 8 (off / 4)) value s
  else if 0x40 ≤ off ∧ off < 0x60 then cqHeadEff (Fin.ofNat 8 ((off - 0x40) / 4)) value s
  else if off = 0x80 then evqHeadEff value s
  else if 0xA0 ≤ off ∧ off < 0xB0 then strHeadEff (Fin.ofNat 4 ((off - 0xA0) / 4)) value s
  else if off = 0xC0 then heartbeatEff s
  else s

end Sys2Proof.Machine
end

