-- ==== Sys2Proof/Machine/Cycle.lean ====
section
/-!
DEFINITION. Samples and jobs of a slot: CONTROL_CYCLE (R25, R57, R60, R219, R380), JOB_READY (R142, R145) and APPLY_INSTANT
(R28, R30).
-/

namespace Sys2Proof.Machine

/-! ### Jobs (R27, R141) -/

/-- R27, R141: the job of a schedule of a slot for a sample. -/
def slotJob (s : State) (n : Fin 32) (b : Binding) (sched : Sched) (ts : T64) : Job :=
  let sl := s.axis.slots[n]
  let (index, offset, leaves) : Nat × Nat × List Byte := match sched with
    | .outer => (sl.outSched.index, b.outOffset, b.leaves)
    | .current => (sl.curSched.index, b.curOffset, [b.curLeaf])
  { owner := .slot n, sched := sched, ts := ⟨b.dom, ts⟩, tApply := ⟨b.dom, ts + BitVec.ofNat 64 offset⟩
    deadline := ⟨b.dom, ts + BitVec.ofInt 64 ((offset : Int) - outLead s n b sched - guardLsb)⟩
    sample := index, leaves := leaves }

/-- R293: the job of an armed lattice for a sample of the slot it follows: the LATTICE leaf. -/
def ltcJob (s : State) (k : Fin 4) (c : LtcCfg) (b : Binding) (ts : T64) : Job :=
  let lead : Nat := (List.finRange 12).foldl (fun (m : Nat) e =>
    if (ltcOuts c).contains (ltcOutOf e) then max m (epLead s e) else m) 0
  { owner := .lattice k, sched := .outer, ts := ⟨b.dom, ts⟩, tApply := ⟨b.dom, ts + BitVec.ofNat 64 b.outOffset⟩
    deadline := ⟨b.dom, ts + BitVec.ofInt 64 ((b.outOffset : Int) - lead - guardLsb)⟩
    sample := s.pins.ltc[k].sched.index, leaves := [0x28] }

/-- R293: the armed lattices that follow a slot have their sample. -/
def sampleLattices (n : Fin 32) (b : Binding) (ts : T64) (s : State) : State :=
  (List.finRange 4).foldl (fun s (k : Fin 4) =>
    match s.pins.ltc[k].cfg with
    | some c =>
      if c.slot = n ∧ ltcArmed s.pins.ltc[k] then
        let s := thinSample (.lattice k) true (jobDeadlineEff (.lattice k) .outer s)
        let j := ltcJob s k c b ts
        modLtc s k (fun l => { l with sched := { l.sched with forming := some j, index := l.sched.index + 1 } })
      else s
    | none => s) s

/-! ### Set-points of a sample (R206, R218–R221, R380) -/

/-- R253: the measured position and speed of a slot at its sample: of a step slot without feedback, the microsteps emitted;
of any other slot without feedback, its command. -/
def measuredNow (s : State) (n : Fin 32) (b : Binding) : Int :=
  let sl := s.axis.slots[n]
  if b.fbSource ≠ 0 then p48 sl.fb.meas
  else if b.kind = .step ∧ sl.step.cfg.isSome then
    let t := syncStep s.time.now sl.step
    t.base + carried t * 65536
  else p48 sl.cmdP

/-- R206, R207: a slot that has just entered AUTO takes up the measured position. -/
def enterSlot (n : Fin 32) (b : Binding) (s : State) : State :=
  let sl := s.axis.slots[n]
  let meas := measuredNow s n b
  let s := if sl.entry == .auto && b.kind == .step && sl.step.cfg.isSome then modSlot s n (alignStep meas s.time.now) else s
  enterSample n meas sl.fb.v sl.fb.vPrev s

/-- R380: the planned state of a publishing slot, as a record for its instant. -/
def plannedRec (sl : Slot) (t : T64) : TrajRec :=
  { t := t32 t, p := sl.cmdP, v := BitVec.ofInt 32 sl.cmdV, a := BitVec.ofInt 32 sl.cmdA
    j := BitVec.ofInt 32 (roundDiv sl.cubic.j (2 ^ 32)) }

/-- R380, R381: the generator of a publishing slot plans a horizon ahead; the slot takes the record of its sample, and holds
its position before the first one. -/
def runPublished (n : Fin 32) (p : Publication) (ts : T64) (cad : Nat) (s : State) : State :=
  let old := s.axis.slots[n]
  let ahead := ts + BitVec.ofNat 64 (horizonLsb p)
  let s := if p.stopping || p.final then s
    else
      let s := runGenerator n ahead cad s
      appendRec n (plannedRec s.axis.slots[n] ahead) s
  let rec' : Option Cubic := (localPub s n).bind (fun p => pubCubic p ts)
  let s : State := match rec' with
    | some c =>
      let (x, v, a) := cubicState c ts
      setCmd n ts { p := x * 2 ^ 32, v := v, a := a } c.j s
    | none => setCmd n ts { p := p48 old.cmdP * 2 ^ 32, v := 0, a := 0 } 0 s
  if p.stopping then modSlot s n (fun sl => { dropGoal sl with gen := genOfCmd sl }) else s

/-- R219–R221: the set-point source of a slot plans the period that starts at a sample. -/
def runSource (n : Fin 32) (b : Binding) (ts : T64) (s : State) : State :=
  let sl := s.axis.slots[n]
  let cad := 2 ^ b.outCad
  if sl.mode ≠ .auto ∨ (b.kind = .band ∧ sl.ss1) then s
  else match sl.source with
    | .path => runPath n ts ⟨b.dom, ts + BitVec.ofNat 64 b.outOffset⟩ cad s
    | .gear | .cam => runGear n ts cad s
    | .coarse => runCoarse n ts cad s
    | .profile =>
      let s := advanceStops (domNow s .d1) s
      match localPub s n with
      | some p => runPublished n p ts cad s
      | none => runGenerator n ts cad s

/-- R237: whether the set-point of a sample waits for the measured position of the master, which the master's own sample makes. -/
def waitsMaster (s : State) (n : Fin 32) : Bool :=
  let sl := s.axis.slots[n]
  let m := s.axis.slots[Fin.ofNat 32 sl.gear.masterSlot]
  sl.mode == .auto && (sl.source == .gear || sl.source == .cam) && sl.gear.masterKind == 1 && m.mode != .off
    && (match m.bind with
      | some b => b.fbSource != 0 && !b.leaves.isEmpty
      | none => false)

/-- R219, R237: the set-point source runs, or waits for its master. -/
def runOrWait (n : Fin 32) (b : Binding) (ts : T64) (s : State) : State :=
  if waitsMaster s n then modSlot s n (fun sl => { sl with waitMaster := some ts })
  else runSource n b ts (modSlot s n (fun sl => { sl with waitMaster := none }))

/-- R237: a set-point that has waited is planned. -/
def runWaiting (n : Fin 32) (s : State) : State :=
  match s.axis.slots[n].waitMaster, s.axis.slots[n].bind with
  | some ts, some b => runSource n b ts (modSlot s n (fun sl => { sl with waitMaster := none }))
  | _, _ => s

/-- R237: the followers of a slot's measured position whose sample is the one it has just measured. -/
def runFollowers (m : Fin 32) (ts : T64) (s : State) : State :=
  (List.finRange 32).foldl (fun s n =>
    let sl := s.axis.slots[n]
    if sl.waitMaster = some ts ∧ Fin.ofNat 32 sl.gear.masterSlot = m then runWaiting n s else s) s

/-! ### What takes effect at a sample (R60, R97) -/

/-- R60: a slot's descriptors whose chosen sample has come. -/
def dueForSlot (n : Fin 32) (ts : T64) (f : InFlight) : Bool :=
  match f.due with
  | .sample m t => m == n && f.applied.isNone && decide (0 ≤ diff64 ts t)
  | _ => false

/-- R97: a slot's descriptors of a sample take effect, each with the apply instant of its sample. -/
def takeSlot (n : Fin 32) (b : Binding) (ts : T64) (offset : Nat) (pick : InFlight → Bool) (s : State) : State :=
  takeAll (slotNow ⟨b.dom, ts + BitVec.ofNat 64 offset⟩ ⟨b.dom, ts⟩) (s.host.flight.filter (fun f => dueForSlot n ts f && pick f)) s

/-- R230: whether a path descriptor takes effect at the samples of a slot; one whose group no longer exists does so, and
fails, at the next sample of any slot. -/
def pathAt (s : State) (n : Fin 32) (f : InFlight) : Bool :=
  let defines := f.opcode == 0x29 && pathCmd f == 0
  let members := s.axis.paths[pathT f].members
  (f.opcode == 0x28 || f.opcode == 0x29)
    && (if defines then (defMembers f.payload).contains n else members.isEmpty || members.contains n)

/-- R89, R230: the path descriptors of a sample take effect. -/
def takePaths (n : Fin 32) (b : Binding) (ts : T64) (s : State) : State :=
  let at' : Stamp := ⟨b.dom, ts + BitVec.ofNat 64 b.outOffset⟩
  takeAll (fun f s => if f.opcode == 0x28 then pathSegNow f s else pathGroupNow f at' s)
    (readyAt s (slotD0 s n ts) (pathAt s n)) s

/-! ### CONTROL_CYCLE -/

/-- R57: the outer sample that a slot in OFF has reached: an instant of its grid (DEDUCED). -/
def offSample (s : State) (n : Fin 32) (b : Binding) : Option T64 :=
  let P := outPeriod b
  let now := domNow s b.dom
  let last := gridAt P (b.phase % P) (now - BitVec.ofNat 64 P + 1)
  match s.axis.slots[n].outSched.next with
  | some x =>
    let d := diff64 now x
    if d < 0 ∧ -(P : Int) ≤ d then none
    else if 0 ≤ d ∧ d < P then some x
    else some last
  | none => some last

/-- R57: the sample that a schedule of a slot has reached. -/
def dueSample (s : State) (n : Fin 32) (b : Binding) (sched : Sched) : Option T64 :=
  let sl := s.axis.slots[n]
  if sl.mode = .off then (match sched with
    | .outer => offSample s n b
    | .current => none)
  else
    let next := match sched with
      | .outer => sl.outSched.next
      | .current => sl.curSched.next
    next.filter (fun t => decide (0 ≤ diff64 (domNow s b.dom) t))

/-- R166: the schedule whose samples a move of a slot's lease counts. -/
def fastest (b : Binding) (sched : Sched) : Bool := if b.kind = .servo then sched == .current else sched == .outer

/-- A measurement of a sample, and what waits for it. -/
def measureNow (n : Fin 32) (ts : T64) (s : State) : State := formWaits n (measureSlot n ts s)

/-- R57: the sample of an OFF slot: descriptors take effect; a slot that stays in OFF measures by itself. -/
def takeOuter (n : Fin 32) (b : Binding) (ts : T64) (s : State) : State :=
  takePaths n b ts (takeSlot n b ts b.outOffset (fun _ => true) s)

/-- R206: the schedules of a slot that has left OFF start at this sample. -/
def startSchedules (n : Fin 32) (b : Binding) (ts : T64) (s : State) : State :=
  modSlot s n (fun sl => { sl with
    curSched := { sl.curSched with next := if b.kind = .servo then some ts else none, forming := none, latch := [] }
    outSched := { sl.outSched with forming := none, latch := [] } })

/-- R142: the job of an outer sample is made. A slot without leaves has none. -/
def formOuter (n : Fin 32) (b : Binding) (ts : T64) (s : State) : State :=
  let j := slotJob s n b .outer ts
  modSlot s n (fun sl => { sl with outSched := { sl.outSched with
    forming := if b.leaves.isEmpty then none else some j, index := sl.outSched.index + 1 } })

/-- R57: the next outer sample. -/
def nextOuter (n : Fin 32) (b : Binding) (ts : T64) (s : State) : State :=
  modSlot s n (fun sl => { sl with outSched := { sl.outSched with next := some (ts + BitVec.ofNat 64 (outPeriod b)) } })

/-- R25: the outer sample of a slot. -/
def outerCycle (n : Fin 32) (b : Binding) (ts : T64) (s : State) : State :=
  let wasOff := s.axis.slots[n].mode == .off
  let s := jobDeadlineEff (.slot n) .outer s
  let s := thinSample (.slot n) (fastest b .outer) s
  let s := tallySample n (parkSample n s)
  let s := takeRerefs n ts (latchPec n s)
  -- R253: without a source there is nothing to wait for; a port's edges and a reply come before JOB_READY
  let s := if b.fbSource = 0 then measureNow n ts s else s
  let s := takeOuter n b ts s
  let s :=
    if s.axis.slots[n].mode = .off then
      if (portOf b.fbSource).isSome then measureNow n ts s else s
    else
      let s := if wasOff then startSchedules n b ts s else s
      let s := if b.fbSource ≠ 0 ∧ s.axis.slots[n].entry ≠ .none then s else runOrWait n b ts (enterSlot n b s)
      formOuter n b ts s
  let s := sampleLattices n b ts (takeLattices n b ts (armCompares n b ts s))
  nextOuter n b ts s

/-- R25, R187: the current sample of a servo slot; its set-point is the newest outer output applied by then. -/
def currentCycle (n : Fin 32) (b : Binding) (ts : T64) (s : State) : State :=
  let s := jobDeadlineEff (.slot n) .current s
  let s := thinSample (.slot n) (fastest b .current) s
  let s := takeSlot n b ts b.curOffset (fun f => onCurrent f b) s
  let sp : Int := match outputFor s.axis.slots[n].outSched ts with
    | some (.current i) => i
    | _ => 0
  let j := slotJob s n b .current ts
  modSlot s n (fun sl => { sl with curSched := { sl.curSched with
    forming := some { j with ins := { j.ins with sp := sp } }, index := sl.curSched.index + 1
    next := some (ts + BitVec.ofNat 64 (curPeriod b)) } })

/-- R25: CONTROL_CYCLE: a slot's sample instant. -/
def controlCycleEff (n : Fin 32) (sched : Sched) (s : State) : State :=
  match s.axis.slots[n].bind with
  | none => s
  | some b =>
    match dueSample s n b sched with
    | none => s
    | some ts => match sched with
      | .outer => outerCycle n b ts s
      | .current => currentCycle n b ts s

/-! ### JOB_READY -/

/-- R142: the endpoint whose reply is an input of a job. -/
def jobEndpoint (s : State) (n : Fin 32) (b : Binding) : Option (Fin 12) :=
  if b.kind = .band then (if b.bandSrc = 3 then some (Fin.ofNat 12 b.bandEp) else none)
  else if b.kind = .servo ∨ 0x10 ≤ b.fbSource ∨ s.axis.slots[n].homing.isSome then (axisOf s n).map (fun x => x.1)
  else none

/-- R142: the port whose position or speed is an input of a job. -/
def jobPort (b : Binding) : Option (Fin 3) :=
  if b.kind = .band then (if b.bandSrc = 0 then some 2 else if b.bandSrc ≤ 2 then some (Fin.ofNat 3 (b.bandSrc - 1)) else none)
  else portOf b.fbSource

/-- R142: whether every input of a job has arrived or has been declared missing. -/
def inputsIn (s : State) (n : Fin 32) (b : Binding) (ts : Stamp) : Bool :=
  let port : Nat := match jobPort b with
    | some p => portReady s p
    | none => 0
  decide (toD0 s ts + port ≤ s.time.now) && (match jobEndpoint s n b with
    | some e => replyOver s e ts
    | none => true)
  -- R237: the master's measurement of the sample
  && (match s.axis.slots[n].waitMaster with
    | some x => ((s.axis.slots[Fin.ofNat 32 s.axis.slots[n].gear.masterSlot].outSched.forming).map (fun j => j.ts.t)) != some x
    | none => true)

/-- R259: the speed of a port as a band input, V32; the edge and the speed of the last sample are kept with the slot. -/
def bandSpeed (n : Fin 32) (p : Fin 3) (ts : Stamp) (s : State) : State :=
  let t := (toD0 s ts).toNat
  let k1 := (edgesAt s.axis.ports[p] t).head?.map (fun e => (e.c, e.t))
  modFbk s n (fun f =>
    let v := speedRule f.k0 (portStart s.axis.ports[p]) k1 t f.vLast (portTimeout s p) f.first
    { f with v := v, vLast := v, vPrev := f.v, k0 := k1, first := false })

/-- R189: the band input, Q15.8, and whether it is stale. -/
def bandInput (s : State) (n : Fin 32) (b : Binding) (ts : Stamp) : Int × Bool :=
  if b.bandSrc = 3 then
    let e : Fin 12 := Fin.ofNat 12 b.bandEp
    match s.link.eps[e].meas.find? (fun x => x.1 == b.bandCh) with
    | some x => (x.2, !replyFresh s e ts)
    | none => (0, true)
  else (satS 24 s.axis.slots[n].fb.v, false)

/-- R139, R142: the sixteen LDIN inputs of a job, which the manual does not map: free values; a missing one is presented as its previous
value, with stale set. `stale`: whether an input of a source is missing. -/
def freeInputs (kind sched : Nat) (stale : Nat → Bool) (prev : List Int) (s : State) : List (Int × Bool) × State :=
  (List.range 16).foldl (fun (acc : List (Int × Bool) × State) i =>
    if stale (Config.inputSource [kind, sched, i]) then (acc.1 ++ [((prev[i]?).getD 0, true)], acc.2)
    else
      let (x, s) := takeFree acc.2
      (acc.1 ++ [(sext 24 x, false)], s)) ([], s)

/-- R189: the code of a kind. -/
def kindNo : Kind → Nat
  | .servo => 0 | .step => 1 | .band => 2 | .virtual => 3

/-- R142: a job is queued with its LDIN inputs, which its schedule keeps. -/
def queueWith (j : Job) (vals : List (Int × Bool)) (s : State) : State :=
  queueJob { j with ins := { j.ins with vals := vals }, queued := s.time.now }
    (modSched s j.owner j.sched (fun c => { c with lastIns := vals.map (fun x => x.1) }))

/-- R142, R209, R541: the inputs of a job. -/
def jobInputs (n : Fin 32) (b : Binding) (sched : Sched) (ts : Stamp) (sp : Int) (s : State) : JobIn × State :=
  let f := s.axis.slots[n].fb
  let axis := axisOf s n
  let cur : Option (Nat × Int × Int × Int) := axis.bind (fun x => s.link.eps[x.1].cur.find? (fun y => y.1 == x.2))
  let iStale : Bool := match axis with
    | some (e, _) => !replyFresh s e ts || cur.isNone
    | none => true
  let (iU, iV, iW) : Int × Int × Int := (cur.map (fun y => y.2)).getD (0, 0, 0)
  let (band, bandStale) := if b.kind = .band then bandInput s n b ts else (0, false)
  let stale (src : Nat) : Bool := (src == 0 && (f.stale || bandStale)) || (src == 1 && b.kind == .servo && iStale)
  let (vals, s) := freeInputs (kindNo b.kind) (schedByte (.slot n) sched) stale (schedOf s (.slot n) sched).lastIns s
  ({ vals := vals, pos := f.inPos, vel := f.inVel, fbStale := f.stale, comm := commPos s n ts.t, iU := iU, iV := iV, iW := iW
     iStale := iStale, sp := sp, band := band }, s)

/-- R247: the lag of a homing slot, 2^-16 counts in the direction of the search: the position error of a servo slot, the load
angle of a step slot in microsteps. -/
def homeLag (s : State) (n : Fin 32) (b : Binding) (neg : Bool) : Int :=
  let sl := s.axis.slots[n]
  let d : Int := if neg then -1 else 1
  if b.kind = .servo then d * wrapS 48 (p48 sl.cmdP - p48 sl.fb.meas)
  else match axisOf s n with
    | some (e, a) => d * 65536 * ((s.link.eps[e].angle.find? (fun x => x.1 == a)).map (fun x => x.2)).getD 0
    | none => 0

/-- R247: the sample of a homing. -/
def homeStep (n : Fin 32) (b : Binding) (ts : T64) (s : State) : State :=
  match s.axis.slots[n].homing with
  | none => s
  | some h =>
    let lag := homeLag s n b h.neg
    let sl := s.axis.slots[n]
    homeSample n ts lag (if b.fbSource = 0 then homeMeas sl h.neg lag + sl.fb.o else slotRaw s n ts) s

/-- R142, R253: the measurements of an outer job once its inputs are there, and what its command still lacked of them. -/
def outerInputs (n : Fin 32) (b : Binding) (ts : Stamp) (s : State) : State :=
  let s := if b.fbSource < 0x10 then s
    else match axisOf s n with
      | some (e, _) => if replyFresh s e ts then s else modFbk s n (fun f => { f with stale := true })
      | none => modFbk s n (fun f => { f with stale := true })
  let s := if b.fbSource = 0 then s else measureNow n ts.t s
  let s := match b.kind, jobPort b with
    | .band, some p => bandSpeed n p ts s
    | _, _ => s
  -- R211: while the slot coasts the model stands in for the measurement
  let s := modSlot s n (fun sl => if sl.out.plaus.coasting then { sl with fb := { sl.fb with
      meas := BitVec.ofInt 48 (roundDiv sl.out.plaus.pm (2 ^ 32)), v := satS 32 (roundDiv sl.out.plaus.vm (2 ^ 32)) } } else sl)
  let s := if b.fbSource ≠ 0 ∧ s.axis.slots[n].entry ≠ .none then runSource n b ts.t (enterSlot n b s) else s
  let s := runFollowers n ts.t (runWaiting n s)
  -- R263: a stall's re-reference takes effect in the sample that found it
  homeBack n (takeRerefs n ts.t (homeStep n b ts.t s))

/-- R142, R145: a slot's job is queued with its inputs. -/
def queueSlotJob (n : Fin 32) (b : Binding) (j : Job) (s : State) : State :=
  let s := modSched s j.owner j.sched (fun c => { c with forming := none })
  let s := match j.sched with
    | .outer => outerInputs n b j.ts s
    | .current => s
  let (ins, s) := jobInputs n b j.sched j.ts j.ins.sp s
  queueWith { j with ins := ins } ins.vals s

/-- R142, R280: whether the input of a lattice's job has arrived. -/
def ltcReady (s : State) (k : Fin 4) (ts : T64) : Bool :=
  match s.pins.ltc[k].cfg with
  | some c => match s.axis.slots[c.slot].bind with
    | some b => windowReady s c.slot b c.measured ts
        && (match portOf b.fbSource, c.measured with
          | some p, true => decide (slotD0 s c.slot ts + portReady s p ≤ s.time.now)
          | _, _ => true)
    | none => false
  | none => false

/-- R142: JOB_READY: a job's last input has arrived or is declared missing, and the job is queued. -/
def jobReadyEff (o : Owner) (sched : Sched) (s : State) : State :=
  match (schedOf s o sched).forming with
  | none => s
  | some j =>
    if !reached s j.ts then s
    else match o with
      | .slot n =>
        match s.axis.slots[n].bind with
        | some b => if inputsIn s n b j.ts then queueSlotJob n b j s else s
        | none => s
      | .lattice k =>
        if ltcReady s k j.ts.t then
          let (vals, s) := freeInputs 4 2 (fun _ => false) (schedOf s o sched).lastIns s
          queueWith j vals (modSched s o sched (fun c => { c with forming := none }))
        else s

/-! ### APPLY_INSTANT -/

/-- R28, R191, R351: what a result does at its apply instant to an output of the chip. -/
def applyOut (n : Fin 32) (x : Latched) (s : State) : State :=
  match x.val, s.axis.slots[n].bind with
  | .step t, some _ => applyStep n t s
  | .rate v, some _ => applyRate n v s
  | .band f, some b =>
    let w : ShadowWrite := { stamp := (toD0 s x.tApply).toNat, duty := some (dutyOf f (2 ^ 23)) }
    (slotChannels b).foldl (fun s c => modCh s c (fun ch => { ch with shadow := ch.shadow ++ [w] })) s
  | _, _ => s

/-- R28: APPLY_INSTANT: the newest result whose apply instant has come is applied. -/
def applyInstantEff (n : Fin 32) (sched : Sched) (s : State) : State :=
  let sc := schedOf s (.slot n) sched
  let due (x : Latched) : Bool := reached s x.tApply
  match bestBy (fun (a b : Latched) => decide (diff64 b.tApply.t a.tApply.t < 0)) (sc.latch.filter due) with
  | none => s
  | some x =>
    let s := modSched s (.slot n) sched (fun c => { c with
      latch := c.latch.filter (fun y => !due y), applied := (x.val :: c.applied).take 2, appliedAt := some x.tApply.t })
    applyOut n x s

end Sys2Proof.Machine
end

