-- ==== Sys2Proof/Machine/Status.lean ====
section
/-!
DEFINITION. What the set-up registers read (R37, R67, R108, R115, R159, R183, R216, R249, R273, R274, R302, R346, R362, R385,
R407, R429, R439, R464, R485, R510) and what each upd_seq covers (R114).
-/

namespace Sys2Proof.Machine

/-- The low and the high word of a pair at an offset; 0 elsewhere. -/
def pairAt (o at' x : Nat) : Nat := if o = at' then x % 2 ^ 32 else if o = at' + 4 then x / 2 ^ 32 % 2 ^ 32 else 0

/-- A little-endian word of a record's bytes. -/
def recordWord (bs : List Byte) (k : Nat) : Nat := leAt bs (4 * k) 4

/-! ### CHIP (R37, R115) -/

/-- R115: CHIP_STATUS without upd_seq. -/
def chipStatusWord (s : State) : Nat :=
  word [(ofBool s.chip.powerGood, 0, 1), (ofBool s.chip.understory, 1, 1), (ofBool s.chip.fullService, 2, 1),
    (ofBool s.chip.bistFail, 3, 1), (ofBool s.fault.faultLow, 4, 1), (ofBool s.svc.strap, 5, 1), (ofBool (govActive s), 6, 1),
    (lifeCode s.life.state, 16, 3)]

/-- R115: the words of IDENT. -/
def identWords : List Nat :=
  [Config.vendorId.toNat + 0x2432 * 65536, Config.version.toNat, Config.serial.toNat % 2 ^ 32, Config.serial.toNat / 2 ^ 32]

/-- R36, R37: a word of the audit image. -/
def auditImage (s : State) (o : Nat) : Nat := (tabGet s.chip.image o).getD (if o = 0x290 then 0x18000000 else 0)

def readChip (s : State) (o : Nat) : Nat :=
  match o with
  | 0x00 | 0x04 | 0x08 | 0x0C => (identWords[o / 4]?).getD 0
  | 0x10 => chipStatusWord s
  | 0x14 => ofBool s.svc.strap
  | 0x20 => word [(ofBool s.svc.frameActive, 0, 1), (min 7 s.svc.cpls.length, 1, 3), (ofBool (decide (8 ≤ s.svc.cpls.length + s.svc.reserved)), 4, 1),
      (s.svc.frames.toNat, 16, 16)]
  | 0x24 => s.svc.rangeWrites.toNat
  | 0x28 => s.svc.aborts.toNat
  | 0x200 => word [(ofBool s.chip.auditBusy, 1, 1), (ofBool (s.chip.voidEcc || s.chip.voidRing || s.chip.voidLimits), 2, 1),
      (s.chip.snapSeq.toNat, 8, 8), (ofBool s.chip.voidEcc, 16, 1), (ofBool s.chip.voidRing, 17, 1), (ofBool s.chip.voidLimits, 18, 1)]
  | 0x204 => reg s o
  | _ => if 0x208 ≤ o ∧ o ≤ 0x330 then auditImage s o else 0

/-! ### HOST (R108) -/

/-- R108: a submission ring's registers. -/
def readSq (s : State) (n : Fin 8) (r : Nat) : Nat :=
  match r with
  | 0x0C => sqStatus s n
  | 0x10 => s.host.sq[n].tail
  | _ => reg s (sqBase n + r)

/-- R108: the registers of a ring that the device writes. -/
def readWr (s : State) (k : OutRing) (r : Nat) : Nat :=
  let q := wrRing s k
  match r, k with
  | 0x0C, _ => wrStatus s k
  | 0x10, _ => q.head
  | 0x14, .cq _ => q.reserved
  | 0x14, .str _ => q.withheld.toNat
  | 0x14, .evq => 0
  | 0x18, .cq _ => q.suppressed.toNat
  | 0x18, _ => 0
  | _, _ => reg s (outBase k + r)

/-- R72, R101: the MSI-X table. -/
def readMsix (s : State) (o : Nat) : Nat :=
  let v := s.host.msix[Fin.ofNat 32 (o / 16)]
  match o % 16 with
  | 0 => v.addr.toNat % 2 ^ 32
  | 4 => v.addr.toNat / 2 ^ 32
  | 8 => v.data.toNat
  | _ => ofBool v.mask

def readHost (s : State) (o : Nat) : Nat :=
  match blockOf 0x1100 0x20 8 o with
  | some (n, r) => readSq s (Fin.ofNat 8 n) r
  | none =>
  match blockOf 0x1200 0x20 8 o with
  | some (n, r) => readWr s (.cq (Fin.ofNat 8 n)) r
  | none =>
  match blockOf 0x1300 0x20 1 o with
  | some (_, r) => readWr s .evq r
  | none =>
  match blockOf 0x1380 0x20 4 o with
  | some (n, r) => readWr s (.str (Fin.ofNat 4 n)) r
  | none =>
  match blockOf 0x1800 0x200 1 o with
  | some (_, r) => readMsix s r
  | none =>
  match o with
  | 0x1004 => word [(ofBool s.host.linkUp, 0, 1), (s.host.linkSpeed.toNat, 1, 2), (ofBool s.host.ptmValid, 3, 1),
      (ofBool s.host.orphanActive, 4, 1), (min (heldCount s) 65535, 16, 16)]
  | 0x100C => word [(ofBool s.host.hbLost, 0, 1), (s.host.hbLostCount, 16, 16)]
  | 0x1010 | 0x1014 => pairAt o 0x1010 s.host.hbLast.d0.toNat
  | 0x1018 => s.host.partialWrites.toNat
  | 0x1A00 => ofMask (s.host.msix.toList.map (fun v => v.pending))
  | _ => reg s o

/-! ### TIME (R67) -/

/-- R67: the registers of a domain. -/
def readDomain (s : State) (d : Dom) (r : Nat) : Nat :=
  let x := domRec s.time d
  match r with
  | 0x04 => word [(domStateCode x.state, 0, 3), (ofBool x.slewing, 3, 1), (ofBool (inUse s d), 4, 1), (ofBool (rateHeld x), 5, 1),
      (toW 16 x.phaseErr, 16, 16)]
  | 0x08 | 0x0C => pairAt r 8 (toW 64 (domOffset x))
  | 0x10 => toW 32 (domRate x)
  | 0x14 | 0x18 => pairAt r 0x14 (toW 64 (slewLeftLsb x))
  | 0x1C => holdMs s d
  | _ => reg s (domBase (domCode d) + r)

def readTime (s : State) (o : Nat) : Nat :=
  match blockOf 0x2100 0x40 3 o with
  | some (n, r) => readDomain s (domOf (n + 1)) r
  | none =>
  match o with
  | 0x2000 => reg s o + 2 * ofBool s.time.xsnapBusy + 256 * s.time.xsnapSeq.toNat
  | 0x2004 => word [(ofBool s.time.refLocked, 0, 1), (ofBool s.time.xtalOk, 1, 1), (ofBool s.time.dlineOk, 2, 1), (1, 16, 1),
      (ofBool (inUse s .d1), 17, 1), (ofBool (inUse s .d2), 18, 1), (ofBool (inUse s .d3), 19, 1)]
  | 0x2008 | 0x200C => pairAt o 0x2008 s.time.now
  | 0x2010 => s.time.placerLate.toNat
  | 0x2014 => s.time.placerSupp.toNat
  | _ => if 0x2020 ≤ o ∧ o ≤ 0x204C then ((tabGet s.time.xsnap o).map BitVec.toNat).getD 0 else reg s o

/-! ### CANOPY (R159) -/

def laneCode : LaneState → Nat
  | .inService => 0 | .spare => 1 | .quarantined => 2 | .failedBist => 3

/-- R159: CANOPY_LANE_MAP. -/
def laneMap (s : State) : Nat :=
  let st (x : LaneState) : Nat := ofMask (s.canopy.lanes.toList.map (fun l => l.state == x))
  st .inService + 65536 * (st .quarantined + st .failedBist)

/-- R159: the status of a lane. -/
def laneWordOf (s : State) (k : Fin 9) : Nat :=
  let l := s.canopy.lanes[k]
  word [(laneCode l.state, 0, 2), (min 3 (l.faults.filter (fun t => decide (s.time.now < t + secLsb))).length, 4, 4), (l.total, 16, 16)]

/-- R159: an entry of the user leaf table. -/
def leafWord (s : State) (k : Nat) : Nat :=
  match tabGet s.canopy.leaves (0x80 + k) with
  | some u => word [(u.entry, 0, 12), (1, 12, 1), (ofBool (leafRuns s (0x80 + k)), 13, 1), (u.worst, 16, 12)]
  | none => 0

def readCanopy (s : State) (o : Nat) : Nat :=
  let c := s.canopy
  match blockOf 0x3040 4 9 o with
  | some (k, _) => laneWordOf s (Fin.ofNat 9 k)
  | none =>
  match blockOf 0x30C0 4 32 o with
  | some (k, _) => leafWord s k
  | none =>
  match o with
  | 0x3000 => word [(((spareLane s).map (fun k => k.val)).getD 15, 0, 4), (ofBool c.degraded, 4, 1)]
  | 0x3004 => laneMap s
  | 0x3010 => word [(c.vcode, 0, 6), (ofBool (match c.boostEnd with
      | some t => decide (s.time.now < t)
      | none => false), 6, 1), (ofBool c.short, 7, 1), (c.slackP99, 16, 8)]
  | 0x3018 => c.overruns.toNat
  | 0x301C => c.recomputes.toNat
  | 0x3020 => min c.peak 127
  | 0x3084 =>
    let a := regF s 0x3080 11 0
    if a < 3072 then (Config.rom a).toNat else ramWord s (a - 3072)
  | 0x3088 => word [(c.eccFixed, 0, 16), (c.eccBad, 16, 16)]
  | _ => reg s o

/-! ### GLADE (R183) -/

/-- R183: the view of a lease. -/
def leaseA (l : Lease) : Nat :=
  word [(l.base, 0, 13), (l.words, 16, 13), (1, 29, 1), (ofBool l.moving, 30, 1), (ofBool l.poisoned, 31, 1)]

def leaseB (l : Lease) : Nat :=
  let (isL, no) : Nat × Nat := match l.owner with
    | .slot _ => (0, 0)
    | .lattice k => (1, k)
  word [(l.slot, 0, 5), (isL, 5, 1), (no, 6, 2), (l.leaves.length, 8, 4), (ofBool l.standby, 12, 1), (firstLeaf l, 16, 8)]

/-- R183: the view of a Folio table. -/
def tableView (s : State) (n : Nat) (t : Table) : Nat :=
  word [(t.base, 0, 14), (t.len, 14, 15), (1, 29, 1), (ofBool (tableInUse s n), 30, 1), (ofBool (tablePoisoned s t), 31, 1)]

/-- R183: GLADE_FREE. -/
def gladeFree (s : State) : Nat := word [(freeWords s, 0, 13), (longestRun s, 16, 13)]

/-- R183: the views that GLADE_STATUS.upd_seq covers. -/
def gladeViews (s : State) : List Nat :=
  gladeFree s :: s.glade.leases.flatMap (fun x => [x.1, leaseA x.2, leaseB x.2]) ++ s.glade.tables.flatMap (fun x => [x.1, tableView s x.1 x.2])

def readGladeBlock (s : State) (o : Nat) : Nat :=
  let g := s.glade
  match blockOf 0x4100 8 128 o with
  | some (k, r) => ((tabGet g.leases k).map (if r = 0 then leaseA else leaseB)).getD 0
  | none =>
  match blockOf 0x4800 4 32 o with
  | some (k, _) => ((tabGet g.tables k).map (tableView s k)).getD 0
  | none =>
  match o with
  | 0x4000 => word [(ofBool g.thin.isSome, 0, 1), (g.leases.length, 16, 8)]
  | 0x4004 => gladeFree s
  | 0x4008 => word [(g.loadTotal, 0, 8), (g.loadBankPct, 8, 8), (g.loadBank, 16, 3)]
  | 0x4010 => word [(g.eccFixed, 0, 16), (g.eccBad, 16, 16)]
  | 0x4014 => g.thinSkips.toNat
  | 0x4018 => word [(g.folioFixed, 0, 16), (g.folioEccBad, 16, 16)]
  | _ => reg s o

/-! ### SLOT (R216, R249, R274) -/

/-- R216: SLOT_n_PARTS. -/
def partsWord (sl : Slot) : Nat :=
  let o := sl.out
  let one (l : Loop) : Bool := l.loadedA || l.loadedB
  ofMask [one sl.cur.d, one sl.cur.q, one sl.cur.dc, o.vel.loadedA, o.vel.loadedB, o.pos.loadedA, o.pos.loadedB,
    o.notch[0].loaded, o.notch[1].loaded, o.notch[2].loaded, o.notch[3].loaded, o.dob.loaded, o.ffwd.loaded, o.plaus.loaded,
    o.rep.loaded, one o.band, o.two.loaded]

/-- R218: the code of a source. -/
def sourceCode : SrcKind → Nat
  | .profile => 0 | .path => 1 | .gear => 2 | .cam => 3 | .coarse => 4

def readSlot (s : State) (n : Fin 32) (r : Nat) : Nat :=
  let sl := s.axis.slots[n]
  match r with
  | 0x00 => word [(modeCode sl.mode, 0, 2), (ofBool sl.bind.isSome, 2, 1), ((sl.bind.map (fun b => kindCode b.kind)).getD 0, 3, 2),
      (((groupOf s n).map (fun g => g.val)).getD 0, 5, 3), (slotFlags s n, 16, 16)]
  | 0x04 => partsWord sl
  | 0x08 => word [(sl.coasts, 0, 16), (sl.longest, 16, 9)]
  | 0x0C => sl.bands.toNat
  | 0x10 => toW 24 sl.out.plaus.rv
  | 0x14 => word [(sourceCode sl.source, 0, 3), (ofBool sl.atGoal, 3, 1), (ofBool sl.decelHeld, 4, 1), (ofBool sl.reversing, 5, 1),
      (ofBool sl.homing.isSome, 6, 1), (ofBool sl.step.rateLimited, 7, 1), (sl.pathGroup, 16, 2)]
  | 0x18 | 0x1C => pairAt r 0x18 sl.cmdP.toNat
  | 0x20 => toW 32 sl.cmdV
  | 0x24 => toW 32 sl.cmdA
  | 0x28 => toW 24 (satS 24 sl.step.owed)
  | 0x2C => if sl.source = .gear ∨ sl.source = .cam then toW 32 (satS 32 (roundDiv sl.gen.p (2 ^ 48))) else 0
  | 0x30 => (slotC s n).toNat
  | 0x34 => word [((sl.bind.map (fun b => b.fbSource)).getD 0, 0, 8), (ofBool sl.fb.stale, 8, 1), (ofBool sl.fb.standstill, 9, 1),
      (ofBool (pecActive s n), 10, 1), (ofBool sl.fb.deferred, 11, 1)]
  | 0x38 | 0x3C => pairAt r 0x38 (toW 64 sl.fb.o)
  | _ => 0

def readSlotBlock (s : State) (o : Nat) : Nat :=
  match blockOf 0x5000 0x40 32 o with
  | some (n, r) => readSlot s (Fin.ofNat 32 n) r
  | none =>
  match blockOf 0x5810 4 4 o with
  | some (g, _) =>
    let p := s.axis.paths[Fin.ofNat 4 g]
    word [(pathCode p.state, 0, 2), (ofBool p.starved, 2, 1), (p.queue.length, 16, 5)]
  | none =>
    if o = 0x5800 then ofMask (s.axis.groups.toList.map (fun g => g.ss1)) + 256 * ofMask (s.axis.groups.toList.map (fun g => g.stopped))
    else 0

/-! ### FEEDBACK (R273) -/

def readPort (s : State) (p : Fin 3) (r : Nat) : Nat :=
  let q := s.axis.ports[p]
  let enc := decide (p.val < 2)
  match r with
  | 0x04 => word [(q.lines.toNat, 0, 3), (ofBool q.neg, 3, 1), (ofBool q.standstill, 4, 1), (ofBool (enc && q.zSeen), 5, 1),
      (ofBool (enc && q.pecRange), 6, 1)]
  | 0x08 => q.c.toNat
  | 0x0C => q.skips.toNat
  | 0x10 => q.glitches.toNat
  | 0x14 => if enc then 0 else q.invalid.toNat
  | 0x18 | 0x1C => pairAt r 0x18 (q.last.getD 0)
  | 0x20 | 0x24 => if enc then pairAt r 0x20 q.zStamp.toNat else 0
  | 0x28 => if enc then q.zCount.toNat else 0
  | _ => reg s (portBase p + r)

def readFeedback (s : State) (o : Nat) : Nat :=
  match blockOf 0x6000 0x40 3 o with
  | some (p, r) => readPort s (Fin.ofNat 3 p) r
  | none => reg s o

/-! ### PINS (R302) -/

def ltcCode : LtcState → Nat
  | .unloaded => 0 | .idle => 1 | .armed => 2 | .firing => 3

def readPin (s : State) (k : Fin 4) (r : Nat) : Nat :=
  let p := s.pins.pins[k]
  let level := if pinMode s k = 2 then p.level else s.time.placers[pinPlacer k].level
  match r with
  | 0x04 => word [(ofBool level, 0, 1), (ofBool p.stuck, 1, 1), ((p.owner.map ownerKind).getD 0, 4, 4),
      ((p.owner.map ownerIndex).getD 0, 16, 8)]
  | 0x08 => p.suppressed.toNat
  | 0x0C => p.edges.toNat
  | _ => reg s (pinBase k + r)

def readCmp (s : State) (u : Fin 16) (r : Nat) : Nat :=
  let c := s.pins.cmp[u]
  match r with
  | 0x00 => word [(ofBool c.arm.isSome, 0, 1), (c.mode, 1, 2), (ofBool c.lateArmed, 3, 1), (ofBool c.active, 4, 1), (c.slot, 16, 5)]
  | 0x04 => c.fires.toNat
  | _ => pairAt r 8 c.last.toNat

def readLat (s : State) (u : Fin 16) (r : Nat) : Nat :=
  let l := s.pins.lat[u]
  match r with
  | 0x00 => word [(ofBool l.arm.isSome, 0, 1), (l.source, 1, 2), (ofBool l.reref, 3, 1), (l.slot, 16, 5), (l.dom, 21, 2)]
  | 0x04 => l.taken.toNat
  | 0x08 | 0x0C => pairAt r 8 l.pos.toNat
  | _ => pairAt r 0x10 l.stamp.toNat

def readLtc (s : State) (n : Fin 4) (r : Nat) : Nat :=
  let l := s.pins.ltc[n]
  match r with
  | 0x00 => word [(ltcCode l.state, 0, 2), (ofBool l.neg, 2, 1), (ofBool l.coast, 3, 1), ((l.cfg.map (fun c => c.slot.val)).getD 0, 16, 5)]
  | 0x04 => ((l.cfg.bind (fun c => (ltcOuts c).head?)).bind (fun j => l.outs[j].next)).getD 0 % 2 ^ 20
  | 0x08 => l.fired.toNat
  | 0x0C => l.shifted.toNat
  | 0x10 => l.skipped.toNat
  | 0x14 => l.passes.toNat
  | _ => reg s (ltcBase n + r)

def readPins (s : State) (o : Nat) : Nat :=
  match blockOf 0x7000 0x10 4 o with
  | some (k, r) => readPin s (Fin.ofNat 4 k) r
  | none =>
  match blockOf 0x7100 0x10 16 o with
  | some (u, r) => readCmp s (Fin.ofNat 16 u) r
  | none =>
  match blockOf 0x7200 0x20 16 o with
  | some (u, r) => readLat s (Fin.ofNat 16 u) r
  | none =>
  match blockOf 0x7400 0x80 4 o with
  | some (n, r) => readLtc s (Fin.ofNat 4 n) r
  | none => 0

/-! ### SIGLINK (R346) -/

def epStateCode : EpState → Nat
  | .absent => 0 | .answering => 1 | .cyclic => 2 | .mismatch => 3

def readLink (s : State) (k : Fin 4) (r : Nat) : Nat :=
  match r with
  | 0x04 => word [(ofBool s.link.links[k].active, 0, 1), (ofBool (k == 3 && s.svc.strap), 1, 1), (linkLoad s k, 16, 8),
      (s.link.links[k].queue.length, 24, 5)]
  -- without windows the gap of a running link is unlimited
  | 0x08 => min (((linkGap s k).getD (if linkOn s k then 2 ^ 64 else 0)) / nsLsb) (2 ^ 32 - 1)
  | _ => reg s (linkBase k + r)

def readEp (s : State) (e : Fin 12) (r : Nat) : Nat :=
  let x := s.link.eps[e]
  match r with
  | 0x00 => word [(epStateCode x.state, 0, 2), (ofBool x.bind.isSome, 2, 1), (ofBool x.badIdentity, 3, 1), (ofBool x.epFault, 4, 1),
      (ofBool x.outputs, 5, 1), (x.missRun, 16, 4), (x.creditFree, 20, 4), (x.kind.toNat, 24, 8)]
  | 0x04 => (x.bind.map (fun b => b.lead)).getD 0
  | 0x08 => (x.bind.map (fun b => b.rdelay)).getD 0
  | 0x0C => x.rxBad.toNat
  | 0x10 => x.rxMissing.toNat
  | 0x14 => x.nacks.toNat
  | 0x18 => x.gaps.toNat
  | 0x1C => if x.bind.isSome then word [(cmdBytes s e, 0, 16), (epReply s e, 16, 16)] else 0
  | 0x20 => word [(x.arrivals, 0, 16), (x.departures, 16, 16)]
  | _ => 0

/-- R346: the record selected in SIGLINK_EPR_SEL. -/
def eprRecord (s : State) : List Byte :=
  let k := regF s 0x8E00 4 0
  if k < 12 then s.link.eps[Fin.ofNat 12 k].paper
  else if 16 ≤ k ∧ k < 24 then (let r := s.link.recs[Fin.ofNat 8 (k - 16)]
    if r.valid then r.data else [])
  else []

def readSiglink (s : State) (o : Nat) : Nat :=
  match blockOf 0x8000 0x40 4 o with
  | some (k, r) => readLink s (Fin.ofNat 4 k) r
  | none =>
  match blockOf 0x8200 0x40 12 o with
  | some (e, r) => readEp s (Fin.ofNat 12 e) r
  | none =>
  match blockOf 0x8F00 4 64 o with
  | some (k, _) => recordWord (eprRecord s) k
  | none =>
    if o = 0x8604 then
      let rs := s.link.recs.toList
      word [(ofMask (rs.map (fun r => r.valid)), 0, 8), (ofMask (rs.map (fun r => r.fault)), 16, 8),
        (ofBool (rs.any (fun r => r.wanted)), 24, 1), (ofBool s.link.busFault, 25, 1)]
    else reg s o

/-! ### POWER (R362) -/

def readChannel (s : State) (c : Fin 3) (r : Nat) : Nat :=
  let ch := s.power.ch[c]
  match r with
  | 0x00 => chPeriod s c
  | 0x04 => ch.duty
  | 0x08 => chPhase s c
  | 0x14 => word [(ch.lh.d, 0, 10), (ch.hl.d, 10, 10), (ofBool ch.lh.limit, 20, 1), (ofBool ch.hl.limit, 21, 1)]
  | 0x18 => ch.boots.toNat
  | _ => reg s (chBase c + r)

def readPower (s : State) (o : Nat) : Nat :=
  let p := s.power
  match blockOf 0x9100 0x20 3 o with
  | some (c, r) => readChannel s (Fin.ofNat 3 c) r
  | none =>
  match o with
  | 0x9004 => word [(ofMask ((List.finRange 3).map (chEnabled s)), 0, 3), ((p.sector.map (fun x => x.val)).getD 7, 4, 3),
      (ofBool p.hallLost, 7, 1), (ofMask (p.trips.toList.map (fun t => t.holding || t.latched)), 16, 2)]
  | 0x9014 => word [(ofMask (p.trips.toList.map (fun t => t.latched)), 0, 2), (ofMask (p.trips.toList.map (fun t => t.active)), 2, 2),
      (p.tripCount, 16, 16)]
  | _ => reg s o

/-! ### NORRAK (R385) -/

/-- R385: the position at the other end of a link: the next in the list for NK0, the one before for NK1 (R370). -/
def neighbour (s : State) (l : Fin 2) : Nat :=
  let n := max 1 (nkCount s)
  if l = 0 then (s.norrak.position.val + 1) % n else (s.norrak.position.val + n - 1) % n

def readNkLink (s : State) (l : Fin 2) (r : Nat) : Nat :=
  let x := s.norrak.links[l]
  match r with
  | 0x00 => word [(ofBool x.signal, 0, 1), (ofBool x.aligned, 1, 1), (ofBool x.up, 2, 1), (ofBool x.folding, 3, 1),
      (if s.norrak.members.isEmpty then 0 else neighbour s l, 16, 4), (ofBool (!s.norrak.members.isEmpty && heard s (neighbour s l)), 20, 1)]
  | 0x04 => x.crcErr.toNat
  | 0x08 => x.retx.toNat
  | 0x0C => x.downs
  | 0x10 => x.delay % 2 ^ 32
  | 0x14 => x.framesTx.toNat
  | 0x18 => x.framesRx.toNat
  | _ => 0

def readNorrak (s : State) (o : Nat) : Nat :=
  let k := s.norrak
  match blockOf 0xA100 0x40 2 o with
  | some (l, r) => readNkLink s (Fin.ofNat 2 l) r
  | none =>
  match blockOf 0xA200 4 16 o with
  | some (i, _) => match k.pubs[i]? with
    | some p => word [(p.slot, 0, 5), (p.pos, 5, 4), (1, 9, 1), (ofBool p.isLocal, 10, 1), (p.horizonMs, 16, 8)]
    | none => 0
  | none =>
  match blockOf 0xA300 8 16 o with
  | some (i, r) => ((k.pubs[i]?).map (fun p => pairAt r 0 p.cForce.toNat)).getD 0
  | none =>
  match o with
  | 0xA004 => word [(ringCode k.state, 0, 3), (ofBool k.isKeeper, 3, 1), (k.position, 4, 4), (k.keeper, 16, 4),
      (ofBool (!k.members.isEmpty), 20, 1), (ofBool (parentLink s == some 0), 21, 1), (ofBool (parentLink s == some 1), 22, 1)]
  | 0xA008 => heardMask s + 65536 * (2 ^ nkCount s - 1)
  | 0xA00C => k.listCrc.toNat
  | 0xA010 | 0xA014 => pairAt o 0xA010 k.partStamp.toNat
  | 0xA020 => k.orphans.toNat
  | _ => reg s o

/-! ### CAN (R407) -/

def readCan (s : State) (c : Fin 2) (r : Nat) : Nat :=
  let x := s.can[c]
  match r with
  | 0x04 => word [(canCode x.state, 0, 2), (ofBool x.timingBad, 2, 1), (ofBool x.busIdle, 3, 1), (x.slots.length, 16, 6)]
  | 0x14 => x.tdc % 128
  | 0x18 => word [(x.tecN, 0, 8), (x.recN, 8, 8), (x.lastErr, 16, 3), (ofBool x.inData, 19, 1), (x.errFrames, 20, 12)]
  | 0x20 => x.rxLost.toNat
  | 0x24 => x.rxUnmatched.toNat
  | 0x28 => x.busOffs
  | 0x38 => word [(ofBool x.running, 0, 1), (x.masterRank.getD 0, 1, 3), (ofBool x.isMaster, 4, 1), (x.cycle, 16, 6)]
  | _ => reg s (canBase c + r)

/-! ### QUIRE (R429) -/

def qCode : QState → Nat
  | .idle => 0 | .armed => 1 | .triggered => 2 | .done => 3

def readQuire (s : State) (o : Nat) : Nat :=
  let q := s.quire
  match o with
  | 0xC000 => word [(qCode q.state, 0, 2), (ofBool q.postclamp, 2, 1), (ofBool q.preclamp, 3, 1),
      (ofBool (q.streaming && quireArmed s), 4, 1), (ofBool q.violation, 5, 1), (q.seqState, 16, 3)]
  | 0xC004 => q.taken - q.oldest
  | 0xC008 => quireDepth ((List.finRange 16).filter (chanOn s)).length
  | 0xC00C => word [(q.trigIndex, 0, 16), (q.trigSub, 16, 8)]
  | 0xC010 | 0xC014 => if q.taken = q.oldest then 0 else pairAt o 0xC010 (storedStamp q q.oldest).toNat
  | 0xC018 | 0xC01C => pairAt o 0xC018 q.trigStamp.toNat
  | 0xC020 => word [(ofBool q.trigTest0, 0, 1), (ofBool q.trigTest1, 1, 1), (ofBool q.trigForced, 2, 1), (q.trigState, 3, 3)]
  | 0xC024 => q.violCount.toNat
  | 0xC028 => word [(q.violIndex, 0, 16), (ofBool q.violUpper, 16, 1), (ofBool q.violPoisoned, 17, 1)]
  | 0xC02C | 0xC030 => pairAt o 0xC02C q.violStamp.toNat
  | 0xC034 => q.violValue.toNat
  | 0xC038 => q.lost.toNat
  | 0xC03C => word [(q.eccFixed, 0, 16), (q.eccBad, 16, 16)]
  | 0xC040 => q.entries.toNat
  | _ => reg s o

/-! ### CHECK (R439) -/

def readCheck (s : State) (o : Nat) : Nat :=
  match blockOf 0xD000 0x40 8 o with
  | some (u, r) =>
    let x := s.check[Fin.ofNat 8 u]
    match r with
    | 0x14 => x.last.toNat
    -- a block begins and ends within one step, so that active is never seen
    | 0x18 => word [(ofBool x.cfgBad, 1, 1)]
    | 0x1C => x.blocks.toNat
    | 0x20 => x.mismatch.toNat
    | _ => reg s o
  | none => 0

/-! ### FIREBREAK (R464) -/

def readFirebreak (s : State) (o : Nat) : Nat :=
  let f := s.firebreak
  match blockOf 0xE020 4 4 o with
  | some (i, _) => toW 32 f.estimates[Fin.ofNat 4 i].v
  | none =>
  match blockOf 0xE040 4 24 o with
  | some (k, _) => recordWord f.record k
  | none =>
  match o with
  | 0xE000 => word [(ofBool f.selftestOk, 0, 1), (ofBool f.valid, 1, 1), (ofBool f.confirmed, 2, 1), (ofBool (f.faultKind != 0), 3, 1),
      (f.faultKind, 4, 4)]
  | 0xE004 => word [(ofMask (f.chans.toList.map (fun c => c.released)), 0, 4), (ofMask (f.chans.toList.map (fun c => c.demand)), 4, 4),
      (ofMask (f.ins.toList.map (fun i => i.discrepancy)), 8, 2), (ofBool (f.chans[0].chatter || f.chans[1].chatter), 10, 1),
      (ofBool (f.chans[2].chatter || f.chans[3].chatter), 11, 1)]
  | 0xE008 => word [(ofMask (f.groups.toList.map (fun g => g.demands != 0)), 0, 8), (ofMask (f.groups.toList.map (fun g => g.ss1)), 8, 8),
      (ofMask (f.groups.toList.map (fun g => g.sto)), 16, 8)]
  | 0xE00C => word [(ofBool f.stoOut, 0, 1), (ofBool f.readback, 1, 1), (ofBool f.testFail, 2, 1), (ofBool f.cdrv, 3, 1),
      (f.edmOpen.toNat, 4, 2), (ofBool f.edmFault, 6, 1), (ofBool f.epFail, 7, 1)]
  | 0xE010 => leAt f.record 92 4
  | 0xE030 => word [(f.logicTests, 0, 16), (f.memFixed, 16, 16)]
  | 0xE034 => f.stoTests.toNat
  | _ => 0

/-! ### FAULT (R485, R510) -/

/-- R485: a word of a ledger entry. -/
def ledgerWord (e : Option Entry) (r : Nat) : Nat :=
  match e with
  | none => if r = 0 then 0x07FF0000 else 0
  | some e =>
    let (i, L) : Nat × Nat := match e.parent with
      | some p => (if e.parentMerged then 0xFE else p.index, p.ledger)
      | none => (0xFF, 7)
    match r with
    | 0 => word [(e.source, 0, 8), (sevCode e.level, 8, 2), (e.handler, 10, 2), (1, 12, 1), (ofBool e.caused, 13, 1),
        (ofBool e.superseded, 14, 1), (ofBool (inProgress e), 15, 1), (i, 16, 8), (L, 24, 3)]
    | 4 => word [(e.code, 0, 8), (e.index, 8, 8), (min e.count 65535, 16, 16)]
    | _ => pairAt r 8 e.stamp.toNat

/-- R485: the place of a word in the ledgers: ledger, entry and relative offset. -/
def ledgerPlace (o : Nat) : Option (Fin 7 × Nat × Nat) :=
  if 0xF100 ≤ o ∧ o < 0xF700 then some (Fin.ofNat 7 ((o - 0xF100) / 0x100), o % 0x100 / 0x10, o % 0x10)
  else if 0xF700 ≤ o ∧ o < 0xF900 then some (6, (o - 0xF700) / 0x10, o % 0x10)
  else none

/-- R485: FAULT_STATUS without upd_seq. -/
def faultStatusWord (s : State) : Nat :=
  word [(ofBool s.fault.faultLow, 0, 1), (causeCode s, 1, 4),
    (ofMask (s.fault.ledgers.toList.map (fun l => l.entries.any (fun e => (e.map (fun x => x.level)) == some .stop))), 16, 7)]

/-- R510: LIFE_STATUS and PARK_STATUS without upd_seq. -/
def lifeStatusWord (s : State) : Nat :=
  word [(lifeCode s.life.state, 0, 3), (ofBool s.life.changing.isSome, 3, 1), (ofBool s.life.parkValid, 4, 1), (ofBool s.life.parkActive, 5, 1)]

def parkStatusWord (s : State) : Nat :=
  let rs := s.life.runs
  word [(ofMask (rs.map (fun r => r.phase == .done)), 0, 4), (ofMask (rs.map (fun r => r.phase == .failed)), 4, 4),
    ((rs.map (fun r => r.reason % 16)).foldr (fun x acc => x + 16 * acc) 0, 16, 16)]

def readFault (s : State) (o : Nat) : Nat :=
  let f := s.fault
  let loss (k : Nat) : Nat := (tabGet f.loss k).getD 0 % 65536
  match ledgerPlace o with
  | some (L, i, r) => ledgerWord ((f.ledgers[L].entries[i]?).join) r
  | none =>
  match blockOf 0xF900 4 128 o with
  | some (k, _) => loss (2 * k) + 65536 * loss (2 * k + 1)
  | none =>
  match blockOf 0xF080 8 7 o with
  | some (L, r) =>
    let l := f.ledgers[Fin.ofNat 7 L]
    if r = 0 then word [(l.ovNote, 0, 16), (l.ovWarn, 16, 16)] else word [(l.ovFault, 0, 16), (l.stopUnlogged, 16, 16)]
  | none =>
  match blockOf 0xFB40 4 256 o with
  | some (k, _) => recordWord s.tally.image k
  | none =>
  match blockOf 0xFF40 4 40 o with
  | some (k, _) => recordWord s.life.park k
  | none =>
  match o with
  | 0xF004 => faultStatusWord s
  | 0xF040 => f.seq.toNat
  | 0xF044 => f.remote.toNat
  | 0xFB00 => lifeStatusWord s
  | 0xFB08 => 256 * s.tally.snapSeq.toNat
  | 0xFB0C => word [(ofBool s.tally.nvOk, 0, 1), (ofBool s.tally.refreshing, 1, 1), (min (sinceRefresh s / 86400) 65535, 16, 16)]
  | 0xFB10 => calNow s
  | 0xFB14 => word [(ofBool s.life.calValid, 0, 1), (ofBool s.life.vbackupOk, 1, 1)]
  | 0xFB18 => parkStatusWord s
  | _ => reg s o

/-! ### All of them -/

/-- R110: what a register reads, but for upd_seq. -/
def liveWord (s : State) (o : Nat) : Nat :=
  match o / 0x1000 with
  | 0x0 => readChip s o
  | 0x1 => readHost s o
  | 0x2 => readTime s o
  | 0x3 => readCanopy s o
  | 0x4 => readGladeBlock s o
  | 0x5 => readSlotBlock s o
  | 0x6 => readFeedback s o
  | 0x7 => readPins s o
  | 0x8 => readSiglink s o
  | 0x9 => readPower s o
  | 0xA => readNorrak s o
  | 0xB => if o < 0xB800 then readCan s 0 (o - 0xB000) else readCan s 1 (o - 0xB800)
  | 0xC => readQuire s o
  | 0xD => readCheck s o
  | 0xE => readFirebreak s o
  | _ => readFault s o

/-- R114: the registers with an upd_seq field in bits [15:8], then those that hold it in [23:16] and in [31:24]. -/
def seqKeys8 : List Nat :=
  [0x10, 0x20, 0x1004, 0x100C, 0x2004, 0x2104, 0x2144, 0x2184, 0x3000, 0x3010, 0x4000, 0x8604, 0x9004, 0x9014, 0xA004, 0xA100, 0xA140,
    0xB004, 0xB038, 0xB804, 0xB838, 0xC000, 0xE000, 0xE00C, 0xF004, 0xFB00, 0xFB0C, 0xFB14, 0xFB18]
  ++ (List.range 9).map (fun k => 0x3040 + 4 * k) ++ (List.range 32).flatMap (fun n => [slotBase n, slotBase n + 0x14])
  ++ (List.range 4).flatMap (fun k => [0x5810 + 4 * k, pinBase k + 4, ltcBase k, linkBase k + 4])
  ++ (List.range 3).map (fun p => portBase p + 4) ++ (List.range 16).flatMap (fun u => [cmpBase u, latBase u])
  ++ (List.range 12).map (fun e => epBase e) ++ (List.range 8).map (fun u => chkBase u + 0x18)

def seqKeys16 : List Nat := 0x5800 :: 0xE004 :: (List.range 32).map (fun n => slotBase n + 0x34)

/-- R108: the STATUS registers of the rings, whose upd_seq every change of a ring cell raises by itself. -/
def ringKeys : List Nat :=
  (List.range 8).flatMap (fun n => [sqBase n + 0xC, cqBase n + 0xC]) ++ (evqBase + 0xC) :: (List.range 4).map (fun n => strBase n + 0xC)

def seqKeys24 : List Nat := 0xE008 :: ringKeys

/-- The registers whose upd_seq is raised where two states are compared. -/
def seqKeys : List Nat := seqKeys8 ++ seqKeys16 ++ [0xE008]

/-- Those that the passing of time may change. -/
def timeKeys : List Nat := [0x2104, 0x2144, 0x2184, 0x3010, 0xFB0C] ++ (List.range 9).map (fun k => 0x3040 + 4 * k)

/-- R114: where an offset holds upd_seq. -/
def seqPlace (o : Nat) : Option Nat :=
  if seqKeys8.contains o then some 8 else if seqKeys16.contains o then some 16 else if seqKeys24.contains o then some 24 else none

/-- R114: what an upd_seq covers: the other fields of its register, and what its field map names. -/
def covered (s : State) (k : Nat) : List Nat :=
  liveWord s k :: (match k with
    | 0x2104 => [toW 32 (rateOf s .d1)]
    | 0x2144 => [toW 32 (rateOf s .d2)]
    | 0x2184 => [toW 32 (rateOf s .d3)]
    | 0x3000 => [laneMap s]
    | 0x4000 => gladeViews s
    | _ => match blockOf 0x7200 0x20 16 k with
      | some (u, _) => [s.pins.lat[Fin.ofNat 16 u].pos.toNat, s.pins.lat[Fin.ofNat 16 u].stamp.toNat]
      | none => [])

/-- R114: the upd_seq of a register. -/
def updSeq (s : State) (k : Nat) : Nat := cellGet zero0 s.seqs k

/-- R110, R111: what a register reads; an offset without a register reads 0. -/
def readReg (s : State) (o : Nat) : Word :=
  let w := liveWord s o
  BitVec.ofNat 32 (match seqPlace o with
    | some p => w + updSeq s o * 2 ^ p
    | none => w)

/-- R114: every upd_seq of a list of registers whose fields have changed between two states rises by 1, unless each change in between
has raised it. -/
def bumpAmong (ks : List Nat) (old new : State) : State :=
  { new with seqs := ks.foldl (fun m k =>
      if covered old k = covered new k || cellGet zero0 old.seqs k != cellGet zero0 new.seqs k then m
      else cellPut zero0 m k ((cellGet zero0 m k + 1) % 256)) new.seqs }

/-- R114: the upd_seq of a register after what turned one state into another: 1 higher where its fields have changed, unless each change
in between has raised it. -/
def nextSeq (old new : State) (k : Nat) : Nat :=
  if covered old k = covered new k || updSeq old k != updSeq new k then updSeq new k % 256 else (updSeq new k + 1) % 256

/-- R114: the upd_seq fields, of 8 bits each, after what turned one state into another; no other register has one. -/
def bumpSeqs (old new : State) : State :=
  let rings : List (Nat × Nat) := ringKeys.foldl (fun m k => cellPut zero0 m k (updSeq new k % 256)) []
  { new with seqs := seqKeys.foldl (fun m k => cellPut zero0 m k (nextSeq old new k)) rings }

end Sys2Proof.Machine
end

