-- ==== Sys2Proof/Machine/RegWrite.lean ====
section
/-!
DEFINITION. Accesses to the set-up registers (R73, R110–R114): what a write of each register does besides taking its
writable bits, reads through the snapshot latch of an access path, and the frames of the service port (R116–R122).
-/

namespace Sys2Proof.Machine

/-! ### Writes, block by block -/

/-- R36, R204: a write in the CHIP block. -/
def writeChip (o v : Nat) (s : State) : State :=
  if o = 0x0200 then (if bit v 0 then auditSnapEff s else s) else writeRw s o v

/-- R101: a write of a word of the MSI-X table. -/
def msixWrite (o v : Nat) (s : State) : State :=
  let n : Fin 32 := Fin.ofNat 32 ((o - 0x1800) / 16)
  let e := s.host.msix[n]
  let e := match (o - 0x1800) % 16 / 4 with
    | 0 => { e with addr := BitVec.ofNat 64 (putBits e.addr.toNat 31 0 v) }
    | 1 => { e with addr := BitVec.ofNat 64 (putBits e.addr.toNat 63 32 v) }
    | 2 => { e with data := BitVec.ofNat 32 v }
    | _ => { e with mask := bit v 0 }
  sendPending (modHost s (fun h => { h with msix := h.msix.set n e }))

/-- R108: a write of a register of a ring: BASE and CFG are held while the ring is enabled. -/
def ringRegWrite (r : Ring) (rel v : Nat) (s : State) : State :=
  let o := ringBase r + rel
  if rel = 8 then ringCfgWrite r v s
  else if rel < 8 && regB s (ringBase r + 8) 0 then s
  else writeRw s o v

/-- R108: a write in the HOST block. -/
def writeHost (o v : Nat) (s : State) : State :=
  if o = 0x1000 then writeRw (if bit v 5 then orphanAckEff s else s) o v
  else if o = 0x1008 then
    let s := writeRw s o v
    if regF s o 15 0 = 0 then s else modHost s (fun h => { h with hbFrom := s.time.now })
  else if 0x1800 ≤ o ∧ o < 0x1A00 then msixWrite o v s
  else match blockOf 0x1100 0x20 8 o with
  | some (n, r) => ringRegWrite (.sq (Fin.ofNat 8 n)) r v s
  | none =>
  match blockOf 0x1200 0x20 8 o with
  | some (n, r) => ringRegWrite (.out (.cq (Fin.ofNat 8 n))) r v s
  | none =>
  match blockOf 0x1300 0x20 1 o with
  | some (_, r) => ringRegWrite (.out .evq) r v s
  | none =>
  match blockOf 0x1380 0x20 4 o with
  | some (n, r) => ringRegWrite (.out (.str (Fin.ofNat 4 n))) r v s
  | none => writeRw s o v

/-- R67: a write in the TIME block. -/
def writeTime (o v : Nat) (s : State) : State :=
  if o = 0x2000 then
    let s := writeRw s o v
    if bit v 0 then xsnapEff s else s
  else if o = 0x2100 then disciplineWriteEff .d1 (BitVec.ofNat 32 v) s
  else if o = 0x2140 then disciplineWriteEff .d2 (BitVec.ofNat 32 v) s
  else if o = 0x2180 then disciplineWriteEff .d3 (BitVec.ofNat 32 v) s
  else writeRw s o v

/-- R151: the governor follows a write of its set-up. -/
def writeCanopy (o v : Nat) (s : State) : State :=
  if o = 0x3008 ∨ o = 0x300C then govFollow (writeRw s o v) else writeRw s o v

/-- R273: whether a slot that is not in OFF uses a port. -/
def portBusy (s : State) (p : Fin 3) : Bool :=
  (sourceSlots s (p.val + 1)).any (fun n => s.axis.slots[n].mode != .off)

/-- R273, R490: a write of a port's CFG: enable, invert and filter are held while the port is in use; the write ends the
settings of understory service. -/
def portCfgWrite (p : Fin 3) (v : Nat) (s : State) : State :=
  let o := portBase p
  let was := portOn s p
  let v := if portBusy s p then putBits v 9 0 (bits (reg s o) 9 0) else v
  let s := modPort (writeRw s o v) p (fun q => { q with ownCfg := true })
  if !was && portOn s p then modPort s p (fun q => { q with zSeen := false }) else s

/-- R273: a write in the FEEDBACK block. -/
def writeFeedback (o v : Nat) (s : State) : State :=
  match blockOf 0x6000 0x40 3 o with
  | some (p, 0) => portCfgWrite (Fin.ofNat 3 p) v s
  | _ => writeRw s o v

/-- R302: a write in the PINS block. -/
def writePins (o v : Nat) (s : State) : State :=
  match blockOf 0x7000 0x10 4 o with
  | some (k, 0) => tpCfgWrite (Fin.ofNat 4 k) v s
  | some _ => s
  | none =>
  match blockOf 0x7400 0x80 4 o with
  | some (n, _) => if ltcArmed s.pins.ltc[Fin.ofNat 4 n] then s else writeRw s o v
  | none => writeRw s o v

/-- R346: a write in the SIGLINK block. -/
def writeSiglink (o v : Nat) (s : State) : State :=
  if o = 0x8600 then idCfgWrite v s
  else match blockOf 0x8000 0x40 4 o with
  | some (k, 0) => linkCfgWrite (Fin.ofNat 4 k) v s
  | _ => writeRw s o v

/-- R348: a write of POWER_CFG: mode, align and domain are held while a channel is enabled. -/
def powerCfgWrite (v : Nat) (s : State) : State :=
  let busy := (List.finRange 3).any (chEnabled s)
  writeRw s 0x9000 (if busy then putBits v 4 0 (bits (reg s 0x9000) 4 0) else v)

/-- The levels of the trip inputs as they stand. -/
def tripLevels (s : State) : BitVec 2 :=
  BitVec.ofNat 2 (ofMask (s.power.trips.toList.map (fun t => t.active)))

/-- R362: a write in the POWER block. -/
def writePower (o v : Nat) (s : State) : State :=
  if o = 0x9000 then powerCfgWrite v s
  else if o = 0x9008 then powerForceWriteEff (BitVec.ofNat 32 v) s
  else if o = 0x9014 then tripClearEff (BitVec.ofNat 32 v) (tripLevels s) s
  else match blockOf 0x9020 4 2 o, blockOf 0x9100 0x20 3 o with
    | some (t, 0), _ => tripCfgWrite (Fin.ofNat 2 t) v s
    | _, some (c, 0x0C) => deadTimeWrite (Fin.ofNat 3 c) v s
    | _, _ => writeRw s o v

/-- R385: a write in the NORRAK block. -/
def writeNorrak (o v : Nat) (s : State) : State :=
  if o = 0xA000 then norrakCfgWrite v s else writeRw s o v

/-- R407: a write in the CAN block. -/
def writeCan (o v : Nat) (s : State) : State :=
  if o < 0xB800 then canRegWrite 0 (o - 0xB000) v s else canRegWrite 1 (o - 0xB800) v s

/-- R429: a write in the QUIRE block: channels and sequencer are held while a capture is armed. -/
def writeQuire (o v : Nat) (s : State) : State :=
  if 0xC100 ≤ o && decide (o < 0xC300) && quireArmed s then s else writeRw s o v

/-- R439: a write in the CHECK block. -/
def writeCheck (o v : Nat) (s : State) : State :=
  match blockOf 0xD000 0x40 8 o with
  | some (u, r) => chkRegWrite (Fin.ofNat 8 u) r v s
  | none => s

/-- R456, R459: a write in the FIREBREAK block; FB_CONFIRM is written through the service port. -/
def writeFirebreak (path : Path) (o v : Nat) (s : State) : State :=
  if o = 0xE014 then (if path = .svc then fbConfirmEff v s else s)
  else if o = 0xE018 then (if bit v 0 then edmAckEff s else s)
  else s

/-- R468, R474, R484, R499, R506: a write in the FAULT block; LIFE_REQ is written through the service port. -/
def writeFault (path : Path) (o v : Nat) (s : State) : State :=
  if o = 0xF000 then
    let s := if bit v 0 then faultAckEff s else s
    ledgerClearEff (bits v 14 8) s
  else if o = 0xF048 then evtTestEff v s
  else if o = 0xFB04 then (if path = .svc then lifeReqEff v s else s)
  else if o = 0xFB08 then (if bit v 0 then tallySnapEff s else s)
  else writeRw s o v

/-- R110–R112: a whole word written to an aligned offset through an access path. -/
def regWrite (path : Path) (o v : Nat) (s : State) : State :=
  match o / 0x1000 with
  | 0x0 => writeChip o v s
  | 0x1 => writeHost o v s
  | 0x2 => writeTime o v s
  | 0x3 => writeCanopy o v s
  | 0x6 => writeFeedback o v s
  | 0x7 => writePins o v s
  | 0x8 => writeSiglink o v s
  | 0x9 => writePower o v s
  | 0xA => writeNorrak o v s
  | 0xB => writeCan o v s
  | 0xC => writeQuire o v s
  | 0xD => writeCheck o v s
  | 0xE => writeFirebreak path o v s
  | 0xF => writeFault path o v s
  | _ => writeRw s o v

/-! ### The paths -/

/-- R116, R117: the service port is in service. -/
def svcUp (s : State) : Bool := s.svc.strap && s.chip.understory

/-- R125: the lifecycle state refuses register writes through the service port. -/
def svcNoWrites (s : State) : Bool := s.life.state == .commissioned || s.life.state == .retired

/-- R125: a register write through the service port. -/
def svcGate (eff : State → State) (s : State) : State :=
  if !svcUp s then s
  else if svcNoWrites s then { s with svc := { s.svc with denied := true } }
  else eff s

/-- R112, R125: a register write through a path. -/
def pathGate (path : Path) (eff : State → State) (s : State) : State :=
  match path with
  | .pcie => eff s
  | .svc => svcGate eff s

/-- The aligned offset of an address in the set-up window. -/
def alignedOff (addr : BitVec 16) : Nat := addr.toNat / 4 * 4

/-- R73: a write that does not cover an aligned word. -/
def partialWrite (addr : BitVec 16) (s : State) : State :=
  emitLim msLsb 0 (fun _ => { source := 27, sev := .note, payload := leBytes 2 addr.toNat })
    (modHost s (fun h => { h with partialWrites := h.partialWrites + 1 }))

/-- R73, R112: REGISTER_WRITE. -/
def regWriteEff (path : Path) (addr : BitVec 16) (value : Word) (be : BitVec 4) (s : State) : State :=
  if path = .pcie ∧ (be ≠ 15 ∨ addr.toNat % 4 ≠ 0) then partialWrite addr s
  else pathGate path (regWrite path (alignedOff addr) value.toNat) s

/-! ### Reads -/

/-- R113: the offset of the higher word of an RS register whose low word lies at an offset. -/
def rsHigh (o : Nat) : Option Nat :=
  let fixed := [0x208, 0x210, 0x218, 0x2A0, 0x2A8, 0x2C0, 0x2C8, 0x2E0, 0x2E8, 0x1010, 0x2008, 0x2108, 0x2148, 0x2188,
    0x2114, 0x2154, 0x2194, 0x6018, 0x6058, 0x6098, 0x6020, 0x6060, 0xA010, 0xC010, 0xC018, 0xC02C]
  let isSlot := match blockOf 0x5000 0x40 32 o with
    | some (_, r) => r == 0x18 || r == 0x38
    | none => false
  let isPin := match blockOf 0x7100 0x10 16 o with
    | some (_, r) => r == 8
    | none => match blockOf 0x7200 0x20 16 o with
      | some (_, r) => r == 8 || r == 0x10
      | none => false
  let isCommit := match blockOf 0xA300 8 16 o with
    | some (_, r) => r == 0
    | none => false
  let isStamp := match ledgerPlace o with
    | some (_, _, r) => r == 8
    | none => false
  if fixed.contains o || isSlot || isPin || isCommit || isStamp then some (o + 4) else none

/-- R113: the higher word latched for a path at an offset. -/
def latchAt (s : State) (path : Path) (o : Nat) : Option RsLatch := s.latches.find? (fun l => l.path == path && l.off == o)

/-- R113: without the latch of a path at an offset. -/
def dropLatch (path : Path) (o : Nat) (s : State) : State :=
  { s with latches := s.latches.filter (fun l => !(l.path == path && l.off == o)) }

/-- R112, R113, R130: a read through a path: the word, and the machine after it. -/
def readVia (path : Path) (o : Nat) (s : State) : Word × State :=
  if o = 0x3084 then
    (readReg s o, setReg s 0x3080 ((regF s 0x3080 11 0 + 1) % 4096))
  else match rsHigh o with
  | some h =>
    let s' := dropLatch path h s
    (readReg s o, { s' with latches := { path := path, off := h, val := readReg s h } :: s'.latches })
  | none =>
    match latchAt s path o with
    | some l => (l.val, dropLatch path o s)
    | none => (readReg s o, s)

/-- R113: RS_LOW_READ. A service-port read that is not part of a frame still needs the port. -/
def rsLowEff (path : Path) (addr : BitVec 16) (s : State) : State :=
  if path = .svc ∧ !svcUp s then s
  else
    let (w, s) := readVia path (alignedOff addr) s
    { s with out := s.out ++ [.words [w]] }

/-- R130: a read of CANOPY_PSW_DATA through a path. -/
def pswViaEff (path : Path) (s : State) : State := if path = .svc ∧ !svcUp s then s else pswReadEff s

/-! ### Service frames (R118–R122) -/

/-- R118: space and offset of a frame's address. -/
def frameSpace (addr : BitVec 24) : Nat := bits addr.toNat 23 16
def frameOff (addr : BitVec 24) : Nat := bits addr.toNat 15 2 * 4

/-- R121: whether word `i` of a frame lies in its block and within 32 words. -/
def frameIn (addr : BitVec 24) (i : Nat) : Bool := decide (frameOff addr % 0x1000 + 4 * i < 0x1000) && decide (i < 32)

/-- R118, R124, R125: one word of a WRITE frame, within its block. -/
def svcWord (addr : BitVec 24) (i v : Nat) (s : State) : State :=
  let o := frameOff addr + 4 * i
  if frameSpace addr = 0 then svcGate (regWrite .svc o v) s
  else if frameSpace addr = 1 ∧ 0x1000 ≤ o ∧ o < 0x2000 then
    { s with svc := { s.svc with data := cellPut zero0 s.svc.data ((o - 0x1000) / 4) v } }
  else s

/-- R121: a word of a WRITE frame, counted where it is beyond the block. -/
def svcPutWord (addr : BitVec 24) (i v : Nat) (s : State) : State :=
  if 2 ≤ frameSpace addr then { s with svc := { s.svc with range := true } }
  else if frameIn addr i then svcWord addr i v s
  else { s with svc := { s.svc with range := true, rangeWrites := s.svc.rangeWrites + 1 } }

/-- R122: the registers that take effect at select release of a complete frame only. -/
def onRelease (addr : BitVec 24) (i : Nat) : Bool :=
  frameSpace addr == 0 && frameIn addr i && (frameOff addr + 4 * i == 0xE014 || frameOff addr + 4 * i == 0xFB04)

/-- R114, R122: the words of a WRITE frame that a test picks, in order; each is a write of its own. -/
def svcPutSome (p : Nat → Bool) (addr : BitVec 24) (data : List Word) (s : State) : State :=
  data.zipIdx.foldl (fun s (w, i) => if p i then bumpSeqs s (svcPutWord addr i w.toNat s) else s) s

/-- R122: the words of a complete WRITE frame: those that commit at select release take effect after the others. -/
def svcPutWords (addr : BitVec 24) (data : List Word) (s : State) : State :=
  svcPutSome (onRelease addr) addr data (svcPutSome (fun i => !onRelease addr i) addr data s)

/-- R115, R114: select is asserted, and released again. -/
def frameBegin (s : State) : State := bumpSeqs s { s with svc := { s.svc with frameActive := true } }
def frameEnd (s : State) : State := bumpSeqs s { s with svc := { s.svc with frameActive := false } }

/-- R119: the commands of the service port. -/
inductive SvcCommand where
  | write | read | status | ident
  deriving DecidableEq, Repr

/-- R119: the command of a code; a frame with any other is ignored, apart from its status flag. -/
def svcCommand (code : Nat) : Option SvcCommand :=
  match code with
  | 0x02 => some .write
  | 0x0B => some .read
  | 0x05 => some .status
  | 0x9F => some .ident
  | _ => none

/-- R123: the 64 bytes of a descriptor from the words of a frame. -/
def rawOfWords (data : List Word) : RawDesc where
  bits := BitVec.ofNat 512 (data.zipIdx.foldl (fun a (w, i) => a + w.toNat * 2 ^ (32 * i)) 0)
  buf := { data := [], ok := true }

/-- R119: SVC_WRITE; a frame of exactly 16 words to the descriptor window submits a descriptor. -/
def svcWriteEff (addr : BitVec 24) (data : List Word) (s : State) : State :=
  if !svcUp s then s
  else if frameSpace addr = 1 ∧ frameOff addr = 0 ∧ data.length = 16 then frameEnd (svcSubmitEff (rawOfWords data) (frameBegin s))
  else
    let s := svcPutWords addr data (frameBegin s)
    frameEnd { s with svc := { s.svc with frames := s.svc.frames + 1 } }

/-- R118, R123, R124: one word of a READ frame, within its block. -/
def svcGetWord (addr : BitVec 24) (i : Nat) (s : State) : Word × State :=
  let o := frameOff addr + 4 * i
  if frameSpace addr = 0 then readVia .svc o s
  else if frameSpace addr ≠ 1 then (0, s)
  else if 0x100 ≤ o ∧ o < 0x120 then
    (BitVec.ofNat 32 (bits (s.svc.cpls.headD 0).toNat (8 * (o - 0x100) + 31) (8 * (o - 0x100))), s)
  else if 0x1000 ≤ o ∧ o < 0x2000 then (BitVec.ofNat 32 (cellGet zero0 s.svc.data ((o - 0x1000) / 4)), s)
  else (0, s)

/-- The words of a READ frame in order; a word beyond the block reads 0. -/
def svcGetWords (addr : BitVec 24) (words : Nat) (s : State) : List Word × State :=
  (List.range words).foldl (fun r i =>
    if frameIn addr i then
      let (w, s) := svcGetWord addr i r.2
      (r.1 ++ [w], s)
    else (r.1 ++ [0], r.2)) ([], s)

/-- R119–R121: SVC_READ: flags that the frame raises itself are left for the next reply. -/
def svcReadEff (addr : BitVec 24) (words : Nat) (s : State) : State :=
  if !svcUp s then s
  else
    let (ws, s) := svcGetWords addr words (frameBegin s)
    let s := frameEnd (svcReply ws s)
    let s := if frameSpace addr = 1 ∧ frameOff addr = 0x100 ∧ 8 ≤ words then { s with svc := { s.svc with cpls := s.svc.cpls.drop 1 } } else s
    if 2 ≤ frameSpace addr || (List.range words).any (fun i => !frameIn addr i) then { s with svc := { s.svc with range := true } } else s

/-- R119: SVC_STATUS. -/
def svcStatusEff (s : State) : State := if svcUp s then frameEnd (svcReply [readReg s 0x10] (frameBegin s)) else s

/-- R119: SVC_IDENT. -/
def svcIdentEff (s : State) : State :=
  if svcUp s then frameEnd (svcReply [readReg s 0x0, readReg s 0x4, readReg s 0x8, readReg s 0xC] (frameBegin s)) else s

/-- R122: SVC_FRAME_ABORT: whole words stand but for the registers that commit at release; the bits of a part word are
written right-aligned. -/
def svcAbortEff (write : Bool) (addr : BitVec 24) (data : List Word) (nbits : Fin 32) (part : Word) (s : State) : State :=
  if !svcUp s then s
  else
    let s := frameBegin s
    let s := if !write then s else
      let s := svcPutSome (fun i => !onRelease addr i) addr data s
      let i := data.length
      if nbits = 0 ∨ onRelease addr i ∨ !frameIn addr i ∨ 2 ≤ frameSpace addr then s
      else bumpSeqs s (svcWord addr i (part.toNat % 2 ^ nbits.val) s)
    frameEnd { s with svc := { s.svc with aborts := s.svc.aborts + 1, abort := true } }

/-- R119, R120: SVC_UNKNOWN_COMMAND: the frame is ignored, apart from its status flag. -/
def svcUnknownEff (s : State) : State :=
  if svcUp s then (let s := frameBegin s; frameEnd { s with svc := { s.svc with unknown := true } }) else s

/-- R123: SVC_DESCRIPTOR_SUBMIT: a whole frame that carries a descriptor. -/
def svcDescEff (r : RawDesc) (s : State) : State := if svcUp s then frameEnd (svcSubmitEff r (frameBegin s)) else s

/-- A descriptor row: the entry is read from its ring, submitted at the service port, or comes alone in a tunnel request, whose
identifier is then not known: a free value. -/
def descEff (op : Nat) (src : Source) (d : Desc) (s : State) : State :=
  let r := rawOf op d
  match src with
  | .sq n => fetchEff n (.ok [r]) s
  | .svc => svcDescEff r s
  | .tunnel =>
    let (x, s) := takeFree s
    serveTunnel s.norrak.position (BitVec.ofNat 16 x) [r] s

/-- R123: SVC_COMPLETION_READ: a whole frame that reads the oldest completion. -/
def svcCplFrameEff (s : State) : State := if svcUp s then frameEnd (svcCplReadEff (frameBegin s)) else s

/-! ### The rows that write one register -/

/-- TIME_XSNAP: 1 written to TIME_CTRL.xsnap; the other fields of the register are the host's to repeat. -/
def xsnapWriteEff (path : Path) (s : State) : State := pathGate path xsnapEff s

/-- RING_ENABLE: a write of a ring's CFG register. -/
def ringEnableEff (path : Path) (r : Ring) (value : Word) (s : State) : State := pathGate path (ringCfgWrite r value.toNat) s

/-- TIME_DISCIPLINE_WRITE: a write of TIME_Dn_CFG. -/
def disciplineViaEff (path : Path) (d : Dom) (value : Word) (s : State) : State := pathGate path (disciplineWriteEff d value) s

/-- R500: LIFE_REQ: the service port's write of the lifecycle request. -/
def lifeReqViaEff (value : Word) (s : State) : State := svcGate (lifeReqEff value.toNat) s

/-- R459: FB_CONFIRM, through the service port. -/
def fbConfirmViaEff (value : Word) (s : State) : State := svcGate (fbConfirmEff value.toNat) s

end Sys2Proof.Machine
end

