-- ==== Sys2Proof/Machine/Run.lean ====
section
/-!
DEFINITION. What surrounds the effect of every command (R20, R42): the time since the previous command passes, the
command has its effect, what follows at once from the state it leaves is settled, and upd_seq fields rise (R114). Every
meaning is one of the runners here over an effect of its chapter.
-/

namespace Sys2Proof.Machine

/-- R42, R114: the time since the previous command passes; what that command drove out is over. -/
def begin (dt : Nat) (s : State) : State := bumpAmong timeKeys s (tick dt { s with out := [] })

/-- R433: the check units on the device's writes of host buffers. -/
def tapBuffers (s : State) : State :=
  s.out.foldl (fun s o => match o with
    | .buffer _ data => chkObserve 1 0 0 data s
    | _ => s) s

/-- What follows at once: native values for Quire (R412), wraps that are no half of a skip (R261), a thinning (R172), the park move and the
orphan policy (R495, R105), the loss of MOTION (R467), waiting edges and PPS_OUT (R63, R66), messages whose mask is gone (R101), tunnels to
a member that is no longer heard (R384) and FAULT_N (R468). -/
def settle (s : State) : State :=
  settleFaultN (settleTunnels (sendPending (settlePlacers (motionSettle (orphanSettle (parkSettle (thinSettle (wrapSettle (noteNative (tapBuffers s))))))))))

/-- How a command whose effect found the state `s` closes: what follows is settled, and upd_seq fields rise. -/
def closing (s t : State) : State := bumpSeqs s (settle t)

/-- A command: while the chip is held in reset, only time passes (R486). -/
def after (dt : Nat) (eff : State → State) (s : State) : State :=
  if s.life.inReset then begin dt s else closing (begin dt s) (eff (begin dt s))

/-- A command that begins or ends a chip reset, or acts in one: upd_seq restarts at 0 with everything else. -/
def afterResetCmd (dt : Nat) (eff : State → State) (s : State) : State := eff (begin dt s)

/-- R104, R114: the upd_seq fields of the HOST block restart at 0 with it. -/
def dropHostSeqs (s : State) : State :=
  { s with seqs := s.seqs.filter (fun c => !(decide (0x1000 ≤ c.1) && decide (c.1 < 0x2000))) }

/-- A command that resets the HOST region where `did` says so. -/
def afterHostCmd (dt : Nat) (did : State → Bool) (eff : State → State) (s : State) : State :=
  let t := after dt eff s
  if did (begin dt s) && !s.life.inReset then dropHostSeqs t else t

/-- The outcome of a command that completes. -/
def run (dt : Nat) (s : State) (eff : State → State) : Host.Outcome State Fault Refusal := .next (after dt eff s)

def runReset (dt : Nat) (s : State) (eff : State → State) : Host.Outcome State Fault Refusal := .next (afterResetCmd dt eff s)

def runHost (dt : Nat) (s : State) (did : State → Bool) (eff : State → State) : Host.Outcome State Fault Refusal :=
  .next (afterHostCmd dt did eff s)

/-- A lane operation whose operand the manual gives no effect to: it stops where the lane runs a job. -/
def runOr (dt : Nat) (s : State) (bad : State → Bool) (why : Fault) (eff : State → State) : Host.Outcome State Fault Refusal :=
  if !s.life.inReset && bad (begin dt s) then .fault why else .next (after dt eff s)

end Sys2Proof.Machine
end

