-- ==== Sys2Proof/Machine/ExecChip.lean ====
section
/-!
DEFINITION. The meanings of the commands of bring-up, power, chip, time base and domains (01, 02, 19, 20): each runs the effect that its chapter gives it.
-/

namespace Sys2Proof.Machine

/-- R486: CHIP_RESET. -/
def execChipReset (dt : Nat) (kind : ResetKind) (resetNHigh : Bool) (strap : Bool) (badRecords : List (Fin 64)) (s : State) : Host.Outcome State Fault Refusal :=
  runReset dt s (chipResetEff kind resetNHigh strap badRecords)

/-- R487: CLEARING_DONE. -/
def execClearingDone (dt : Nat) (s : State) : Host.Outcome State Fault Refusal :=
  run dt s clearingDoneEff

/-- R488: REFERENCE_LOCK. -/
def execReferenceLock (dt : Nat) (s : State) : Host.Outcome State Fault Refusal :=
  run dt s refLockEff

/-- R443: FB_STARTUP_SELFTEST. -/
def execFbStartupSelftest (dt : Nat) (pass : Bool) (s : State) : Host.Outcome State Fault Refusal :=
  run dt s (startupSelftestEff pass)

/-- R488: UNDERSTORY_START. -/
def execUnderstoryStart (dt : Nat) (failedLanes : BitVec 9) (failedCells : List BistCell) (s : State) : Host.Outcome State Fault Refusal :=
  run dt s (understoryEff failedLanes failedCells)

/-- R489: BIST_END. -/
def execBistEnd (dt : Nat) (failedLanes : BitVec 9) (failedCells : List BistCell) (lost : Option (Byte × Byte)) (s : State) : Host.Outcome State Fault Refusal :=
  run dt s (bistEndEff failedLanes failedCells lost)

/-- R506: POWER_FAIL. -/
def execPowerFail (dt : Nat) (vin : BitVec 16) (s : State) : Host.Outcome State Fault Refusal :=
  run dt s (powerFailEff vin.toNat)

/-- R506: POWER_RECOVERY_RESET. -/
def execPowerRecoveryReset (dt : Nat) (strap : Bool) (badRecords : List (Fin 64)) (s : State) : Host.Outcome State Fault Refusal :=
  runReset dt s (powerRecoveryEff strap badRecords)

/-- R514: VIN_LOW. -/
def execVinLow (dt : Nat) (vin : BitVec 16) (s : State) : Host.Outcome State Fault Refusal :=
  run dt s (vinLowEff vin.toNat)

/-- R483: THERMAL. -/
def execThermal (dt : Nat) (tj : Byte) (s : State) : Host.Outcome State Fault Refusal :=
  run dt s (thermalEff tj.toInt)

/-- R467: THERMAL_LIMIT. -/
def execThermalLimit (dt : Nat) (tj : Byte) (s : State) : Host.Outcome State Fault Refusal :=
  run dt s (thermalLimitEff tj.toInt)

/-- R467: CORE_RAIL. -/
def execCoreRail (dt : Nat) (rail : Byte) (mv : BitVec 16) (s : State) : Host.Outcome State Fault Refusal :=
  run dt s (coreRailEff rail mv.toNat)

/-- R36: AUDIT_SNAP. -/
def execAuditSnap (dt : Nat) (path : Path) (s : State) : Host.Outcome State Fault Refusal :=
  run dt s (pathGate path auditSnapEff)

/-- R38: AUDIT_SNAP_DONE. -/
def execAuditSnapDone (dt : Nat) (s : State) : Host.Outcome State Fault Refusal :=
  run dt s auditDoneEff

/-- R43: DLINE_CALIBRATION. -/
def execDlineCalibration (dt : Nat) (taps : Byte) (inRange : Bool) (s : State) : Host.Outcome State Fault Refusal :=
  run dt s (dlineEff taps inRange)

/-- R44: XTAL_FAULT. -/
def execXtalFault (dt : Nat) (ratio : Word) (s : State) : Host.Outcome State Fault Refusal :=
  run dt s (xtalFaultEff ratio.toNat)

/-- R44: REF_UNLOCK. -/
def execRefUnlock (dt : Nat) (s : State) : Host.Outcome State Fault Refusal :=
  run dt s refUnlockEff

/-- R540: DOMAIN_MASTER_UPDATE. -/
def execDomainMasterUpdate (dt : Nat) (dom : Dom) (master : T64) (s : State) : Host.Outcome State Fault Refusal :=
  run dt s (masterUpdateEff dom master)

/-- R51: HOLDOVER_ENTRY. -/
def execHoldoverEntry (dt : Nat) (dom : Dom) (s : State) : Host.Outcome State Fault Refusal :=
  run dt s (holdoverEff dom)

/-- R51: HOLDOVER_LIMIT. -/
def execHoldoverLimit (dt : Nat) (dom : Dom) (s : State) : Host.Outcome State Fault Refusal :=
  run dt s (holdoverLimitEff dom)

/-- R69: SLEW_DONE. -/
def execSlewDone (dt : Nat) (dom : Dom) (s : State) : Host.Outcome State Fault Refusal :=
  run dt s (slewDoneEff dom)

/-- R50: TIME_DISCIPLINE_WRITE. -/
def execTimeDisciplineWrite (dt : Nat) (path : Path) (dom : Dom) (value : Word) (s : State) : Host.Outcome State Fault Refusal :=
  run dt s (disciplineViaEff path dom value)

/-- R56: TIME_XSNAP. -/
def execTimeXsnap (dt : Nat) (path : Path) (s : State) : Host.Outcome State Fault Refusal :=
  run dt s (xsnapWriteEff path)

/-- R56: XSNAP_TAKEN. -/
def execXsnapTaken (dt : Nat) (s : State) : Host.Outcome State Fault Refusal :=
  run dt s xsnapTakenEff

/-- R61: PLACER_EDGE. -/
def execPlacerEdge (dt : Nat) (placer : Fin 12) (s : State) : Host.Outcome State Fault Refusal :=
  run dt s (placerEdgeEff placer)

/-- R66: PPS_PULSE. -/
def execPpsPulse (dt : Nat) (s : State) : Host.Outcome State Fault Refusal :=
  run dt s ppsEff

/-- R68: TIME_SET_APPLY. -/
def execTimeSetApply (dt : Nat) (dom : Dom) (s : State) : Host.Outcome State Fault Refusal :=
  run dt s (timeSetApplyEff dom)

/-- R69: TIME_SLEW_APPLY. -/
def execTimeSlewApply (dt : Nat) (dom : Dom) (s : State) : Host.Outcome State Fault Refusal :=
  run dt s (timeSlewApplyEff dom)

/-- R486: RESET_N_RELEASE. -/
def execResetNRelease (dt : Nat) (strap : Bool) (badRecords : List (Fin 64)) (s : State) : Host.Outcome State Fault Refusal :=
  runReset dt s (resetReleaseEff strap badRecords)

/-- R516: POWER_GOOD_FALL. -/
def execPowerGoodFall (dt : Nat) (railLost : Bool) (s : State) : Host.Outcome State Fault Refusal :=
  runReset dt s (powerFallEff railLost)

/-- R514: JUNCTION_BELOW_RANGE. -/
def execJunctionBelowRange (dt : Nat) (tj : Byte) (s : State) : Host.Outcome State Fault Refusal :=
  run dt s (junctionLowEff tj.toInt)

end Sys2Proof.Machine
end

