-- ==== Sys2Proof/Machine/ExecDesc.lean ====
section
/-!
DEFINITION. The meanings of the commands of the descriptors (03 R82–R100) and the lifecycle requests (19): each runs the effect that its chapter gives it.
-/

namespace Sys2Proof.Machine

/-- The descriptor of a row that names one command of its opcode: the command byte of the payload. -/
def withSub (off v : Nat) (d : Desc) : Desc := { d with payload := forceByte d.payload off v }

/-- R99: FENCE_WAIT. -/
def execFenceWait (dt : Nat) (src : Source) (d : Desc) (s : State) : Host.Outcome State Fault Refusal :=
  run dt s (descEff 0x01 src (withSub 17 0 d))

/-- R99: FENCE_PURGE. -/
def execFencePurge (dt : Nat) (src : Source) (d : Desc) (s : State) : Host.Outcome State Fault Refusal :=
  run dt s (descEff 0x01 src (withSub 17 1 d))

/-- R189: SLOT_CONFIG. -/
def execSlotConfig (dt : Nat) (src : Source) (d : Desc) (s : State) : Host.Outcome State Fault Refusal :=
  run dt s (descEff 0x10 src d)

/-- R197: BANK_LOAD. -/
def execBankLoad (dt : Nat) (src : Source) (d : Desc) (s : State) : Host.Outcome State Fault Refusal :=
  run dt s (descEff 0x11 src d)

/-- R199: BANK_SWAP. -/
def execBankSwap (dt : Nat) (src : Source) (d : Desc) (s : State) : Host.Outcome State Fault Refusal :=
  run dt s (descEff 0x12 src d)

/-- R206: MODE_SET. -/
def execModeSet (dt : Nat) (src : Source) (d : Desc) (s : State) : Host.Outcome State Fault Refusal :=
  run dt s (descEff 0x13 src d)

/-- R223: MOVE_ABS. -/
def execMoveAbs (dt : Nat) (src : Source) (d : Desc) (s : State) : Host.Outcome State Fault Refusal :=
  run dt s (descEff 0x20 src d)

/-- R223: MOVE_REL. -/
def execMoveRel (dt : Nat) (src : Source) (d : Desc) (s : State) : Host.Outcome State Fault Refusal :=
  run dt s (descEff 0x21 src d)

/-- R223: JOG. -/
def execJog (dt : Nat) (src : Source) (d : Desc) (s : State) : Host.Outcome State Fault Refusal :=
  run dt s (descEff 0x22 src d)

/-- R228: SOFT_START. -/
def execSoftStart (dt : Nat) (src : Source) (d : Desc) (s : State) : Host.Outcome State Fault Refusal :=
  run dt s (descEff 0x23 src d)

/-- R225: STOP. -/
def execStop (dt : Nat) (src : Source) (d : Desc) (s : State) : Host.Outcome State Fault Refusal :=
  run dt s (descEff 0x24 src d)

/-- R222: LIMITS_SET. -/
def execLimitsSet (dt : Nat) (src : Source) (d : Desc) (s : State) : Host.Outcome State Fault Refusal :=
  run dt s (descEff 0x25 src d)

/-- R231: PATH_SEGMENT. -/
def execPathSegment (dt : Nat) (src : Source) (d : Desc) (s : State) : Host.Outcome State Fault Refusal :=
  run dt s (descEff 0x28 src d)

/-- R230: PATH_GROUP_DEFINE. -/
def execPathGroupDefine (dt : Nat) (src : Source) (d : Desc) (s : State) : Host.Outcome State Fault Refusal :=
  run dt s (descEff 0x29 src (withSub 16 0 d))

/-- R230: PATH_GROUP_START. -/
def execPathGroupStart (dt : Nat) (src : Source) (d : Desc) (s : State) : Host.Outcome State Fault Refusal :=
  run dt s (descEff 0x29 src (withSub 16 1 d))

/-- R230: PATH_GROUP_HOLD. -/
def execPathGroupHold (dt : Nat) (src : Source) (d : Desc) (s : State) : Host.Outcome State Fault Refusal :=
  run dt s (descEff 0x29 src (withSub 16 2 d))

/-- R230: PATH_GROUP_RESUME. -/
def execPathGroupResume (dt : Nat) (src : Source) (d : Desc) (s : State) : Host.Outcome State Fault Refusal :=
  run dt s (descEff 0x29 src (withSub 16 3 d))

/-- R230: PATH_GROUP_ABORT. -/
def execPathGroupAbort (dt : Nat) (src : Source) (d : Desc) (s : State) : Host.Outcome State Fault Refusal :=
  run dt s (descEff 0x29 src (withSub 16 4 d))

/-- R230: PATH_GROUP_RELEASE. -/
def execPathGroupRelease (dt : Nat) (src : Source) (d : Desc) (s : State) : Host.Outcome State Fault Refusal :=
  run dt s (descEff 0x29 src (withSub 16 5 d))

/-- R238: GEAR_SET. -/
def execGearSet (dt : Nat) (src : Source) (d : Desc) (s : State) : Host.Outcome State Fault Refusal :=
  run dt s (descEff 0x30 src d)

/-- R240: CAM_SET. -/
def execCamSet (dt : Nat) (src : Source) (d : Desc) (s : State) : Host.Outcome State Fault Refusal :=
  run dt s (descEff 0x31 src d)

/-- R245: STEP_CONFIG. -/
def execStepConfig (dt : Nat) (src : Source) (d : Desc) (s : State) : Host.Outcome State Fault Refusal :=
  run dt s (descEff 0x38 src d)

/-- R247: HOME_STALL. -/
def execHomeStall (dt : Nat) (src : Source) (d : Desc) (s : State) : Host.Outcome State Fault Refusal :=
  run dt s (descEff 0x39 src d)

/-- R283: COMPARE_ARM. -/
def execCompareArm (dt : Nat) (src : Source) (d : Desc) (s : State) : Host.Outcome State Fault Refusal :=
  run dt s (descEff 0x40 src d)

/-- R289: LATCH_ARM. -/
def execLatchArm (dt : Nat) (src : Source) (d : Desc) (s : State) : Host.Outcome State Fault Refusal :=
  run dt s (descEff 0x41 src d)

/-- R294: LATTICE_LOAD. -/
def execLatticeLoad (dt : Nat) (src : Source) (d : Desc) (s : State) : Host.Outcome State Fault Refusal :=
  run dt s (descEff 0x42 src d)

/-- R300: LATTICE_RUN_PASS. -/
def execLatticeRunPass (dt : Nat) (src : Source) (d : Desc) (s : State) : Host.Outcome State Fault Refusal :=
  run dt s (descEff 0x43 src (withSub 16 0 d))

/-- R300: LATTICE_STOP. -/
def execLatticeStop (dt : Nat) (src : Source) (d : Desc) (s : State) : Host.Outcome State Fault Refusal :=
  run dt s (descEff 0x43 src (withSub 16 1 d))

/-- R300: LATTICE_UNLOAD. -/
def execLatticeUnload (dt : Nat) (src : Source) (d : Desc) (s : State) : Host.Outcome State Fault Refusal :=
  run dt s (descEff 0x43 src (withSub 16 2 d))

/-- R166: GLADE_LEASE. -/
def execGladeLease (dt : Nat) (src : Source) (d : Desc) (s : State) : Host.Outcome State Fault Refusal :=
  run dt s (descEff 0x50 src d)

/-- R169: GLADE_RELEASE. -/
def execGladeRelease (dt : Nat) (src : Source) (d : Desc) (s : State) : Host.Outcome State Fault Refusal :=
  run dt s (descEff 0x51 src d)

/-- R171: GLADE_THIN. -/
def execGladeThin (dt : Nat) (src : Source) (d : Desc) (s : State) : Host.Outcome State Fault Refusal :=
  run dt s (descEff 0x52 src d)

/-- R179: FOLIO_WRITE. -/
def execFolioWrite (dt : Nat) (src : Source) (d : Desc) (s : State) : Host.Outcome State Fault Refusal :=
  run dt s (descEff 0x58 src d)

/-- R181: FOLIO_READ. -/
def execFolioRead (dt : Nat) (src : Source) (d : Desc) (s : State) : Host.Outcome State Fault Refusal :=
  run dt s (descEff 0x59 src d)

/-- R137: PROGRAM_LOAD. -/
def execProgramLoad (dt : Nat) (src : Source) (d : Desc) (s : State) : Host.Outcome State Fault Refusal :=
  run dt s (descEff 0x5C src d)

/-- R353: POWER_SET. -/
def execPowerSet (dt : Nat) (src : Source) (d : Desc) (s : State) : Host.Outcome State Fault Refusal :=
  run dt s (descEff 0x60 src d)

/-- R358: POWER_FORCE. -/
def execPowerForce (dt : Nat) (src : Source) (d : Desc) (s : State) : Host.Outcome State Fault Refusal :=
  run dt s (descEff 0x61 src d)

/-- R335: SIGLINK_XFER. -/
def execSiglinkXfer (dt : Nat) (src : Source) (d : Desc) (s : State) : Host.Outcome State Fault Refusal :=
  run dt s (descEff 0x68 src d)

/-- R329: ENDPOINT_BIND. -/
def execEndpointBind (dt : Nat) (src : Source) (d : Desc) (s : State) : Host.Outcome State Fault Refusal :=
  run dt s (descEff 0x69 src (withSub 16 0 d))

/-- R329: ENDPOINT_UNBIND. -/
def execEndpointUnbind (dt : Nat) (src : Source) (d : Desc) (s : State) : Host.Outcome State Fault Refusal :=
  run dt s (descEff 0x69 src (withSub 16 1 d))

/-- R392: CAN_SEND. -/
def execCanSend (dt : Nat) (src : Source) (d : Desc) (s : State) : Host.Outcome State Fault Refusal :=
  run dt s (descEff 0x70 src d)

/-- R395: CAN_CANCEL. -/
def execCanCancel (dt : Nat) (src : Source) (d : Desc) (s : State) : Host.Outcome State Fault Refusal :=
  run dt s (descEff 0x71 src d)

/-- R401: CAN_RECOVER. -/
def execCanRecover (dt : Nat) (src : Source) (d : Desc) (s : State) : Host.Outcome State Fault Refusal :=
  run dt s (descEff 0x72 src d)

/-- R371: RING_MEMBERS. -/
def execRingMembers (dt : Nat) (src : Source) (d : Desc) (s : State) : Host.Outcome State Fault Refusal :=
  run dt s (descEff 0x78 src d)

/-- R379: PUBLISH_START. -/
def execPublishStart (dt : Nat) (src : Source) (d : Desc) (s : State) : Host.Outcome State Fault Refusal :=
  run dt s (descEff 0x79 src (withSub 16 0 d))

/-- R379: PUBLISH_END. -/
def execPublishEnd (dt : Nat) (src : Source) (d : Desc) (s : State) : Host.Outcome State Fault Refusal :=
  run dt s (descEff 0x79 src (withSub 16 1 d))

/-- R383: TUNNEL. -/
def execTunnel (dt : Nat) (src : Source) (d : Desc) (s : State) : Host.Outcome State Fault Refusal :=
  run dt s (descEff 0x7A src d)

/-- R424: QUIRE_ARM. -/
def execQuireArm (dt : Nat) (src : Source) (d : Desc) (s : State) : Host.Outcome State Fault Refusal :=
  run dt s (descEff 0x80 src (withSub 16 0 d))

/-- R424: QUIRE_FORCE_TRIGGER. -/
def execQuireForceTrigger (dt : Nat) (src : Source) (d : Desc) (s : State) : Host.Outcome State Fault Refusal :=
  run dt s (descEff 0x80 src (withSub 16 1 d))

/-- R424: QUIRE_STOP. -/
def execQuireStop (dt : Nat) (src : Source) (d : Desc) (s : State) : Host.Outcome State Fault Refusal :=
  run dt s (descEff 0x80 src (withSub 16 2 d))

/-- R424: QUIRE_DISARM. -/
def execQuireDisarm (dt : Nat) (src : Source) (d : Desc) (s : State) : Host.Outcome State Fault Refusal :=
  run dt s (descEff 0x80 src (withSub 16 3 d))

/-- R425: QUIRE_READ. -/
def execQuireRead (dt : Nat) (src : Source) (d : Desc) (s : State) : Host.Outcome State Fault Refusal :=
  run dt s (descEff 0x81 src d)

/-- R437: CHECK_CONTEXT_READ. -/
def execCheckContextRead (dt : Nat) (src : Source) (d : Desc) (s : State) : Host.Outcome State Fault Refusal :=
  run dt s (descEff 0x88 src (withSub 16 0 d))

/-- R437: CHECK_CONTEXT_WRITE. -/
def execCheckContextWrite (dt : Nat) (src : Source) (d : Desc) (s : State) : Host.Outcome State Fault Refusal :=
  run dt s (descEff 0x88 src (withSub 16 1 d))

/-- R437: CHECK_CONTEXT_EXCHANGE. -/
def execCheckContextExchange (dt : Nat) (src : Source) (d : Desc) (s : State) : Host.Outcome State Fault Refusal :=
  run dt s (descEff 0x88 src (withSub 16 2 d))

/-- R68: TIME_SET. -/
def execTimeSet (dt : Nat) (src : Source) (d : Desc) (s : State) : Host.Outcome State Fault Refusal :=
  run dt s (descEff 0x90 src d)

/-- R69: TIME_SLEW. -/
def execTimeSlew (dt : Nat) (src : Source) (d : Desc) (s : State) : Host.Outcome State Fault Refusal :=
  run dt s (descEff 0x91 src d)

/-- R505: TALLY_READ. -/
def execTallyRead (dt : Nat) (src : Source) (d : Desc) (s : State) : Host.Outcome State Fault Refusal :=
  run dt s (descEff 0xA0 src d)

/-- R509: CALENDAR_SET. -/
def execCalendarSet (dt : Nat) (src : Source) (d : Desc) (s : State) : Host.Outcome State Fault Refusal :=
  run dt s (descEff 0xA1 src d)

/-- R458: SAFETY_RECORD_WRITE. -/
def execSafetyRecordWrite (dt : Nat) (src : Source) (d : Desc) (s : State) : Host.Outcome State Fault Refusal :=
  run dt s (descEff 0xB0 src d)

/-- R459: SAFETY_CONFIRM. -/
def execSafetyConfirm (dt : Nat) (src : Source) (d : Desc) (s : State) : Host.Outcome State Fault Refusal :=
  run dt s (descEff 0xB1 src d)

/-- R499: LIFECYCLE_CHANGE. -/
def execLifecycleChange (dt : Nat) (src : Source) (d : Desc) (s : State) : Host.Outcome State Fault Refusal :=
  run dt s (descEff 0xF0 src d)

/-- R493: PARK_RECORD_WRITE. -/
def execParkRecordWrite (dt : Nat) (src : Source) (d : Desc) (s : State) : Host.Outcome State Fault Refusal :=
  run dt s (descEff 0xF1 src d)

/-- R501: LIFE_REQ. -/
def execLifeReq (dt : Nat) (value : Word) (s : State) : Host.Outcome State Fault Refusal :=
  run dt s (lifeReqViaEff value)

/-- R500: LIFECYCLE_COMMIT. -/
def execLifecycleCommit (dt : Nat) (s : State) : Host.Outcome State Fault Refusal :=
  run dt s lifecycleCommitEff

end Sys2Proof.Machine
end

