-- ==== Sys2Proof/Machine/ExecField.lean ====
section
/-!
DEFINITION. The meanings of the commands of CAN FD, Quire and the check units (14–16): each runs the effect that its chapter gives it.
-/

namespace Sys2Proof.Machine

/-- R393: CAN_ELIGIBLE. -/
def execCanEligible (dt : Nat) (c : Fin 2) (s : State) : Host.Outcome State Fault Refusal :=
  run dt s (canEligibleEff c)

/-- R393: CAN_SOF. -/
def execCanSof (dt : Nat) (c : Fin 2) (s : State) : Host.Outcome State Fault Refusal :=
  run dt s (canSofEff c)

/-- R394: CAN_TX_DONE. -/
def execCanTxDone (dt : Nat) (c : Fin 2) (tdc : Option (BitVec 8)) (s : State) : Host.Outcome State Fault Refusal :=
  run dt s (canTxDoneEff c tdc)

/-- R397: CAN_RX_FRAME. -/
def execCanRxFrame (dt : Nat) (c : Fin 2) (f : CanFrame) (sofAge : Nat) (s : State) : Host.Outcome State Fault Refusal :=
  run dt s (canRxFrameEff c f sofAge)

/-- R400: CAN_ERROR_FRAME. -/
def execCanErrorFrame (dt : Nat) (c : Fin 2) (e : CanErr) (dataPhase : Bool) (tecInc : Nat) (recInc : Nat) (s : State) : Host.Outcome State Fault Refusal :=
  run dt s (canErrorFrameEff c e dataPhase tecInc recInc)

/-- R401: CAN_RECOVERY_DONE. -/
def execCanRecoveryDone (dt : Nat) (c : Fin 2) (s : State) : Host.Outcome State Fault Refusal :=
  run dt s (canRecoveryDoneEff c)

/-- R403: REF_MESSAGE_SEND. -/
def execRefMessageSend (dt : Nat) (c : Fin 2) (s : State) : Host.Outcome State Fault Refusal :=
  run dt s (refMessageSendEff c)

/-- R404: REF_MESSAGE_RX. -/
def execRefMessageRx (dt : Nat) (c : Fin 2) (count : BitVec 6) (rank : BitVec 3) (prevSof : BitVec 48) (s : State) : Host.Outcome State Fault Refusal :=
  run dt s (refMessageRxEff c count rank prevSof)

/-- R405: CAN_WINDOW_OPEN. -/
def execCanWindowOpen (dt : Nat) (c : Fin 2) (w : Fin 16) (s : State) : Host.Outcome State Fault Refusal :=
  run dt s (canWindowOpenEff c w)

/-- R405: CAN_WINDOW_CLOSE. -/
def execCanWindowClose (dt : Nat) (c : Fin 2) (w : Fin 16) (s : State) : Host.Outcome State Fault Refusal :=
  run dt s (canWindowCloseEff c w)

/-- R416: QUIRE_SAMPLE. -/
def execQuireSample (dt : Nat) (s : State) (lo : Ecc := .clean) (hi : Ecc := .clean) : Host.Outcome State Fault Refusal :=
  run dt s (quireSampleEff lo hi)

/-- R426: STREAM_CHUNK_TIMER. -/
def execStreamChunkTimer (dt : Nat) (ring : Fin 4) (s : State) : Host.Outcome State Fault Refusal :=
  run dt s (streamChunkEff ring)

/-- R436: CHK_ENABLE. -/
def execChkEnable (dt : Nat) (path : Path) (u : Fin 8) (value : Word) (s : State) : Host.Outcome State Fault Refusal :=
  run dt s (pathGate path (chkRegWrite u 0 value.toNat))

/-- R404: CAN_CYCLE_START. -/
def execCanCycleStart (dt : Nat) (c : Fin 2) (s : State) : Host.Outcome State Fault Refusal :=
  run dt s (canCycleStartEff c)

end Sys2Proof.Machine
end

