-- ==== Sys2Proof/Machine/ExecHost.lean ====
section
/-!
DEFINITION. The meanings of the commands of the host link, the rings, the set-up registers and the service port (03, 04): each runs the effect that its chapter gives it.
-/

namespace Sys2Proof.Machine

/-- R104: the link has been lost for 2 ms. -/
def linkLossDue (s : State) : Bool :=
  match s.host.downAt with
  | some t => decide (t + 2 * msLsb ≤ s.time.now)
  | none => false

/-- R80: SQ_TAIL. -/
def execSqTail (dt : Nat) (n : Fin 8) (value : Word) (s : State) : Host.Outcome State Fault Refusal :=
  run dt s (sqTailEff n value)

/-- R80: CQ_HEAD. -/
def execCqHead (dt : Nat) (n : Fin 8) (value : Word) (s : State) : Host.Outcome State Fault Refusal :=
  run dt s (cqHeadEff n value)

/-- R80: EVQ_HEAD. -/
def execEvqHead (dt : Nat) (value : Word) (s : State) : Host.Outcome State Fault Refusal :=
  run dt s (evqHeadEff value)

/-- R80: STR_HEAD. -/
def execStrHead (dt : Nat) (n : Fin 4) (value : Word) (s : State) : Host.Outcome State Fault Refusal :=
  run dt s (strHeadEff n value)

/-- R103: HEARTBEAT. -/
def execHeartbeat (dt : Nat) (s : State) : Host.Outcome State Fault Refusal :=
  run dt s heartbeatEff

/-- R103: HB_LOST. -/
def execHbLost (dt : Nat) (s : State) : Host.Outcome State Fault Refusal :=
  run dt s hbLostEff

/-- R85: DESCRIPTOR_FETCH. -/
def execDescriptorFetch (dt : Nat) (n : Fin 8) (r : FetchResult) (s : State) : Host.Outcome State Fault Refusal :=
  run dt s (fetchEff n r)

/-- R93: COMPLETION_WRITE. -/
def execCompletionWrite (dt : Nat) (r : WriteResult) (s : State) : Host.Outcome State Fault Refusal :=
  run dt s (completionEff r)

/-- R106: HELD_COMPLETION_DELIVERY. -/
def execHeldCompletionDelivery (dt : Nat) (r : WriteResult) (s : State) : Host.Outcome State Fault Refusal :=
  run dt s (heldEff r)

/-- R101: COALESCE_TIMER. -/
def execCoalesceTimer (dt : Nat) (ring : OutRing) (s : State) : Host.Outcome State Fault Refusal :=
  run dt s (coalesceEff ring)

/-- R102: PTM_DIALOGUE. -/
def execPtmDialogue (dt : Nat) (masterNs : Option T64) (s : State) : Host.Outcome State Fault Refusal :=
  run dt s (ptmEff masterNs)

/-- R104: HOST_REGION_RESET. -/
def execHostRegionReset (dt : Nat) (kind : HostResetKind) (s : State) : Host.Outcome State Fault Refusal :=
  runHost dt s (fun _ => true) (hostResetEff kind)

/-- R104: LINK_LOSS. -/
def execLinkLoss (dt : Nat) (s : State) : Host.Outcome State Fault Refusal :=
  runHost dt s linkLossDue linkLossEff

/-- R104: PCIE_LINK_UP. -/
def execPcieLinkUp (dt : Nat) (speed : BitVec 2) (s : State) : Host.Outcome State Fault Refusal :=
  run dt s (linkUpEff speed)

/-- R105: ORPHAN_ACK. -/
def execOrphanAck (dt : Nat) (path : Path) (s : State) : Host.Outcome State Fault Refusal :=
  run dt s (pathGate path orphanAckEff)

/-- R108: RING_ENABLE. -/
def execRingEnable (dt : Nat) (path : Path) (ring : Ring) (value : Word) (s : State) : Host.Outcome State Fault Refusal :=
  run dt s (ringEnableEff path ring value)

/-- R112: REGISTER_WRITE. -/
def execRegisterWrite (dt : Nat) (path : Path) (addr : BitVec 16) (value : Word) (be : BitVec 4) (s : State) : Host.Outcome State Fault Refusal :=
  run dt s (regWriteEff path addr value be)

/-- R113: RS_LOW_READ. -/
def execRsLowRead (dt : Nat) (path : Path) (addr : BitVec 16) (s : State) : Host.Outcome State Fault Refusal :=
  run dt s (rsLowEff path addr)

/-- R159: PSW_DATA_READ. -/
def execPswDataRead (dt : Nat) (path : Path) (s : State) : Host.Outcome State Fault Refusal :=
  run dt s (pswViaEff path)

/-- R119: SVC_WRITE. -/
def execSvcWrite (dt : Nat) (addr : BitVec 24) (data : List Word) (s : State) : Host.Outcome State Fault Refusal :=
  run dt s (svcWriteEff addr data)

/-- R119: SVC_READ. -/
def execSvcRead (dt : Nat) (addr : BitVec 24) (words : Nat) (s : State) : Host.Outcome State Fault Refusal :=
  run dt s (svcReadEff addr words)

/-- R119: SVC_STATUS. -/
def execSvcStatus (dt : Nat) (s : State) : Host.Outcome State Fault Refusal :=
  run dt s svcStatusEff

/-- R119: SVC_IDENT. -/
def execSvcIdent (dt : Nat) (s : State) : Host.Outcome State Fault Refusal :=
  run dt s svcIdentEff

/-- R122: SVC_FRAME_ABORT. -/
def execSvcFrameAbort (dt : Nat) (write : Bool) (addr : BitVec 24) (data : List Word) (bits : Fin 32) (part : Word) (s : State) : Host.Outcome State Fault Refusal :=
  run dt s (svcAbortEff write addr data bits part)

/-- R123: SVC_DESCRIPTOR_SUBMIT. -/
def execSvcDescriptorSubmit (dt : Nat) (d : RawDesc) (s : State) : Host.Outcome State Fault Refusal :=
  run dt s (svcDescEff d)

/-- R123: SVC_COMPLETION_READ. -/
def execSvcCompletionRead (dt : Nat) (s : State) : Host.Outcome State Fault Refusal :=
  run dt s svcCplFrameEff

/-- R104: PCIE_LINK_DOWN. -/
def execPcieLinkDown (dt : Nat) (s : State) : Host.Outcome State Fault Refusal :=
  run dt s linkDownEff

/-- R119: SVC_UNKNOWN_COMMAND. -/
def execSvcUnknownCommand (dt : Nat) (s : State) : Host.Outcome State Fault Refusal :=
  run dt s svcUnknownEff

end Sys2Proof.Machine
end

