-- ==== Sys2Proof/Machine/ExecLane.lean ====
section
/-!
DEFINITION. The meanings of the commands of lanes and jobs (05): each runs the effect that its chapter gives it.
-/

namespace Sys2Proof.Machine

/-- A lane that runs a job fetches a word and can read it. -/
def laneStops (l : LaneOp) (w : Nat) (s : State) : Bool := l.fetch != .bad && (laneFetch s l w).isSome

/-- R100, R139: NOP, the descriptor and the lane operation. -/
def execNop (dt : Nat) (f : NopForm) (s : State) : Host.Outcome State Fault Refusal :=
  run dt s (match f with
    | .descriptor src d => descEff 0x02 src d
    | .laneOp l => laneNopEff l)

/-- R128: LANE_SELFTEST. -/
def execLaneSelftest (dt : Nat) (lane : Fin 9) (failedOp : Option Byte) (s : State) : Host.Outcome State Fault Refusal :=
  run dt s (laneSelftestEff lane failedOp)

/-- R142: JOB_READY. -/
def execJobReady (dt : Nat) (owner : Owner) (sched : Sched) (s : State) : Host.Outcome State Fault Refusal :=
  run dt s (jobReadyEff owner sched)

/-- R15: JOB_GRANT. -/
def execJobGrant (dt : Nat) (s : State) : Host.Outcome State Fault Refusal :=
  run dt s jobGrantEff

/-- R143: END. -/
def execEndLeaf (dt : Nat) (l : LaneOp) (s : State) : Host.Outcome State Fault Refusal :=
  run dt s (endLeafEff l)

/-- R139: RPT. -/
def execRpt (dt : Nat) (l : LaneOp) (count : BitVec 8) (body : BitVec 4) (s : State) : Host.Outcome State Fault Refusal :=
  run dt s (rptEff l count body)

/-- R139: SKIP. -/
def execSkip (dt : Nat) (l : LaneOp) (cond : BitVec 4) (k : BitVec 6) (s : State) : Host.Outcome State Fault Refusal :=
  runOr dt s (fun s => 8 ≤ cond.toNat && laneStops l (skipWord cond k) s) .conditionCode (skipEff l cond k)

/-- R131: LDG. -/
def execLdg (dt : Nat) (l : LaneOp) (a : Fin 16) (p : Fin 4) (mod : BitVec 2) (offset : BitVec 12) (ecc : Ecc) (s : State) : Host.Outcome State Fault Refusal :=
  run dt s (ldgEff l a p mod offset ecc)

/-- R131: STG. -/
def execStg (dt : Nat) (l : LaneOp) (a : Fin 16) (p : Fin 4) (mod : BitVec 2) (offset : BitVec 12) (s : State) : Host.Outcome State Fault Refusal :=
  run dt s (stgEff l a p mod offset)

/-- R139: LDF. -/
def execLdf (dt : Nat) (l : LaneOp) (a : Fin 16) (b : Fin 16) (table : Fin 32) (ecc : Ecc) (s : State) : Host.Outcome State Fault Refusal :=
  run dt s (ldfEff l a b table ecc)

/-- R139: LDI. -/
def execLdi (dt : Nat) (l : LaneOp) (a : Fin 16) (imm : BitVec 22) (s : State) : Host.Outcome State Fault Refusal :=
  run dt s (ldiEff l a imm)

/-- R142: LDIN. -/
def execLdin (dt : Nat) (l : LaneOp) (a : Fin 16) (input : BitVec 4) (s : State) : Host.Outcome State Fault Refusal :=
  run dt s (ldinEff l a input)

/-- R139: OUT. -/
def execOut (dt : Nat) (l : LaneOp) (b : Fin 16) (output : BitVec 3) (s : State) : Host.Outcome State Fault Refusal :=
  run dt s (outEff l b output)

/-- R139: MOV. -/
def execMov (dt : Nat) (l : LaneOp) (a : Fin 16) (b : Fin 16) (s : State) : Host.Outcome State Fault Refusal :=
  run dt s (unaryEff 0x10 (fun x => x) l a b)

/-- R130: ADD. -/
def execAdd (dt : Nat) (l : LaneOp) (a : Fin 16) (b : Fin 16) (c : Fin 16) (s : State) : Host.Outcome State Fault Refusal :=
  run dt s (binaryEff 0x11 0 (fun x y => x + y) l a b c)

/-- R130: SUB. -/
def execSub (dt : Nat) (l : LaneOp) (a : Fin 16) (b : Fin 16) (c : Fin 16) (s : State) : Host.Outcome State Fault Refusal :=
  run dt s (binaryEff 0x12 0 (fun x y => x - y) l a b c)

/-- R139: ABS. -/
def execAbs (dt : Nat) (l : LaneOp) (a : Fin 16) (b : Fin 16) (s : State) : Host.Outcome State Fault Refusal :=
  run dt s (unaryEff 0x13 (fun x => x.natAbs) l a b)

/-- R130: MUL. -/
def execMul (dt : Nat) (l : LaneOp) (a : Fin 16) (b : Fin 16) (c : Fin 16) (round : Bool) (s : State) : Host.Outcome State Fault Refusal :=
  run dt s (mulEff l a b c round)

/-- R139: MIN. -/
def execMin (dt : Nat) (l : LaneOp) (a : Fin 16) (b : Fin 16) (c : Fin 16) (s : State) : Host.Outcome State Fault Refusal :=
  run dt s (binaryEff 0x15 0 (fun x y => min x y) l a b c)

/-- R139: MAX. -/
def execMax (dt : Nat) (l : LaneOp) (a : Fin 16) (b : Fin 16) (c : Fin 16) (s : State) : Host.Outcome State Fault Refusal :=
  run dt s (binaryEff 0x16 0 (fun x y => max x y) l a b c)

/-- R139: CLMP. -/
def execClmp (dt : Nat) (l : LaneOp) (a : Fin 16) (b : Fin 16) (c : Fin 16) (s : State) : Host.Outcome State Fault Refusal :=
  run dt s (clmpEff l a b c)

/-- R139: SHL. -/
def execShl (dt : Nat) (l : LaneOp) (a : Fin 16) (b : Fin 16) (n : BitVec 5) (s : State) : Host.Outcome State Fault Refusal :=
  runOr dt s (fun s => 23 < n.toNat && laneStops l (laneWord 0x18 a b 0 n.toNat) s) .operandRange (shlEff l a b n.toNat)

/-- R139: ASR. -/
def execAsr (dt : Nat) (l : LaneOp) (a : Fin 16) (b : Fin 16) (n : BitVec 5) (s : State) : Host.Outcome State Fault Refusal :=
  run dt s (asrEff l a b n)

/-- R139: CMP. -/
def execCmp (dt : Nat) (l : LaneOp) (b : Fin 16) (c : Fin 16) (s : State) : Host.Outcome State Fault Refusal :=
  run dt s (cmpEff l b c)

/-- R139: SEL. -/
def execSel (dt : Nat) (l : LaneOp) (a : Fin 16) (b : Fin 16) (c : Fin 16) (cond : BitVec 4) (s : State) : Host.Outcome State Fault Refusal :=
  runOr dt s (fun s => 8 ≤ cond.toNat && laneStops l (selWord a b c cond) s) .conditionCode (selEff l a b c cond)

/-- R130: MACZ. -/
def execMacz (dt : Nat) (l : LaneOp) (acc : Fin 2) (b : Fin 16) (c : Fin 16) (e : BitVec 5) (bank : Bool) (s : State) : Host.Outcome State Fault Refusal :=
  run dt s (macEff 0x20 (fun _ y => y) l acc b c e bank)

/-- R130: MAC. -/
def execMac (dt : Nat) (l : LaneOp) (acc : Fin 2) (b : Fin 16) (c : Fin 16) (e : BitVec 5) (bank : Bool) (s : State) : Host.Outcome State Fault Refusal :=
  run dt s (macEff 0x21 (fun x y => x + y) l acc b c e bank)

/-- R130: MSU. -/
def execMsu (dt : Nat) (l : LaneOp) (acc : Fin 2) (b : Fin 16) (c : Fin 16) (e : BitVec 5) (bank : Bool) (s : State) : Host.Outcome State Fault Refusal :=
  run dt s (macEff 0x22 (fun x y => x - y) l acc b c e bank)

/-- R139: ACCADD. -/
def execAccadd (dt : Nat) (l : LaneOp) (acc : Fin 2) (b : Fin 16) (n : BitVec 6) (s : State) : Host.Outcome State Fault Refusal :=
  runOr dt s (fun s => 32 < n.toNat && laneStops l (laneWord 0x23 acc b 0 n.toNat) s) .operandRange (accaddEff l acc b n.toNat)

/-- R130: EXT. -/
def execExt (dt : Nat) (l : LaneOp) (a : Fin 16) (acc : Fin 2) (n : BitVec 6) (round : Bool) (s : State) : Host.Outcome State Fault Refusal :=
  runOr dt s (fun s => 48 < n.toNat && laneStops l (laneWord 0x24 a acc 0 (64 * ofBool round + n.toNat)) s) .operandRange (extEff l a acc n.toNat round)

/-- R139: ACCCLR. -/
def execAccclr (dt : Nat) (l : LaneOp) (acc : Fin 2) (s : State) : Host.Outcome State Fault Refusal :=
  run dt s (accclrEff l acc)

/-- R132: MXS. -/
def execMxs (dt : Nat) (l : LaneOp) (a : Fin 16) (p : Fin 4) (n : BitVec 12) (s : State) : Host.Outcome State Fault Refusal :=
  runOr dt s (fun s => (n == 0 || 256 < n.toNat) && laneStops l (laneWord 0x28 a p 0 n.toNat) s) .operandRange (searchEff 0x28 (fun x y => decide (y < x)) (fun x => x) l a p n.toNat)

/-- R132: MNS. -/
def execMns (dt : Nat) (l : LaneOp) (a : Fin 16) (p : Fin 4) (n : BitVec 12) (s : State) : Host.Outcome State Fault Refusal :=
  runOr dt s (fun s => (n == 0 || 256 < n.toNat) && laneStops l (laneWord 0x29 a p 0 n.toNat) s) .operandRange (searchEff 0x29 (fun x y => decide (x < y)) (fun x => x) l a p n.toNat)

/-- R132: MXA. -/
def execMxa (dt : Nat) (l : LaneOp) (a : Fin 16) (p : Fin 4) (n : BitVec 12) (s : State) : Host.Outcome State Fault Refusal :=
  runOr dt s (fun s => (n == 0 || 256 < n.toNat) && laneStops l (laneWord 0x2A a p 0 n.toNat) s) .operandRange (searchEff 0x2A (fun x y => decide (y < x)) (fun x => x.natAbs) l a p n.toNat)

/-- R139: MIDX. -/
def execMidx (dt : Nat) (l : LaneOp) (a : Fin 16) (s : State) : Host.Outcome State Fault Refusal :=
  run dt s (midxEff l a)

/-- R131: PSET. -/
def execPset (dt : Nat) (l : LaneOp) (p : Fin 4) (x : BitVec 12) (s : State) : Host.Outcome State Fault Refusal :=
  run dt s (genEff 0x30 (fun x g => { g with base := x, idx := 0 }) l p x)

/-- R131: PLEN. -/
def execPlen (dt : Nat) (l : LaneOp) (p : Fin 4) (x : BitVec 12) (s : State) : Host.Outcome State Fault Refusal :=
  run dt s (genEff 0x31 setLength l p x)

/-- R131: PSTEP. -/
def execPstep (dt : Nat) (l : LaneOp) (p : Fin 4) (x : BitVec 12) (s : State) : Host.Outcome State Fault Refusal :=
  run dt s (genEff 0x32 (fun x g => { g with step := x }) l p x)

/-- R136: LEAF. -/
def execLeaf (dt : Nat) (l : LaneOp) (ident : Byte) (words : BitVec 12) (s : State) : Host.Outcome State Fault Refusal :=
  run dt s (leafEff l ident words)

/-- R144: JOB_DEADLINE. -/
def execJobDeadline (dt : Nat) (owner : Owner) (sched : Sched) (s : State) : Host.Outcome State Fault Refusal :=
  run dt s (jobDeadlineEff owner sched)

/-- R149: GOV_WINDOW. -/
def execGovWindow (dt : Nat) (s : State) : Host.Outcome State Fault Refusal :=
  run dt s govWindowEff

/-- R152: BOOST_EXPIRY. -/
def execBoostExpiry (dt : Nat) (s : State) : Host.Outcome State Fault Refusal :=
  run dt s boostExpiryEff

end Sys2Proof.Machine
end

