-- ==== Sys2Proof/Machine/ExecLink.lean ====
section
/-!
DEFINITION. The meanings of the commands of signature links, power outputs and the Norrak ring (11–13): each runs the effect that its chapter gives it.
-/

namespace Sys2Proof.Machine

/-- R315: CMD_SIGNATURE. -/
def execCmdSignature (dt : Nat) (ep : Fin 12) (s : State) : Host.Outcome State Fault Refusal :=
  run dt s (cmdSignatureEff ep)

/-- R316: REPLY_SIGNATURE. -/
def execReplySignature (dt : Nat) (ep : Fin 12) (data : List Byte) (s : State) : Host.Outcome State Fault Refusal :=
  run dt s (replySignatureEff ep data)

/-- R320: REPLY_MISSING. -/
def execReplyMissing (dt : Nat) (ep : Fin 12) (s : State) : Host.Outcome State Fault Refusal :=
  run dt s (replyMissingEff ep)

/-- R331: IDENT_POLL. -/
def execIdentPoll (dt : Nat) (ep : Fin 12) (s : State) : Host.Outcome State Fault Refusal :=
  run dt s (identPollEff ep)

/-- R331: IDENT_REPLY. -/
def execIdentReply (dt : Nat) (ep : Fin 12) (ident : List Byte) (arrival : Arrival) (s : State) : Host.Outcome State Fault Refusal :=
  run dt s (identReplyEff ep ident arrival)

/-- R326: XFER_START. -/
def execXferStart (dt : Nat) (link : Fin 4) (inbound : List Byte) (s : State) : Host.Outcome State Fault Refusal :=
  run dt s (xferStartEff link inbound)

/-- R327: ARSP_READ. -/
def execArspRead (dt : Nat) (ep : Fin 12) (data : List Byte) (s : State) : Host.Outcome State Fault Refusal :=
  run dt s (arspReadEff ep data)

/-- R306: SIGLINK_ENABLE. -/
def execSiglinkEnable (dt : Nat) (path : Path) (link : Fin 4) (value : Word) (s : State) : Host.Outcome State Fault Refusal :=
  run dt s (pathGate path (linkCfgWrite link value.toNat))

/-- R343: ID_ENABLE. -/
def execIdEnable (dt : Nat) (path : Path) (value : Word) (s : State) : Host.Outcome State Fault Refusal :=
  run dt s (pathGate path (idCfgWrite value.toNat))

/-- R343: ID_RESCAN. -/
def execIdRescan (dt : Nat) (path : Path) (value : Word) (s : State) : Host.Outcome State Fault Refusal :=
  run dt s (pathGate path (idCfgWrite (putBits value.toNat 2 2 1)))

/-- R343: ID_RECORD_READ. -/
def execIdRecordRead (dt : Nat) (record : Fin 8) (r : IdRead) (s : State) : Host.Outcome State Fault Refusal :=
  run dt s (idRecordReadEff record r)

/-- R349: POWER_RELOAD. -/
def execPowerReload (dt : Nat) (ch : Fin 3) (trips : BitVec 2) (s : State) : Host.Outcome State Fault Refusal :=
  run dt s (powerReloadEff ch trips)

/-- R355: SWN_CROSSING. -/
def execSwnCrossing (dt : Nat) (ch : Fin 3) (edge : EdgeType) (s : State) : Host.Outcome State Fault Refusal :=
  run dt s (swnCrossingEff ch edge)

/-- R357: TRIP. -/
def execTrip (dt : Nat) (t : Fin 2) (s : State) : Host.Outcome State Fault Refusal :=
  run dt s (tripEff t)

/-- R357: BLANK_WINDOW_END. -/
def execBlankWindowEnd (dt : Nat) (t : Fin 2) (active : Bool) (s : State) : Host.Outcome State Fault Refusal :=
  run dt s (blankEndEff t active)

/-- R357: TRIP_CLEAR. -/
def execTripClear (dt : Nat) (path : Path) (value : Word) (active : BitVec 2) (s : State) : Host.Outcome State Fault Refusal :=
  run dt s (pathGate path (tripClearEff value active))

/-- R358: POWER_FORCE_WRITE. -/
def execPowerForceWrite (dt : Nat) (path : Path) (value : Word) (s : State) : Host.Outcome State Fault Refusal :=
  run dt s (pathGate path (powerForceWriteEff value))

/-- R361: HALL_HOLD_EXPIRY. -/
def execHallHoldExpiry (dt : Nat) (s : State) : Host.Outcome State Fault Refusal :=
  run dt s hallHoldEff

/-- R365: NK_LINK_UP. -/
def execNkLinkUp (dt : Nat) (link : Fin 2) (s : State) : Host.Outcome State Fault Refusal :=
  run dt s (nkLinkUpEff link)

/-- R365: NK_LINK_DOWN. -/
def execNkLinkDown (dt : Nat) (link : Fin 2) (s : State) : Host.Outcome State Fault Refusal :=
  run dt s (nkLinkDownEff link)

/-- R372: HELLO_SEND. -/
def execHelloSend (dt : Nat) (s : State) : Host.Outcome State Fault Refusal :=
  run dt s helloSendEff

/-- R372: HELLO_RX. -/
def execHelloRx (dt : Nat) (link : Fin 2) (hdr : NkHdr) (h : Hello) (s : State) : Host.Outcome State Fault Refusal :=
  run dt s (helloRxEff link hdr h)

/-- R376: HEARD_TIMEOUT. -/
def execHeardTimeout (dt : Nat) (s : State) : Host.Outcome State Fault Refusal :=
  run dt s heardTimeoutEff

/-- R376: BREAK_RX. -/
def execBreakRx (dt : Nat) (link : Fin 2) (hdr : NkHdr) (pos : Fin 16) (brokenLink : Fin 2) (stamp : T32) (s : State) : Host.Outcome State Fault Refusal :=
  run dt s (breakRxEff link hdr pos brokenLink stamp)

/-- R378: SYNC_SEND. -/
def execSyncSend (dt : Nat) (s : State) : Host.Outcome State Fault Refusal :=
  run dt s syncSendEff

/-- R378: SYNC_RX. -/
def execSyncRx (dt : Nat) (link : Fin 2) (s : State) : Host.Outcome State Fault Refusal :=
  run dt s (syncRxEff link)

/-- R378: SYNC_RESP_RX. -/
def execSyncRespRx (dt : Nat) (link : Fin 2) (t2 : T32) (t3 : T32) (s : State) : Host.Outcome State Fault Refusal :=
  run dt s (syncRespEff link t2 t3)

/-- R378: SYNC_TIMEOUT. -/
def execSyncTimeout (dt : Nat) (link : Fin 2) (s : State) : Host.Outcome State Fault Refusal :=
  run dt s (syncTimeoutEff link)

/-- R380: TRAJ_SEND. -/
def execTrajSend (dt : Nat) (slot : Fin 32) (s : State) : Host.Outcome State Fault Refusal :=
  run dt s (trajSendEff slot)

/-- R380: TRAJ_RX. -/
def execTrajRx (dt : Nat) (link : Fin 2) (hdr : NkHdr) (p : TrajPayload) (s : State) : Host.Outcome State Fault Refusal :=
  run dt s (trajRxEff link hdr p)

/-- R382: EVENT_FRAME_RX. -/
def execEventFrameRx (dt : Nat) (link : Fin 2) (hdr : NkHdr) (rec : BitVec 256) (s : State) : Host.Outcome State Fault Refusal :=
  run dt s (eventFrameRxEff link hdr rec)

/-- R384: TUNNEL_REQ_RX. -/
def execTunnelReqRx (dt : Nat) (link : Fin 2) (hdr : NkHdr) (ident : BitVec 16) (ds : List RawDesc) (s : State) : Host.Outcome State Fault Refusal :=
  run dt s (tunnelReqRxEff link hdr ident ds)

/-- R384: TUNNEL_RSP_RX. -/
def execTunnelRspRx (dt : Nat) (link : Fin 2) (hdr : NkHdr) (ident : BitVec 16) (cpls : List (BitVec 256)) (s : State)
    (data : List Byte := []) : Host.Outcome State Fault Refusal :=
  run dt s (tunnelRspRxEff link hdr ident cpls data)

/-- R368: LINKCTL_RX. -/
def execLinkctlRx (dt : Nat) (link : Fin 2) (ctl : Vector LinkCtl 4) (s : State) : Host.Outcome State Fault Refusal :=
  run dt s (linkctlRxEff link ctl)

/-- R368: LINKCTL_TIMER. -/
def execLinkctlTimer (dt : Nat) (link : Fin 2) (s : State) : Host.Outcome State Fault Refusal :=
  run dt s (linkctlTimerEff link)

/-- R368: RETX_TIMEOUT. -/
def execRetxTimeout (dt : Nat) (link : Fin 2) (vc : Fin 4) (s : State) : Host.Outcome State Fault Refusal :=
  run dt s (retxTimeoutEff link vc)

/-- R381: COMMIT_ACTIVATE. -/
def execCommitActivate (dt : Nat) (k : Fin 16) (s : State) : Host.Outcome State Fault Refusal :=
  run dt s (commitActivateEff k)

/-- R381: COMMIT_STOP. -/
def execCommitStop (dt : Nat) (k : Fin 16) (s : State) : Host.Outcome State Fault Refusal :=
  run dt s (commitStopEff k)

/-- R366: NK_BAD_FRAME. -/
def execNkBadFrame (dt : Nat) (link : Fin 2) (vc : Fin 4) (s : State) : Host.Outcome State Fault Refusal :=
  run dt s (nkBadFrameEff link vc)

end Sys2Proof.Machine
end

