-- ==== Sys2Proof/Machine/ExecMotion.lean ====
section
/-!
DEFINITION. The meanings of the commands of the Glade, slots, feedback and pins (06–10): each runs the effect that its chapter gives it.
-/

namespace Sys2Proof.Machine

/-- R172: THIN_MOVE. -/
def execThinMove (dt : Nat) (s : State) (hit : Option (Nat × Ecc) := none) : Host.Outcome State Fault Refusal :=
  run dt s (thinMoveEff hit)

/-- R172: THIN_SKIP. -/
def execThinSkip (dt : Nat) (s : State) : Host.Outcome State Fault Refusal :=
  run dt s thinSkipEff

/-- R175: GLADE_LOAD_WINDOW. -/
def execGladeLoadWindow (dt : Nat) (s : State) : Host.Outcome State Fault Refusal :=
  run dt s gladeLoadEff

/-- R176: SCRUB_READ. -/
def execScrubRead (dt : Nat) (mem : EccMem) (addr : Nat) (ecc : Ecc) (s : State) : Host.Outcome State Fault Refusal :=
  run dt s (scrubEff mem addr ecc)

/-- R25: CONTROL_CYCLE. -/
def execControlCycle (dt : Nat) (slot : Fin 32) (sched : Sched) (s : State) : Host.Outcome State Fault Refusal :=
  run dt s (controlCycleEff slot sched)

/-- R28: APPLY_INSTANT. -/
def execApplyInstant (dt : Nat) (slot : Fin 32) (sched : Sched) (s : State) : Host.Outcome State Fault Refusal :=
  run dt s (applyInstantEff slot sched)

/-- R242: MICROSTEP. -/
def execMicrostep (dt : Nat) (slot : Fin 32) (s : State) : Host.Outcome State Fault Refusal :=
  run dt s (microstepEff slot)

/-- R246: COARSE_STEP. -/
def execCoarseStep (dt : Nat) (slot : Fin 32) (s : State) : Host.Outcome State Fault Refusal :=
  run dt s (coarseStepEff slot)

/-- R246: COARSE_IDLE. -/
def execCoarseIdle (dt : Nat) (slot : Fin 32) (s : State) : Host.Outcome State Fault Refusal :=
  run dt s (coarseIdleEff slot)

/-- R255: ENC_EDGE. -/
def execEncEdge (dt : Nat) (port : Fin 2) (line : EncLine) (held : Nat) (s : State) : Host.Outcome State Fault Refusal :=
  run dt s (encEdgeEff port line held)

/-- R257: ENC_Z_EDGE. -/
def execEncZEdge (dt : Nat) (port : Fin 2) (held : Nat) (s : State) : Host.Outcome State Fault Refusal :=
  run dt s (encZEff port held)

/-- R265: HALL_EDGE. -/
def execHallEdge (dt : Nat) (lines : BitVec 3) (held : Nat) (s : State) : Host.Outcome State Fault Refusal :=
  run dt s (hallEdgeEff lines held)

/-- R260: ENC_STANDSTILL. -/
def execEncStandstill (dt : Nat) (port : Fin 3) (s : State) : Host.Outcome State Fault Refusal :=
  run dt s (encStandstillEff port)

/-- R277: TP_INPUT_EDGE. -/
def execTpInputEdge (dt : Nat) (pin : Fin 4) (level : Bool) (s : State) : Host.Outcome State Fault Refusal :=
  run dt s (tpEdgeEff pin level)

/-- R277: TP_MERGE_END. -/
def execTpMergeEnd (dt : Nat) (pin : Fin 4) (s : State) : Host.Outcome State Fault Refusal :=
  run dt s (tpMergeEndEff pin)

/-- R278: PIN_STUCK. -/
def execPinStuck (dt : Nat) (pin : Fin 4) (s : State) : Host.Outcome State Fault Refusal :=
  run dt s (pinStuckEff pin)

/-- R282: COMPARE_WINDOW. -/
def execCompareWindow (dt : Nat) (u : Fin 16) (s : State) : Host.Outcome State Fault Refusal :=
  run dt s (compareWindowEff u)

/-- R296: LATTICE_WINDOW. -/
def execLatticeWindow (dt : Nat) (n : Fin 4) (s : State) : Host.Outcome State Fault Refusal :=
  run dt s (latticeWindowEff n)

/-- R290: LATCH_UPDATE_POINT. -/
def execLatchUpdatePoint (dt : Nat) (u : Fin 16) (s : State) : Host.Outcome State Fault Refusal :=
  run dt s (latchUpdateEff u)

end Sys2Proof.Machine
end

