-- ==== Sys2Proof/Machine/ExecSafety.lean ====
section
/-!
DEFINITION. The meanings of the commands of Firebreak, faults, events, tallies and park (17–19): each runs the effect that its chapter gives it.
-/

namespace Sys2Proof.Machine

/-- R444: SIN_INPUT_CHANGE. -/
def execSinInputChange (dt : Nat) (ch : Fin 4) (released : Bool) (s : State) : Host.Outcome State Fault Refusal :=
  run dt s (sinChangeEff ch released)

/-- R444: DEMAND_ACCEPT. -/
def execDemandAccept (dt : Nat) (ch : Fin 4) (s : State) : Host.Outcome State Fault Refusal :=
  run dt s (demandAcceptEff ch)

/-- R444: RELEASE_ACCEPT. -/
def execReleaseAccept (dt : Nat) (ch : Fin 4) (s : State) : Host.Outcome State Fault Refusal :=
  run dt s (releaseAcceptEff ch)

/-- R445: DISCREPANCY. -/
def execDiscrepancy (dt : Nat) (input : Fin 2) (s : State) : Host.Outcome State Fault Refusal :=
  run dt s (discrepancyEff input)

/-- R447: SS1_TIMEOUT. -/
def execSs1Timeout (dt : Nat) (group : Fin 8) (s : State) : Host.Outcome State Fault Refusal :=
  run dt s (ss1TimeoutEff group)

/-- R450: SS1_LIMIT. -/
def execSs1Limit (dt : Nat) (group : Fin 8) (s : State) : Host.Outcome State Fault Refusal :=
  run dt s (ss1LimitEff group)

/-- R448: FB_SPEED_WINDOW. -/
def execFbSpeedWindow (dt : Nat) (s : State) : Host.Outcome State Fault Refusal :=
  run dt s speedWindowEff

/-- R455: STO_TEST_PULSE. -/
def execStoTestPulse (dt : Nat) (lowDuring : Bool) (highAfter : Bool) (s : State) : Host.Outcome State Fault Refusal :=
  run dt s (stoTestEff lowDuring highAfter)

/-- R454: EP_STO_TIMEOUT. -/
def execEpStoTimeout (dt : Nat) (ep : Fin 12) (s : State) : Host.Outcome State Fault Refusal :=
  run dt s (epStoTimeoutEff ep)

/-- R456: EDM_INPUT. -/
def execEdmInput (dt : Nat) (e : Fin 2) (isOpen : Bool) (s : State) : Host.Outcome State Fault Refusal :=
  run dt s (edmInputEff e isOpen)

/-- R456: EDM_TIMEOUT. -/
def execEdmTimeout (dt : Nat) (e : Fin 2) (s : State) : Host.Outcome State Fault Refusal :=
  run dt s (edmTimeoutEff e)

/-- R456: EDM_ACK. -/
def execEdmAck (dt : Nat) (path : Path) (s : State) : Host.Outcome State Fault Refusal :=
  run dt s (pathGate path edmAckEff)

/-- R459: FB_CONFIRM_WRITE. -/
def execFbConfirmWrite (dt : Nat) (value : Word) (s : State) : Host.Outcome State Fault Refusal :=
  run dt s (fbConfirmViaEff value)

/-- R442: FB_TIMEBASE_CHECK. -/
def execFbTimebaseCheck (dt : Nat) (advance : Nat) (s : State) : Host.Outcome State Fault Refusal :=
  run dt s (timebaseCheckEff advance)

/-- R442: FB_SUPPLY_FAULT. -/
def execFbSupplyFault (dt : Nat) (s : State) : Host.Outcome State Fault Refusal :=
  run dt s supplyFaultEff

/-- R442: FB_SCRUB. -/
def execFbScrub (dt : Nat) (ecc : Ecc) (s : State) : Host.Outcome State Fault Refusal :=
  run dt s (fbScrubEff ecc)

/-- R442: FB_RECORD_CHECK. -/
def execFbRecordCheck (dt : Nat) (crcGood : Bool) (s : State) : Host.Outcome State Fault Refusal :=
  run dt s (recordCheckEff crcGood)

/-- R442: FB_LOGIC_SELFTEST. -/
def execFbLogicSelftest (dt : Nat) (pass : Bool) (s : State) : Host.Outcome State Fault Refusal :=
  run dt s (logicTestEff pass)

/-- R442: FB_INPUT_TEST. -/
def execFbInputTest (dt : Nat) (pass : Bool) (s : State) : Host.Outcome State Fault Refusal :=
  run dt s (inputTestEff pass)

/-- R442: FB_WATCHDOG_MISS. -/
def execFbWatchdogMiss (dt : Nat) (s : State) : Host.Outcome State Fault Refusal :=
  run dt s watchdogMissEff

/-- R460: SELF_FAULT_STO_FORCE. -/
def execSelfFaultStoForce (dt : Nat) (s : State) : Host.Outcome State Fault Refusal :=
  run dt s stoForceEff

/-- R468: FAULT_ACK. -/
def execFaultAck (dt : Nat) (path : Path) (s : State) : Host.Outcome State Fault Refusal :=
  run dt s (pathGate path faultAckEff)

/-- R474: LEDGER_CLEAR. -/
def execLedgerClear (dt : Nat) (path : Path) (mask : BitVec 7) (s : State) : Host.Outcome State Fault Refusal :=
  run dt s (pathGate path (ledgerClearEff mask.toNat))

/-- R484: FAULT_EVT_TEST_WRITE. -/
def execFaultEvtTestWrite (dt : Nat) (path : Path) (value : Word) (s : State) : Host.Outcome State Fault Refusal :=
  run dt s (pathGate path (evtTestEff value.toNat))

/-- R479: EVENT_WRITE. -/
def execEventWrite (dt : Nat) (r : WriteResult) (s : State) : Host.Outcome State Fault Refusal :=
  run dt s (eventWriteEff r)

/-- R472: HANDLING_START. -/
def execHandlingStart (dt : Nat) (ledger : Fin 7) (entry : Fin 32) (s : State) : Host.Outcome State Fault Refusal :=
  run dt s (handlingStartEff ledger entry)

/-- R502: TALLY_PERIODIC. -/
def execTallyPeriodic (dt : Nat) (s : State) : Host.Outcome State Fault Refusal :=
  run dt s tallyPeriodicEff

/-- R505: TALLY_SNAP. -/
def execTallySnap (dt : Nat) (path : Path) (s : State) : Host.Outcome State Fault Refusal :=
  run dt s (pathGate path tallySnapEff)

/-- R507: TALLY_REFRESH. -/
def execTallyRefresh (dt : Nat) (s : State) : Host.Outcome State Fault Refusal :=
  run dt s tallyRefreshEff

/-- R508: VBACKUP_LOSS. -/
def execVbackupLoss (dt : Nat) (s : State) : Host.Outcome State Fault Refusal :=
  runReset dt s vbackupEff

/-- R510: PARK_ENDPOINT_TIMEOUT. -/
def execParkEndpointTimeout (dt : Nat) (entry : Fin 4) (s : State) : Host.Outcome State Fault Refusal :=
  run dt s (parkTimeoutEff entry)

end Sys2Proof.Machine
end

