-- ==== Sys2Proof/Machine/Dispatch.lean ====
section
/-!
DEFINITION. The dispatch: one arm per command, each a direct call of its meaning.
-/

namespace Sys2Proof.Machine

/-- The effect of a command on everything but the queue. -/
def exec (i : Instr) (s : State) : Host.Outcome State Fault Refusal :=
  match i with
  | .chipReset dt kind resetNHigh strap badRecords => Sys2Proof.Machine.execChipReset dt kind resetNHigh strap badRecords s
  | .clearingDone dt => Sys2Proof.Machine.execClearingDone dt s
  | .referenceLock dt => Sys2Proof.Machine.execReferenceLock dt s
  | .fbStartupSelftest dt pass => Sys2Proof.Machine.execFbStartupSelftest dt pass s
  | .understoryStart dt failedLanes failedCells => Sys2Proof.Machine.execUnderstoryStart dt failedLanes failedCells s
  | .bistEnd dt failedLanes failedCells lost => Sys2Proof.Machine.execBistEnd dt failedLanes failedCells lost s
  | .powerFail dt vin => Sys2Proof.Machine.execPowerFail dt vin s
  | .powerRecoveryReset dt strap badRecords => Sys2Proof.Machine.execPowerRecoveryReset dt strap badRecords s
  | .vinLow dt vin => Sys2Proof.Machine.execVinLow dt vin s
  | .thermal dt tj => Sys2Proof.Machine.execThermal dt tj s
  | .thermalLimit dt tj => Sys2Proof.Machine.execThermalLimit dt tj s
  | .coreRail dt rail mv => Sys2Proof.Machine.execCoreRail dt rail mv s
  | .auditSnap dt path => Sys2Proof.Machine.execAuditSnap dt path s
  | .auditSnapDone dt => Sys2Proof.Machine.execAuditSnapDone dt s
  | .dlineCalibration dt taps inRange => Sys2Proof.Machine.execDlineCalibration dt taps inRange s
  | .xtalFault dt ratio => Sys2Proof.Machine.execXtalFault dt ratio s
  | .refUnlock dt => Sys2Proof.Machine.execRefUnlock dt s
  | .domainMasterUpdate dt dom master => Sys2Proof.Machine.execDomainMasterUpdate dt dom master s
  | .holdoverEntry dt dom => Sys2Proof.Machine.execHoldoverEntry dt dom s
  | .holdoverLimit dt dom => Sys2Proof.Machine.execHoldoverLimit dt dom s
  | .slewDone dt dom => Sys2Proof.Machine.execSlewDone dt dom s
  | .timeDisciplineWrite dt path dom value => Sys2Proof.Machine.execTimeDisciplineWrite dt path dom value s
  | .timeXsnap dt path => Sys2Proof.Machine.execTimeXsnap dt path s
  | .xsnapTaken dt => Sys2Proof.Machine.execXsnapTaken dt s
  | .placerEdge dt placer => Sys2Proof.Machine.execPlacerEdge dt placer s
  | .ppsPulse dt => Sys2Proof.Machine.execPpsPulse dt s
  | .sqTail dt n value => Sys2Proof.Machine.execSqTail dt n value s
  | .cqHead dt n value => Sys2Proof.Machine.execCqHead dt n value s
  | .evqHead dt value => Sys2Proof.Machine.execEvqHead dt value s
  | .strHead dt n value => Sys2Proof.Machine.execStrHead dt n value s
  | .heartbeat dt => Sys2Proof.Machine.execHeartbeat dt s
  | .hbLost dt => Sys2Proof.Machine.execHbLost dt s
  | .descriptorFetch dt n r => Sys2Proof.Machine.execDescriptorFetch dt n r s
  | .completionWrite dt r => Sys2Proof.Machine.execCompletionWrite dt r s
  | .heldCompletionDelivery dt r => Sys2Proof.Machine.execHeldCompletionDelivery dt r s
  | .coalesceTimer dt ring => Sys2Proof.Machine.execCoalesceTimer dt ring s
  | .ptmDialogue dt masterNs => Sys2Proof.Machine.execPtmDialogue dt masterNs s
  | .hostRegionReset dt kind => Sys2Proof.Machine.execHostRegionReset dt kind s
  | .linkLoss dt => Sys2Proof.Machine.execLinkLoss dt s
  | .pcieLinkUp dt speed => Sys2Proof.Machine.execPcieLinkUp dt speed s
  | .orphanAck dt path => Sys2Proof.Machine.execOrphanAck dt path s
  | .ringEnable dt path ring value => Sys2Proof.Machine.execRingEnable dt path ring value s
  | .registerWrite dt path addr value be => Sys2Proof.Machine.execRegisterWrite dt path addr value be s
  | .rsLowRead dt path addr => Sys2Proof.Machine.execRsLowRead dt path addr s
  | .pswDataRead dt path => Sys2Proof.Machine.execPswDataRead dt path s
  | .svcWrite dt addr data => Sys2Proof.Machine.execSvcWrite dt addr data s
  | .svcRead dt addr words => Sys2Proof.Machine.execSvcRead dt addr words s
  | .svcStatus dt => Sys2Proof.Machine.execSvcStatus dt s
  | .svcIdent dt => Sys2Proof.Machine.execSvcIdent dt s
  | .svcFrameAbort dt write addr data bits part => Sys2Proof.Machine.execSvcFrameAbort dt write addr data bits part s
  | .svcDescriptorSubmit dt d => Sys2Proof.Machine.execSvcDescriptorSubmit dt d s
  | .svcCompletionRead dt => Sys2Proof.Machine.execSvcCompletionRead dt s
  | .fenceWait dt src d => Sys2Proof.Machine.execFenceWait dt src d s
  | .fencePurge dt src d => Sys2Proof.Machine.execFencePurge dt src d s
  | .nop dt f => Sys2Proof.Machine.execNop dt f s
  | .slotConfig dt src d => Sys2Proof.Machine.execSlotConfig dt src d s
  | .bankLoad dt src d => Sys2Proof.Machine.execBankLoad dt src d s
  | .bankSwap dt src d => Sys2Proof.Machine.execBankSwap dt src d s
  | .modeSet dt src d => Sys2Proof.Machine.execModeSet dt src d s
  | .moveAbs dt src d => Sys2Proof.Machine.execMoveAbs dt src d s
  | .moveRel dt src d => Sys2Proof.Machine.execMoveRel dt src d s
  | .jog dt src d => Sys2Proof.Machine.execJog dt src d s
  | .softStart dt src d => Sys2Proof.Machine.execSoftStart dt src d s
  | .stop dt src d => Sys2Proof.Machine.execStop dt src d s
  | .limitsSet dt src d => Sys2Proof.Machine.execLimitsSet dt src d s
  | .pathSegment dt src d => Sys2Proof.Machine.execPathSegment dt src d s
  | .pathGroupDefine dt src d => Sys2Proof.Machine.execPathGroupDefine dt src d s
  | .pathGroupStart dt src d => Sys2Proof.Machine.execPathGroupStart dt src d s
  | .pathGroupHold dt src d => Sys2Proof.Machine.execPathGroupHold dt src d s
  | .pathGroupResume dt src d => Sys2Proof.Machine.execPathGroupResume dt src d s
  | .pathGroupAbort dt src d => Sys2Proof.Machine.execPathGroupAbort dt src d s
  | .pathGroupRelease dt src d => Sys2Proof.Machine.execPathGroupRelease dt src d s
  | .gearSet dt src d => Sys2Proof.Machine.execGearSet dt src d s
  | .camSet dt src d => Sys2Proof.Machine.execCamSet dt src d s
  | .stepConfig dt src d => Sys2Proof.Machine.execStepConfig dt src d s
  | .homeStall dt src d => Sys2Proof.Machine.execHomeStall dt src d s
  | .compareArm dt src d => Sys2Proof.Machine.execCompareArm dt src d s
  | .latchArm dt src d => Sys2Proof.Machine.execLatchArm dt src d s
  | .latticeLoad dt src d => Sys2Proof.Machine.execLatticeLoad dt src d s
  | .latticeRunPass dt src d => Sys2Proof.Machine.execLatticeRunPass dt src d s
  | .latticeStop dt src d => Sys2Proof.Machine.execLatticeStop dt src d s
  | .latticeUnload dt src d => Sys2Proof.Machine.execLatticeUnload dt src d s
  | .gladeLease dt src d => Sys2Proof.Machine.execGladeLease dt src d s
  | .gladeRelease dt src d => Sys2Proof.Machine.execGladeRelease dt src d s
  | .gladeThin dt src d => Sys2Proof.Machine.execGladeThin dt src d s
  | .folioWrite dt src d => Sys2Proof.Machine.execFolioWrite dt src d s
  | .folioRead dt src d => Sys2Proof.Machine.execFolioRead dt src d s
  | .programLoad dt src d => Sys2Proof.Machine.execProgramLoad dt src d s
  | .powerSet dt src d => Sys2Proof.Machine.execPowerSet dt src d s
  | .powerForce dt src d => Sys2Proof.Machine.execPowerForce dt src d s
  | .siglinkXfer dt src d => Sys2Proof.Machine.execSiglinkXfer dt src d s
  | .endpointBind dt src d => Sys2Proof.Machine.execEndpointBind dt src d s
  | .endpointUnbind dt src d => Sys2Proof.Machine.execEndpointUnbind dt src d s
  | .canSend dt src d => Sys2Proof.Machine.execCanSend dt src d s
  | .canCancel dt src d => Sys2Proof.Machine.execCanCancel dt src d s
  | .canRecover dt src d => Sys2Proof.Machine.execCanRecover dt src d s
  | .ringMembers dt src d => Sys2Proof.Machine.execRingMembers dt src d s
  | .publishStart dt src d => Sys2Proof.Machine.execPublishStart dt src d s
  | .publishEnd dt src d => Sys2Proof.Machine.execPublishEnd dt src d s
  | .tunnel dt src d => Sys2Proof.Machine.execTunnel dt src d s
  | .quireArm dt src d => Sys2Proof.Machine.execQuireArm dt src d s
  | .quireForceTrigger dt src d => Sys2Proof.Machine.execQuireForceTrigger dt src d s
  | .quireStop dt src d => Sys2Proof.Machine.execQuireStop dt src d s
  | .quireDisarm dt src d => Sys2Proof.Machine.execQuireDisarm dt src d s
  | .quireRead dt src d => Sys2Proof.Machine.execQuireRead dt src d s
  | .checkContextRead dt src d => Sys2Proof.Machine.execCheckContextRead dt src d s
  | .checkContextWrite dt src d => Sys2Proof.Machine.execCheckContextWrite dt src d s
  | .checkContextExchange dt src d => Sys2Proof.Machine.execCheckContextExchange dt src d s
  | .timeSet dt src d => Sys2Proof.Machine.execTimeSet dt src d s
  | .timeSetApply dt dom => Sys2Proof.Machine.execTimeSetApply dt dom s
  | .timeSlew dt src d => Sys2Proof.Machine.execTimeSlew dt src d s
  | .tallyRead dt src d => Sys2Proof.Machine.execTallyRead dt src d s
  | .calendarSet dt src d => Sys2Proof.Machine.execCalendarSet dt src d s
  | .safetyRecordWrite dt src d => Sys2Proof.Machine.execSafetyRecordWrite dt src d s
  | .safetyConfirm dt src d => Sys2Proof.Machine.execSafetyConfirm dt src d s
  | .lifecycleChange dt src d => Sys2Proof.Machine.execLifecycleChange dt src d s
  | .parkRecordWrite dt src d => Sys2Proof.Machine.execParkRecordWrite dt src d s
  | .lifeReq dt value => Sys2Proof.Machine.execLifeReq dt value s
  | .lifecycleCommit dt => Sys2Proof.Machine.execLifecycleCommit dt s
  | .laneSelftest dt lane failedOp => Sys2Proof.Machine.execLaneSelftest dt lane failedOp s
  | .jobReady dt owner sched => Sys2Proof.Machine.execJobReady dt owner sched s
  | .jobGrant dt => Sys2Proof.Machine.execJobGrant dt s
  | .endLeaf dt l => Sys2Proof.Machine.execEndLeaf dt l s
  | .rpt dt l count body => Sys2Proof.Machine.execRpt dt l count body s
  | .skip dt l cond k => Sys2Proof.Machine.execSkip dt l cond k s
  | .ldg dt l a p mod offset ecc => Sys2Proof.Machine.execLdg dt l a p mod offset ecc s
  | .stg dt l a p mod offset => Sys2Proof.Machine.execStg dt l a p mod offset s
  | .ldf dt l a b table ecc => Sys2Proof.Machine.execLdf dt l a b table ecc s
  | .ldi dt l a imm => Sys2Proof.Machine.execLdi dt l a imm s
  | .ldin dt l a input => Sys2Proof.Machine.execLdin dt l a input s
  | .out dt l b output => Sys2Proof.Machine.execOut dt l b output s
  | .mov dt l a b => Sys2Proof.Machine.execMov dt l a b s
  | .add dt l a b c => Sys2Proof.Machine.execAdd dt l a b c s
  | .sub dt l a b c => Sys2Proof.Machine.execSub dt l a b c s
  | .abs dt l a b => Sys2Proof.Machine.execAbs dt l a b s
  | .mul dt l a b c round => Sys2Proof.Machine.execMul dt l a b c round s
  | .min dt l a b c => Sys2Proof.Machine.execMin dt l a b c s
  | .max dt l a b c => Sys2Proof.Machine.execMax dt l a b c s
  | .clmp dt l a b c => Sys2Proof.Machine.execClmp dt l a b c s
  | .shl dt l a b n => Sys2Proof.Machine.execShl dt l a b n s
  | .asr dt l a b n => Sys2Proof.Machine.execAsr dt l a b n s
  | .cmp dt l b c => Sys2Proof.Machine.execCmp dt l b c s
  | .sel dt l a b c cond => Sys2Proof.Machine.execSel dt l a b c cond s
  | .macz dt l acc b c e bank => Sys2Proof.Machine.execMacz dt l acc b c e bank s
  | .mac dt l acc b c e bank => Sys2Proof.Machine.execMac dt l acc b c e bank s
  | .msu dt l acc b c e bank => Sys2Proof.Machine.execMsu dt l acc b c e bank s
  | .accadd dt l acc b n => Sys2Proof.Machine.execAccadd dt l acc b n s
  | .ext dt l a acc n round => Sys2Proof.Machine.execExt dt l a acc n round s
  | .accclr dt l acc => Sys2Proof.Machine.execAccclr dt l acc s
  | .mxs dt l a p n => Sys2Proof.Machine.execMxs dt l a p n s
  | .mns dt l a p n => Sys2Proof.Machine.execMns dt l a p n s
  | .mxa dt l a p n => Sys2Proof.Machine.execMxa dt l a p n s
  | .midx dt l a => Sys2Proof.Machine.execMidx dt l a s
  | .pset dt l p x => Sys2Proof.Machine.execPset dt l p x s
  | .plen dt l p x => Sys2Proof.Machine.execPlen dt l p x s
  | .pstep dt l p x => Sys2Proof.Machine.execPstep dt l p x s
  | .leaf dt l ident words => Sys2Proof.Machine.execLeaf dt l ident words s
  | .jobDeadline dt owner sched => Sys2Proof.Machine.execJobDeadline dt owner sched s
  | .govWindow dt => Sys2Proof.Machine.execGovWindow dt s
  | .boostExpiry dt => Sys2Proof.Machine.execBoostExpiry dt s
  | .thinMove dt hit => Sys2Proof.Machine.execThinMove dt s hit
  | .thinSkip dt => Sys2Proof.Machine.execThinSkip dt s
  | .gladeLoadWindow dt => Sys2Proof.Machine.execGladeLoadWindow dt s
  | .scrubRead dt mem addr ecc => Sys2Proof.Machine.execScrubRead dt mem addr ecc s
  | .controlCycle dt slot sched => Sys2Proof.Machine.execControlCycle dt slot sched s
  | .applyInstant dt slot sched => Sys2Proof.Machine.execApplyInstant dt slot sched s
  | .microstep dt slot => Sys2Proof.Machine.execMicrostep dt slot s
  | .coarseStep dt slot => Sys2Proof.Machine.execCoarseStep dt slot s
  | .coarseIdle dt slot => Sys2Proof.Machine.execCoarseIdle dt slot s
  | .encEdge dt port line held => Sys2Proof.Machine.execEncEdge dt port line held s
  | .encZEdge dt port held => Sys2Proof.Machine.execEncZEdge dt port held s
  | .hallEdge dt lines held => Sys2Proof.Machine.execHallEdge dt lines held s
  | .encStandstill dt port => Sys2Proof.Machine.execEncStandstill dt port s
  | .tpInputEdge dt pin level => Sys2Proof.Machine.execTpInputEdge dt pin level s
  | .tpMergeEnd dt pin => Sys2Proof.Machine.execTpMergeEnd dt pin s
  | .pinStuck dt pin => Sys2Proof.Machine.execPinStuck dt pin s
  | .compareWindow dt u => Sys2Proof.Machine.execCompareWindow dt u s
  | .latticeWindow dt n => Sys2Proof.Machine.execLatticeWindow dt n s
  | .cmdSignature dt ep => Sys2Proof.Machine.execCmdSignature dt ep s
  | .replySignature dt ep data => Sys2Proof.Machine.execReplySignature dt ep data s
  | .replyMissing dt ep => Sys2Proof.Machine.execReplyMissing dt ep s
  | .identPoll dt ep => Sys2Proof.Machine.execIdentPoll dt ep s
  | .identReply dt ep ident arrival => Sys2Proof.Machine.execIdentReply dt ep ident arrival s
  | .xferStart dt link inbound => Sys2Proof.Machine.execXferStart dt link inbound s
  | .arspRead dt ep data => Sys2Proof.Machine.execArspRead dt ep data s
  | .siglinkEnable dt path link value => Sys2Proof.Machine.execSiglinkEnable dt path link value s
  | .idEnable dt path value => Sys2Proof.Machine.execIdEnable dt path value s
  | .idRescan dt path value => Sys2Proof.Machine.execIdRescan dt path value s
  | .idRecordRead dt record r => Sys2Proof.Machine.execIdRecordRead dt record r s
  | .powerReload dt ch trips => Sys2Proof.Machine.execPowerReload dt ch trips s
  | .swnCrossing dt ch edge => Sys2Proof.Machine.execSwnCrossing dt ch edge s
  | .trip dt t => Sys2Proof.Machine.execTrip dt t s
  | .blankWindowEnd dt t active => Sys2Proof.Machine.execBlankWindowEnd dt t active s
  | .tripClear dt path value active => Sys2Proof.Machine.execTripClear dt path value active s
  | .powerForceWrite dt path value => Sys2Proof.Machine.execPowerForceWrite dt path value s
  | .hallHoldExpiry dt => Sys2Proof.Machine.execHallHoldExpiry dt s
  | .nkLinkUp dt link => Sys2Proof.Machine.execNkLinkUp dt link s
  | .nkLinkDown dt link => Sys2Proof.Machine.execNkLinkDown dt link s
  | .helloSend dt => Sys2Proof.Machine.execHelloSend dt s
  | .helloRx dt link hdr h => Sys2Proof.Machine.execHelloRx dt link hdr h s
  | .heardTimeout dt => Sys2Proof.Machine.execHeardTimeout dt s
  | .breakRx dt link hdr pos brokenLink stamp => Sys2Proof.Machine.execBreakRx dt link hdr pos brokenLink stamp s
  | .syncSend dt => Sys2Proof.Machine.execSyncSend dt s
  | .syncRx dt link => Sys2Proof.Machine.execSyncRx dt link s
  | .syncRespRx dt link t2 t3 => Sys2Proof.Machine.execSyncRespRx dt link t2 t3 s
  | .syncTimeout dt link => Sys2Proof.Machine.execSyncTimeout dt link s
  | .trajSend dt slot => Sys2Proof.Machine.execTrajSend dt slot s
  | .trajRx dt link hdr p => Sys2Proof.Machine.execTrajRx dt link hdr p s
  | .eventFrameRx dt link hdr rec => Sys2Proof.Machine.execEventFrameRx dt link hdr rec s
  | .tunnelReqRx dt link hdr ident ds => Sys2Proof.Machine.execTunnelReqRx dt link hdr ident ds s
  | .tunnelRspRx dt link hdr ident cpls data => Sys2Proof.Machine.execTunnelRspRx dt link hdr ident cpls s data
  | .linkctlRx dt link ctl => Sys2Proof.Machine.execLinkctlRx dt link ctl s
  | .linkctlTimer dt link => Sys2Proof.Machine.execLinkctlTimer dt link s
  | .retxTimeout dt link vc => Sys2Proof.Machine.execRetxTimeout dt link vc s
  | .commitActivate dt k => Sys2Proof.Machine.execCommitActivate dt k s
  | .commitStop dt k => Sys2Proof.Machine.execCommitStop dt k s
  | .canEligible dt c => Sys2Proof.Machine.execCanEligible dt c s
  | .canSof dt c => Sys2Proof.Machine.execCanSof dt c s
  | .canTxDone dt c tdc => Sys2Proof.Machine.execCanTxDone dt c tdc s
  | .canRxFrame dt c f sofAge => Sys2Proof.Machine.execCanRxFrame dt c f sofAge s
  | .canErrorFrame dt c e dataPhase tecInc recInc => Sys2Proof.Machine.execCanErrorFrame dt c e dataPhase tecInc recInc s
  | .canRecoveryDone dt c => Sys2Proof.Machine.execCanRecoveryDone dt c s
  | .refMessageSend dt c => Sys2Proof.Machine.execRefMessageSend dt c s
  | .refMessageRx dt c count rank prevSof => Sys2Proof.Machine.execRefMessageRx dt c count rank prevSof s
  | .canWindowOpen dt c w => Sys2Proof.Machine.execCanWindowOpen dt c w s
  | .canWindowClose dt c w => Sys2Proof.Machine.execCanWindowClose dt c w s
  | .quireSample dt lo hi => Sys2Proof.Machine.execQuireSample dt s lo hi
  | .streamChunkTimer dt ring => Sys2Proof.Machine.execStreamChunkTimer dt ring s
  | .chkEnable dt path u value => Sys2Proof.Machine.execChkEnable dt path u value s
  | .sinInputChange dt ch released => Sys2Proof.Machine.execSinInputChange dt ch released s
  | .demandAccept dt ch => Sys2Proof.Machine.execDemandAccept dt ch s
  | .releaseAccept dt ch => Sys2Proof.Machine.execReleaseAccept dt ch s
  | .discrepancy dt input => Sys2Proof.Machine.execDiscrepancy dt input s
  | .ss1Timeout dt group => Sys2Proof.Machine.execSs1Timeout dt group s
  | .ss1Limit dt group => Sys2Proof.Machine.execSs1Limit dt group s
  | .fbSpeedWindow dt => Sys2Proof.Machine.execFbSpeedWindow dt s
  | .stoTestPulse dt lowDuring highAfter => Sys2Proof.Machine.execStoTestPulse dt lowDuring highAfter s
  | .epStoTimeout dt ep => Sys2Proof.Machine.execEpStoTimeout dt ep s
  | .edmInput dt e isOpen => Sys2Proof.Machine.execEdmInput dt e isOpen s
  | .edmTimeout dt e => Sys2Proof.Machine.execEdmTimeout dt e s
  | .edmAck dt path => Sys2Proof.Machine.execEdmAck dt path s
  | .fbConfirmWrite dt value => Sys2Proof.Machine.execFbConfirmWrite dt value s
  | .fbTimebaseCheck dt advance => Sys2Proof.Machine.execFbTimebaseCheck dt advance s
  | .fbSupplyFault dt => Sys2Proof.Machine.execFbSupplyFault dt s
  | .fbScrub dt ecc => Sys2Proof.Machine.execFbScrub dt ecc s
  | .fbRecordCheck dt crcGood => Sys2Proof.Machine.execFbRecordCheck dt crcGood s
  | .fbLogicSelftest dt pass => Sys2Proof.Machine.execFbLogicSelftest dt pass s
  | .fbInputTest dt pass => Sys2Proof.Machine.execFbInputTest dt pass s
  | .fbWatchdogMiss dt => Sys2Proof.Machine.execFbWatchdogMiss dt s
  | .selfFaultStoForce dt => Sys2Proof.Machine.execSelfFaultStoForce dt s
  | .faultAck dt path => Sys2Proof.Machine.execFaultAck dt path s
  | .ledgerClear dt path mask => Sys2Proof.Machine.execLedgerClear dt path mask s
  | .faultEvtTestWrite dt path value => Sys2Proof.Machine.execFaultEvtTestWrite dt path value s
  | .eventWrite dt r => Sys2Proof.Machine.execEventWrite dt r s
  | .handlingStart dt ledger entry => Sys2Proof.Machine.execHandlingStart dt ledger entry s
  | .tallyPeriodic dt => Sys2Proof.Machine.execTallyPeriodic dt s
  | .tallySnap dt path => Sys2Proof.Machine.execTallySnap dt path s
  | .tallyRefresh dt => Sys2Proof.Machine.execTallyRefresh dt s
  | .vbackupLoss dt => Sys2Proof.Machine.execVbackupLoss dt s
  | .parkEndpointTimeout dt entry => Sys2Proof.Machine.execParkEndpointTimeout dt entry s
  | .timeSlewApply dt dom => Sys2Proof.Machine.execTimeSlewApply dt dom s
  | .latchUpdatePoint dt u => Sys2Proof.Machine.execLatchUpdatePoint dt u s
  | .canCycleStart dt c => Sys2Proof.Machine.execCanCycleStart dt c s
  | .resetNRelease dt strap badRecords => Sys2Proof.Machine.execResetNRelease dt strap badRecords s
  | .powerGoodFall dt railLost => Sys2Proof.Machine.execPowerGoodFall dt railLost s
  | .pcieLinkDown dt => Sys2Proof.Machine.execPcieLinkDown dt s
  | .svcUnknownCommand dt => Sys2Proof.Machine.execSvcUnknownCommand dt s
  | .nkBadFrame dt link vc => Sys2Proof.Machine.execNkBadFrame dt link vc s
  | .junctionBelowRange dt tj => Sys2Proof.Machine.execJunctionBelowRange dt tj s

end Sys2Proof.Machine
end

