-- ==== Sys2Proof/WellFormed.lean ====
section
/-!
DEFINITION. The commands that the outside of the part can form: what the bits of a frame or the size of a memory rule
out although the operand's type admits it. A meaning answers on an ill-formed command too; a well-formed one is what the
hardware can meet.
-/

namespace Sys2Proof

/-- R388: the data bytes that a length code of a CAN frame stands for. -/
def canLength (fd : Bool) (dlc : Nat) : Nat :=
  if dlc ≤ 8 then dlc
  else if fd then [12, 16, 20, 24, 32, 48, 64].getD (dlc - 9) 64
  else 8

/-- R388, R392: a CAN frame carries the bytes of its length code, and none as a remote frame. -/
def CanFrame.wf (f : CanFrame) : Bool :=
  f.data.length == (if f.ident.getLsbD 30 then 0 else canLength (f.ident.getLsbD 31) f.dlc.toNat)

/-- R176, R178, R134, R425: an address of a memory with check bits. -/
def EccMem.size : EccMem → Nat
  | .glade => 6144
  | .folio => 16384
  | .pstore => 4096
  | .quire => 65536

/-- R75, R85: a read of a submission ring returns at most its 4,096 entries. -/
def FetchResult.wf : FetchResult → Bool
  | .ok es => decide (es.length ≤ 4096)
  | .failed _ => true

/-- R367: HELLO lists at most the 32 pairs of a member and one of its two links. -/
def Hello.wf (h : Hello) : Bool := decide (h.breaks.length ≤ 32)

/-- The commands that can be met. -/
def Instr.wf : Instr → Bool
  | .descriptorFetch _ _ r => r.wf
  | .svcWrite _ _ data => decide (1 ≤ data.length)
  | .svcRead _ _ words => decide (1 ≤ words)
  | .scrubRead _ mem addr _ => decide (addr < mem.size)
  | .canRxFrame _ _ f _ => f.wf
  | .helloRx _ _ _ h => h.wf
  | _ => true

end Sys2Proof
end

