-- ==== Sys2Proof/Safety.lean ====
section
/-!
DEFINITION. What a sound state is, in the terms the statements use: the canonical form of the addressed stores, the
relation of FAULT_N to its conditions (R468), and when nothing but a command's own effect happens at its close.
-/

namespace Sys2Proof.Machine

/-- The addressed stores of the part: set-up fields, upd_seq values, Glade, Folio, program RAM, Quire, the service data area
and the loss tallies. -/
abbrev Memory := List (Nat × Nat)

/-- A store is in its canonical form: addresses strictly rising, no entry equal to what an unlisted address reads as. -/
def Memory.wf (d : Nat → Nat) (m : Memory) : Bool := cellWf d m

/-- Every addressed store is in its canonical form. -/
def storesWf (s : State) : Bool :=
  Memory.wf regDefault s.regs && Memory.wf zero0 s.seqs && Memory.wf zero0 s.glade.words && Memory.wf zero0 s.glade.folio
    && Memory.wf zero0 s.canopy.ram && Memory.wf zero0 s.quire.mem && Memory.wf zero0 s.svc.data && Memory.wf zero0 s.fault.loss

/-- R114: upd_seq is an 8-bit field. -/
def seqsBounded (s : State) : Bool := s.seqs.all (fun c => decide (c.2 < 256))

/-- R114: only status registers have an upd_seq. -/
def seqsKnown (s : State) : Bool := s.seqs.all (fun c => (seqKeys ++ ringKeys).contains c.1)

/-- R114: the upd_seq fields are sound. -/
def seqsSound (s : State) : Bool := Memory.wf zero0 s.seqs && seqsBounded s && seqsKnown s

/-- R468: FAULT_N is low exactly while one of its conditions holds. -/
def faultNSound (s : State) : Bool := s.fault.faultLow == faultLowNow s

/-- No edge waits at a placer for room, and PPS_OUT, without edges, is at its inactive level (R63, R66). -/
def placersSettled (s : State) : Bool :=
  s.time.placers.toList.all (fun p => p.waiting.isEmpty)
    && (!s.time.placers[(11 : Fin 12)].queue.isEmpty || s.time.placers[(11 : Fin 12)].level == regB s 0x2200 3)

/-- Nothing follows a command of itself: no thinning, no park move, no orphan policy, six lanes in service, no native value for Quire, no
check unit on the device's writes of host memory, no wrap, edge, message or tunnel that waits, FAULT_N as it should be. -/
def quiet (s : State) : Bool :=
  !s.life.parkActive && !s.host.orphanRunning && decide (6 ≤ inService s) && faultNSound s
    && (quireChans s).isEmpty && (chkUnits s 1 0 0).isEmpty && s.glade.thin.isNone && s.axis.ports.toList.all (fun q => q.wraps.isEmpty)
    && placersSettled s && s.host.msix.toList.all (fun m => !m.pending) && s.norrak.tunnels.isEmpty

/-- R112, R125: an access path through which a register can be written. -/
def pathOpen (path : Path) (s : State) : Bool := path == .pcie || (svcUp s && !svcNoWrites s)

/-! ### Descriptors submitted at the service port -/

/-- R82, R123: the state in which a descriptor submitted at the service port is checked: it is in flight. -/
def svcHeld (r : RawDesc) (s : State) : InFlight × State :=
  let v := { s with svc := { s.svc with frames := s.svc.frames + 1, reserved := s.svc.reserved + 1 } }
  let f := mkFlight .svc none r v.host.nextId none v
  (f, { v with host := { v.host with nextId := v.host.nextId + 1, flight := v.host.flight ++ [f], descAcc := v.host.descAcc + 1 } })

/-- The descriptor, and the state in which it acts. -/
def svcFlight (r : RawDesc) (s : State) : InFlight × State :=
  ((svcHeld r s).1, modFlight (svcHeld r s).2 (svcHeld r s).1.id (fun x => { x with due := (svcHeld r s).1.due }))

/-- R83, R123, R125: the service port takes a descriptor: it is in service, the lifecycle state permits it and there is room. -/
def svcTakes (r : RawDesc) (s : State) : Bool :=
  svcUp s && s.chip.fullService && !svcRefuses s r && decide (flightCount s < 512) && decide (heldCount s = 0)
    && decide (s.svc.cpls.length + s.svc.reserved < 8)

/-- R82, R115: what follows a descriptor's submission at the service port: acceptance goes on, and select is released. -/
def svcDone (s : State) : State := frameEnd (drain s)

/-- R88: none of the checks of a descriptor submitted at the service port fails. -/
def passes (r : RawDesc) (s : State) : Bool :=
  (headerCheck .svc r (svcHeld r s).2).isNone && (bodyCheck (svcHeld r s).1 (svcHeld r s).2).isNone

/-- The rows of descriptors that wait for an instant of their target, with their opcodes; `sub` is the command byte, 16, that a row forces. -/
def timedRows : List ((Nat → Source → Desc → Instr) × Nat × Option Nat) :=
  [(.modeSet, 0x13, none), (.moveAbs, 0x20, none), (.moveRel, 0x21, none), (.jog, 0x22, none), (.softStart, 0x23, none),
    (.stop, 0x24, none), (.pathSegment, 0x28, none), (.pathGroupDefine, 0x29, some 0), (.pathGroupStart, 0x29, some 1),
    (.pathGroupHold, 0x29, some 2), (.pathGroupResume, 0x29, some 3), (.pathGroupAbort, 0x29, some 4), (.pathGroupRelease, 0x29, some 5),
    (.gearSet, 0x30, none), (.camSet, 0x31, none), (.homeStall, 0x39, none), (.compareArm, 0x40, none), (.latchArm, 0x41, none)]
  ++ [(.latticeLoad, 0x42, none), (.latticeRunPass, 0x43, some 0), (.latticeStop, 0x43, some 1), (.latticeUnload, 0x43, some 2),
    (.powerSet, 0x60, none), (.powerForce, 0x61, none), (.publishStart, 0x79, some 0), (.publishEnd, 0x79, some 1),
    (.quireArm, 0x80, some 0), (.quireForceTrigger, 0x80, some 1), (.quireStop, 0x80, some 2), (.quireDisarm, 0x80, some 3),
    (.timeSet, 0x90, none), (.timeSlew, 0x91, none),
    (.bankLoad, 0x11, none), (.bankSwap, 0x12, none), (.limitsSet, 0x25, none), (.stepConfig, 0x38, none)]

/-- The rows of descriptors that take effect at acceptance. -/
def immediateRows : List ((Nat → Source → Desc → Instr) × Nat × Option Nat) :=
  [(.slotConfig, 0x10, none), (.gladeLease, 0x50, none), (.gladeRelease, 0x51, none), (.gladeThin, 0x52, none),
    (.folioWrite, 0x58, none), (.folioRead, 0x59, none), (.programLoad, 0x5C, none), (.siglinkXfer, 0x68, none),
    (.endpointBind, 0x69, some 0), (.endpointUnbind, 0x69, some 1), (.canSend, 0x70, none), (.canCancel, 0x71, none),
    (.canRecover, 0x72, none), (.ringMembers, 0x78, none), (.tunnel, 0x7A, none), (.quireRead, 0x81, none)]
  ++ [(.checkContextRead, 0x88, some 0), (.checkContextWrite, 0x88, some 1), (.checkContextExchange, 0x88, some 2),
    (.tallyRead, 0xA0, none), (.calendarSet, 0xA1, none), (.safetyRecordWrite, 0xB0, none), (.safetyConfirm, 0xB1, none),
    (.lifecycleChange, 0xF0, none), (.parkRecordWrite, 0xF1, none)]

/-- The descriptor of a row, with its command byte. -/
def rowDesc (sub : Option Nat) (d : Desc) : Desc := match sub with
  | some v => withSub 16 v d
  | none => d

/-! ### Lanes -/

/-- R133, R134: a lane runs a job, fetches this word, which reads clean, and its datapath makes no error. -/
def LaneRuns (s : State) (l : LaneOp) (r : LaneRun) (w : Nat) : Prop := l.fetch = .clean ∧ l.err = 0 ∧ laneFetch s l w = some r

/-- R130, R139: a lane with a value in a data register, sat set where the value had to be saturated, and so many operations on. -/
def laneSets (l : LaneOp) (r : LaneRun) (a : Fin 16) (x : Int × Bool) (ops : Nat) (s : State) : State :=
  setRun l (advanceRun { r with v := r.v.set a (BitVec.ofInt 24 x.1), sat := r.sat || x.2 } 0 ops) s

/-- The same for an accumulator. -/
def accSets (l : LaneOp) (r : LaneRun) (a : Fin 2) (x : Int × Bool) (s : State) : State :=
  setRun l (advanceRun { r with acc := r.acc.set a (BitVec.ofInt 56 x.1), sat := r.sat || x.2 } 0 1) s

/-- R132: `x` at the place `i` of a list is the first of the best, as `better` orders what `key` gives. -/
def FirstBest (better : Int → Int → Prop) (key : Int → Int) (xs : List Int) (i : Nat) (x : Int) : Prop :=
  xs[i]? = some x ∧ ∀ j y, xs[j]? = some y → better (key x) (key y) ∨ (key x = key y ∧ i ≤ j)

end Sys2Proof.Machine
end

