-- ==== Sys2Proof/Certificates/Slice0/Obligations.lean ====
section
/-!
DEFINITION. The statements for the provers. `begin dt s` is the state `s` once the time `dt` has passed, and `closing s t` is
how a command that found `s` and whose own effect leaves `t` closes: what follows at once is settled and upd_seq fields rise.
-/

open Sys2Proof Sys2Proof.Machine

/-! ### The machine as a whole -/

/-- A step with a command at the front of the queue is that command's effect on the state with the queue's rest. -/
def Obligations.Step_runs_front_command : Prop :=
  ∀ (c : Instr) (rest : List Instr) (s : State), step { s with pending := c :: rest } = exec c { s with pending := rest }

/-- Log 2: on an empty queue the block idles. -/
def Obligations.Step_idles_on_empty_queue : Prop := ∀ s : State, s.pending = [] → step s = .next s

/-- R486 and the reset columns of the register tables: what reset leaves; no queue, no ring in service, every slot in OFF, D0 at 0,
CHIP_STATUS at its reset value, every counted store empty. -/
def Obligations.Reset_state_values : Prop :=
  State.reset.pending = [] ∧ State.reset.time.now = 0 ∧ State.reset.regs = [] ∧ State.reset.seqs = []
    ∧ State.reset.chip.powerGood = true ∧ State.reset.chip.understory = false ∧ State.reset.chip.fullService = false
    ∧ (∀ n : Fin 32, State.reset.axis.slots[n].mode = .off) ∧ (∀ n : Fin 8, ringOn State.reset (sqBase n) = false)
    ∧ readReg State.reset 0x2000 = 0xC ∧ readReg State.reset 0x1108 = 8 ∧ readReg State.reset 0x9010 = 5

/-- R468: FAULT_N is low exactly while one of its conditions holds: every step that answers keeps it so. -/
def Obligations.FaultN_follows_its_conditions : Prop :=
  ∀ s t : State, faultNSound s = true → step s = .next t → faultNSound t = true

/-- R114: every step keeps the upd_seq fields sound: 8 bits each, of status registers only, held in canonical form. -/
def Obligations.UpdSeq_stays_sound : Prop :=
  ∀ s t : State, seqsSound s = true → step s = .next t → seqsSound t = true

/-- R114: at the close of a command the upd_seq of a status register rises by 1 modulo 256 where a field that it covers has changed
and no change on the way has raised it yet, and in no other case; registers without the field have none. That of a ring's STATUS rises with
each change of the ring's cells. -/
def Obligations.UpdSeq_counts_changes : Prop :=
  (∀ (s t : State) (k : Nat), updSeq (bumpSeqs s t) k =
      if k ∈ seqKeys ∧ covered s k ≠ covered t k ∧ updSeq s k = updSeq t k then (updSeq t k + 1) % 256
      else if k ∈ seqKeys ++ ringKeys then updSeq t k % 256 else 0)
  ∧ (∀ (s : State) (k : Nat), seqsSound s = true →
      (∀ (n : Fin 8) (f : SubRing → SubRing), updSeq (modSq s n f) k =
        if k = sqBase n + 0xC ∧ sqStatus s n ≠ sqStatus (modSq s n f) n then (updSeq s k + 1) % 256 else updSeq s k)
      ∧ (∀ (r : OutRing) (f : WrRing → WrRing), updSeq (modWr s r f) k =
        if k = outBase r + 0xC ∧ wrStatus s r ≠ wrStatus (modWr s r f) r then (updSeq s k + 1) % 256 else updSeq s k))

/-- The close of a command leaves the state of its own effect as it is, but for upd_seq, where nothing follows of itself. -/
def Obligations.Quiet_close_changes_nothing : Prop :=
  ∀ s t : State, quiet t = true → closing s t = bumpSeqs s t

/-- R114, R468: the invariants of the machine hold at reset: FAULT_N is low, as it should be, no upd_seq has counted, and every
addressed store is in its canonical form. -/
def Obligations.Invariants_hold_at_reset : Prop :=
  faultNSound State.reset = true ∧ State.reset.fault.faultLow = true ∧ seqsSound State.reset = true
    ∧ (∀ k, updSeq State.reset k = 0) ∧ storesWf State.reset = true

/-- R417, R466 to R479: raising a happening changes nothing but the FAULT region, and of that neither the chip's causes nor FAULT_N, and the
sources that Quire has seen. -/
def Obligations.Happenings_change_only_the_fault_region : Prop :=
  ∀ (h : Hap) (s : State), ∃ (f : FaultSt) (q : List (Nat × Nat)), emit h s = { s with fault := f, quire := { s.quire with sourcesSeen := q } }
    ∧ f.causes = s.fault.causes ∧ f.chipGroups = s.fault.chipGroups ∧ f.faultLow = s.fault.faultLow

/-- R42, R114, R486: between two grants D0 advances by the time that has passed, and nothing changes but the counters of time: the domains,
Firebreak's own clock, the powered-time tallies, and the upd_seq of the registers that show them. While the chip is held in reset a command that neither ends the reset nor belongs to it does nothing else. -/
def Obligations.Time_passes_between_commands : Prop :=
  ∀ (dt : Nat) (eff : State → State) (s : State), (begin dt s).time.now = s.time.now + dt ∧ (begin dt s).out = [] ∧
    begin dt s = { s with
      out := [], time := { s.time with
        now := s.time.now + dt, d1 := (begin dt s).time.d1, d2 := (begin dt s).time.d2, d3 := (begin dt s).time.d3 }
      firebreak := { s.firebreak with ticks := (begin dt s).firebreak.ticks, tickFrac := (begin dt s).firebreak.tickFrac }
      tally := (begin dt s).tally
      seqs := (begin dt s).seqs }
    ∧ (seqsSound s = true → seqsSound (begin dt s) = true ∧ ∀ k, updSeq (begin dt s) k =
        if k ∈ timeKeys ∧ covered s k ≠ covered (begin dt s) k then (updSeq s k + 1) % 256 else updSeq s k)
    ∧ (s.life.inReset = true → after dt eff s = begin dt s)

/-! ### Bring-up, power and the chip (01, 19, 20) -/

/-- R43, R467, R487 to R489: the stages of bring-up have their effects: the wipe ends, the reference locks, understory service
and full service begin, the delay line is calibrated; BIST that loses a region ends in REGION_LOST, a chip-level cause of code 8. -/
def Obligations.Bring_up_stages_complete : Prop :=
  ∀ (dt : Nat) (s u : State), s.life.inReset = false → u = begin dt s →
    (u.life.clearing = true → exec (.clearingDone dt) s =
      .next (closing u (emit { source := 8, sev := .note, payload := leBytes 2 0x7F } { u with life := { u.life with clearing := false } })))
    ∧ exec (.referenceLock dt) s = .next (closing u { u with time := { u.time with refLocked := true, xtalOk := true } })
    ∧ (∀ lanes cells, u.chip.understory = false → u.life.clearing = false →
        ∃ v, v = bistIsolate false lanes cells u ∧ exec (.understoryStart dt lanes cells) s =
          .next (closing u (parkStart (emit { source := 0, sev := .note, payload := b1 1 } { v with chip := { v.chip with understory := true } }))))
    ∧ (∀ lanes cells, u.chip.understory = true → u.life.bistDone = false →
        ∀ v, v = bistIsolate true lanes cells { u with life := { u.life with bistDone := true } } → 6 ≤ inService v →
          exec (.bistEnd dt lanes cells none) s =
            .next (closing u (emit { source := 0, sev := .note, payload := b1 2 } (govFollow { v with chip := { v.chip with fullService := true } }))))
    ∧ (∀ lanes cells (r b : Byte), u.chip.understory = true → u.life.bistDone = false →
        ∀ v, v = bistIsolate true lanes cells { u with life := { u.life with bistDone := true } } →
          exec (.bistEnd dt lanes cells (some (r, b))) s = .next (closing u
            (raiseChip { source := 14, sev := .stop, payload := b1 r.toNat ++ b1 b.toNat } 8 { v with life := { v.life with lostRegion := true } })))
    ∧ (∀ taps, exec (.dlineCalibration dt taps true) s = .next (closing u { u with time := { u.time with dlineOk := true } })
        ∧ exec (.dlineCalibration dt taps false) s =
          .next (closing u (emit { source := 34, sev := .warning, payload := [taps] } { u with time := { u.time with dlineOk := false } })))

/-- R486: a chip reset that ends leaves everything at its reset value but the lifecycle state, the safety record and its
confirmation, the park record, the tallies and the calendar; the strap is sampled, the stored records are loaded, a calendar that was lost is reported, and the tally of power cycles
rises unless RESET_N caused it. What the model keeps besides: its queue and free values (log 1). -/
def Obligations.Chip_reset_resets_all_but_what_is_stored : Prop :=
  ∀ (dt : Nat) (kind : ResetKind) (strap : Bool) (bad : List (Fin 64)) (s u v : State), u = begin dt s →
    (kind = .powerGood → u.chip.powerGood = false ∨ u.life.inReset = true) → (kind = .selfReset → u.life.powerFailed = true) →
    v = reportCalendar (loadJournal bad { ({} : State) with
      pending := u.pending
      free := u.free
      out := u.out ++ resetOutputs u
      tally := u.tally
      svc := { strap := strap }
      firebreak := { record := u.firebreak.record, nvConfirmed := u.firebreak.nvConfirmed }
      life := {
        state := u.life.state
        park := u.life.park
        parkValid := parkGood u.life.park
        calendar := (u.life.calendar + (u.time.now - u.life.calFrom) / secLsb) % 2 ^ 32
        calFrom := 0
        calValid := u.life.calValid
        vbackupOk := u.life.vbackupOk
        calLost := u.life.calLost
        tj := u.life.tj
        vin := u.life.vin } }) →
    exec (.chipReset dt kind true strap bad) s = .next (if kind = .resetN then v
      else { v with tally := { v.tally with powerCycles := satU 32 (v.tally.powerCycles + 1) } })

/-- R486, R516: while RESET_N is low, or power is not good, the chip is held in reset; its release ends the reset. -/
def Obligations.Reset_is_held_and_released : Prop :=
  ∀ (dt : Nat) (s u : State), u = begin dt s →
    (∀ strap bad, ∃ t, exec (.chipReset dt .resetN false strap bad) s = .next t ∧ t.life.inReset = true ∧ t.life.resetNLow = true
      ∧ t.time.now = 0 ∧ t.regs = [] ∧ t.life.state = u.life.state)
    ∧ (u.life.resetNLow = true → u.chip.powerGood = true → ∀ strap, ∃ t, exec (.resetNRelease dt strap []) s = .next t
      ∧ t.life.inReset = false ∧ t.svc.strap = strap ∧ t.time.now = 0 ∧ t.regs = [])
    ∧ (∃ t, exec (.powerGoodFall dt true) s = .next t ∧ t.life.inReset = true ∧ t.chip.powerGood = false ∧ t.regs = [])
    ∧ (u.life.powerFailed = true → ∀ strap, ∃ t, exec (.powerRecoveryReset dt strap []) s = .next t ∧ t.life.inReset = false
      ∧ t.life.powerFailed = false ∧ 600 ≤ t.life.vin ∧ t.time.now = 0)

/-- R514, R483, R467, R506, R44: what the supervisor does as a supply, the junction or a clock leaves its range: the measured value is stored, and crossing
the limit is raised, voids the guarantees or is a cause of the chip level, as the manual says of each. -/
def Obligations.Supply_temperature_and_clock_limits : Prop :=
  ∀ (dt : Nat) (s u : State), s.life.inReset = false → u = begin dt s →
    (∀ tj : Byte, u.life.tj ≤ 115 → 115 < tj.toInt → exec (.thermal dt tj) s = .next (closing u
      (emit { source := 5, sev := .warning, payload := sgnBytes 1 tj.toInt } { u with life := { u.life with tj := tj.toInt, hot := true } })))
    ∧ (∀ tj : Byte, u.life.tj ≤ 125 → 125 < tj.toInt →
        ∀ e, e = raiseHap { u with life := { u.life with tj := tj.toInt, hot := true } }
            { source := 6, sev := .stop, handler := 3, payload := sgnBytes 1 tj.toInt } →
          exec (.thermalLimit dt tj) s = .next (closing u (chipCause 7 6 e.2.1 (voidCause 2 e.2.1 e.1))))
    ∧ (∀ tj : Byte, tj.toInt < -40 → exec (.junctionBelowRange dt tj) s = .next (closing u
        (voidCause 2 none { u with life := { u.life with tj := tj.toInt, hot := false } })))
    ∧ (∀ vin : BitVec 16, u.chip.powerGood = true → 600 ≤ u.life.vin → vin.toNat < 600 →
        ∀ e, e = raiseHap { u with life := { u.life with vin := vin.toNat } } { source := 2, sev := .warning, payload := leBytes 2 vin.toNat } →
          exec (.vinLow dt vin) s = .next (closing u (voidCause 2 e.2.1 e.1)))
    ∧ (∀ vin : BitVec 16, u.life.powerFailed = false → vin.toNat < 560 →
        ∀ e v, e = raiseHap { u with life := { u.life with vin := vin.toNat, powerFailed := true } }
            { source := 3, sev := .stop, handler := 3, payload := leBytes 2 vin.toNat } →
          v = chipCause 4 3 e.2.1 (voidCause 2 e.2.1 e.1) →
          exec (.powerFail dt vin) s =
            .next (closing u (writeTally 2 { v with tally := { v.tally with flushes := satU 16 (v.tally.flushes + 1) } })))
    ∧ (∀ rail mv, exec (.coreRail dt rail mv) s =
        .next (closing u (raiseChip { source := 4, sev := .stop, idx := rail.toNat, payload := [rail] ++ leBytes 2 mv.toNat } 5 u)))
    ∧ (∀ ratio : Word, (196608 < 100 * ((ratio.toNat : Int) - 65536).natAbs → exec (.xtalFault dt ratio) s = .next (closing u
        (raiseChip { source := 32, sev := .stop, payload := leBytes 4 ratio.toNat } 2 { u with time := { u.time with xtalOk := false } })))
      ∧ (100 * ((ratio.toNat : Int) - 65536).natAbs ≤ 196608 → exec (.xtalFault dt ratio) s = .next (closing u u)))
    ∧ exec (.refUnlock dt) s = .next (closing u (raiseChip { source := 33, sev := .stop } 3 { u with time := { u.time with refLocked := false } }))

/-- R36 to R38, R56: the snapshots: a write of 1 copies, a write while one is being taken is ignored, and the copy completes with its
sequence number one higher. -/
def Obligations.Snapshots_are_taken_and_complete : Prop :=
  ∀ (dt : Nat) (path : Path) (s u : State), s.life.inReset = false → u = begin dt s → pathOpen path u = true →
    (u.chip.auditBusy = false → exec (.auditSnap dt path) s = .next (closing u { u with chip := { u.chip with
        auditBusy := true, imageNext := auditWords u (Fin.ofNat 32 (regF u 0x0204 4 0))
        copied := auditCopy u (Fin.ofNat 32 (regF u 0x0204 4 0)) } }))
    ∧ (u.chip.auditBusy = true → exec (.auditSnap dt path) s = .next (closing u u))
    ∧ (u.chip.auditBusy = true → ∀ w, w = { u with chip := { u.chip with
          auditBusy := false, image := u.chip.imageNext, imageNext := [], snapSeq := u.chip.snapSeq + 1 } } →
        (u.chip.copied.void = true → exec (.auditSnapDone dt) s = .next (closing u w))
        ∧ (u.chip.copied.void = false → exec (.auditSnapDone dt) s = .next (closing u
            ((auditFails u.chip.copied u.chip.imageNext).foldl
              (fun s k => emit { source := 9, sev := .fault, chip := true, idx := k, payload := b1 k } s) w))))
    ∧ (u.time.xsnapBusy = false → exec (.timeXsnap dt path) s =
        .next (closing u { u with time := { u.time with xsnapBusy := true, xsnap := xsnapWords u } }))
    ∧ (u.time.xsnapBusy = true → exec (.timeXsnap dt path) s = .next (closing u u))
    ∧ (u.time.xsnapBusy = true → exec (.xsnapTaken dt) s = .next (closing u
        (emit { source := 42, sev := .note, payload := [u.time.xsnapSeq + 1] }
          { u with time := { u.time with xsnapBusy := false, xsnapSeq := u.time.xsnapSeq + 1 } })))
    ∧ (exec (.tallySnap dt path) s = .next (closing u
        { u with tally := { u.tally with image := tallyImage u, snapSeq := u.tally.snapSeq + 1 } }))

/-! ### Time base and domains (02) -/

/-- R49 to R55, R540: a master update of an UNSET domain steps it to the master and leaves it ACQUIRING; one of a domain that runs is slewed at the configured rate
with the estimate the manual gives, unless it may step. A TIME_SLEW under way ends; log 47: the first update of an UNSET domain counts as good. -/
def Obligations.Master_updates_discipline_a_domain : Prop :=
  ∀ (dt : Nat) (d : Dom) (m : T64) (s u : State), s.life.inReset = false → u = begin dt s → disciplined u d = true →
    ((domRec u.time d).state = .unset → exec (.domainMasterUpdate dt d m) s = .next (closing u
      (setDomState d .acquiring (setDom (stepDom d (diff64 m (domNow u d)) u) d (fun r => { r with
        lastUpdate := some u.time.now, seen := u.time.now, master := true, good := 1, phaseErr := 0 })))))
    ∧ ((domRec u.time d).state ≠ .unset →
        ∀ v theta, theta = diff64 m (domNow u d) →
          v = setDom (if (runningSlew u d).isSome then endSlew d u else u) d (fun r => { r with phaseErr := satS 16 theta |> max (-32767) }) →
          (mayStep v d theta = true → exec (.domainMasterUpdate dt d m) s = .next (closing u
            (reportStep d theta (setDomState d .acquiring (setDom (stepDom d theta
                (if (domRec u.time d).slewing then endSlew d v else v)) d (fun r => { r with
              lastUpdate := some u.time.now, seen := u.time.now, master := true
              good := 0, slewLeft := 0, slewing := false, rateClamped := false }))))))
          ∧ (mayStep v d theta = false → ∀ good freq need, freq = newFreq v d theta → need = freq + sgn theta * ppm (cfgPpm v d) →
              need.natAbs ≤ rateClamp →
              good = (if theta.natAbs ≤ 1600 then
                min 8 ((if (domRec u.time d).state = .free ∨ (domRec u.time d).state = .holdover then 0 else (domRec u.time d).good) + 1) else 0) →
              exec (.domainMasterUpdate dt d m) s = .next (closing u (setDomState d (afterUpdate good false) (setDom v d (fun r => { r with
                lastUpdate := some u.time.now, seen := u.time.now, master := true, good := good, freq := freq, slewLeft := theta * 2 ^ 40
                slewPpm := cfgPpm v d, slewTotal := theta, slewing := theta != 0, rateClamped := false }))))))

/-- R51, R69: holdover begins after loss_count missed updates and is reported once past its limit; a slew ends when nothing of it is left. -/
def Obligations.Holdover_and_slews_end_as_stated : Prop :=
  ∀ (dt : Nat) (d : Dom) (s u : State) (r : Domain), s.life.inReset = false → u = begin dt s → r = domRec u.time d →
    (disciplined u d = true → (r.state = .acquiring ∨ r.state = .locked) →
        r.seen + max 1 (regF u (domBase (domCode d)) 7 4) * updInterval u d ≤ u.time.now →
        exec (.holdoverEntry dt d) s = .next (closing u (setDomState d .holdover (setDom (endSlew d u) d (fun r => { r with
          master := false, lastUpdate := none, good := 0, rateClamped := false
          holdSince := u.time.now, holdReported := false })))))
    ∧ (d ≠ .d0 → r.state = .holdover → r.holdReported = false → regF u (domBase (domCode d)) 31 16 ≠ 0 →
        r.holdSince + regF u (domBase (domCode d)) 31 16 * 100 * msLsb ≤ u.time.now →
        ∀ v, v = setDom u d (fun r => { r with holdReported := true }) →
        exec (.holdoverLimit dt d) s = .next (closing u (emit { source := 36, sev := .warning, idx := domCode d
                                                                payload := b1 (domCode d) ++ leBytes 4 (holdMs v d) } v)))
    ∧ (r.slewing = true → r.slewLeft = 0 → runningSlew u d = none → exec (.slewDone dt d) s = .next (closing u
        (emit { source := 38, sev := .note, idx := domCode d, payload := b1 (domCode d) ++ sgnBytes 8 r.slewTotal }
          (setDom u d (fun r => { r with slewing := false })))))

/-- R50, R51, R67: a write of TIME_Dn_CFG sets its fields; setting discipline starts the count of master updates anew, and a domain that ceases to
follow its master runs on free. -/
def Obligations.Discipline_writes_start_and_end_following : Prop :=
  ∀ (dt : Nat) (path : Path) (d : Dom) (value : Word) (s u v : State), s.life.inReset = false → u = begin dt s → pathOpen path u = true →
    d ≠ .d0 → v = writeRw u (domBase (domCode d)) value.toNat →
    (disciplined u d = disciplined v d → exec (.timeDisciplineWrite dt path d value) s = .next (closing u v))
    ∧ (disciplined u d = false → disciplined v d = true → (domRec v.time d).slewing = false →
        exec (.timeDisciplineWrite dt path d value) s =
          .next (closing u (setDom v d (fun r => { r with master := false, lastUpdate := none, good := 0 }))))
    ∧ (disciplined u d = true → disciplined v d = false → exec (.timeDisciplineWrite dt path d value) s = .next (closing u (freeDom d v)))

/-- R61, R63, R64: a placer drives its next edge once it is due, with the target it was queued with: on time, or late where it entered late or
was held for the minimum width, which it waits for. -/
def Obligations.Placers_drive_due_edges : Prop :=
  ∀ (dt : Nat) (p : Fin 12) (e : Edge) (rest : List Edge) (s u : State), s.life.inReset = false → u = begin dt s →
    u.time.placers[p].queue = e :: rest → edgeDue u e ≤ u.time.now → e.level ≠ u.time.placers[p].level →
    ∀ v, v = modPlacer u p (fun pl => { pl with queue := rest }) →
    (heldBack u p e = false → e.late = false →
      ∃ t, exec (.placerEdge dt p) s = .next (closing u t) ∧ t.time.placers[p].queue = rest ∧ t.time.placers[p].level = e.level
        ∧ t.time.placers[p].lastEdge = some u.time.now
        ∧ t.out = [.edge p e.level e.target (BitVec.ofNat 64 u.time.now) false])
    ∧ (heldBack u p e = false → e.late = true → exec (.placerEdge dt p) s = .next (closing u (driveLate p e v)))
    ∧ (heldBack u p e = true → u.time.now < u.time.placers[p].lastEdge.getD 0 + minWidth u p → exec (.placerEdge dt p) s = .next (closing u u))
    ∧ (heldBack u p e = true → u.time.placers[p].lastEdge.getD 0 + minWidth u p ≤ u.time.now →
      exec (.placerEdge dt p) s = .next (closing u (driveLate p e v)))

/-- R66: at a multiple of the period both edges of a pulse are queued, of the configured width and polarity. -/
def Obligations.Pps_pulses_queue_two_edges : Prop :=
  ∀ (dt : Nat) (s u : State) (d : Dom) (t into : Nat), s.life.inReset = false → u = begin dt s → d = domOf (regF u 0x2200 2 1) →
    t = (domNow u d).toNat → into = t % ppsPeriod u → regB u 0x2200 0 = true → unset u d = false → into < 40 →
    ∀ lead level, lead = BitVec.ofNat 64 (t - into) → level = !regB u 0x2200 3 →
    ∀ v, v = putEdge 11 { target := lead, dom := d, level := level, owner := .pps } true u →
    exec (.ppsPulse dt) s = .next (closing u
      (putEdge 11 { target := lead + BitVec.ofNat 64 (ppsWidth v), dom := d, level := !level, owner := .pps } true v))

/-- R68, R69, R97: at their apply times the TIME_SETs and the TIME_SLEWs of a domain take effect, in the order of acceptance; a TIME_SLEW sets the correction that
the domain then slews, or is rejected where the domain has come to be disciplined. -/
def Obligations.Timed_settings_take_effect_in_order : Prop :=
  ∀ (dt : Nat) (d : Dom) (s u : State) (fs : List InFlight), s.life.inReset = false → u = begin dt s →
    (fs = timeReady 0x90 d u → (∀ f ∈ fs, f.group = none) →
        exec (.timeSetApply dt d) s = .next (closing u (fs.foldl (takeOne timeNow) u)))
    ∧ (fs = timeReady 0x91 d u → (∀ f ∈ fs, f.group = none) →
        exec (.timeSlewApply dt d) s = .next (closing u (fs.foldl (takeOne timeNow) u)))
    ∧ (∀ (f : InFlight) (v : State), disciplined v (timeTarget f) = true →
        timeSlewNow f v = complete f.id 0x0032 0 (domCode (timeTarget f)) none v)
    ∧ (∀ (f : InFlight) (v : State), timeTarget f ≠ .d0 → disciplined v (timeTarget f) = false →
        (domRec (timeSlewNow f v).time (timeTarget f)).slewLeft = pS f.payload 24 8 * 2 ^ 40
          ∧ (domRec (timeSlewNow f v).time (timeTarget f)).slewing = true)

/-! ### Rings, doorbells and completions (03) -/

/-- R79 to R81, R85: a tail that publishes entries which the ring can hold is recorded, and the device asks for entries unless it has a read under way; a doorbell of a
ring that is off or in error is discarded, and one that breaks the protocol puts the ring in error with the kind the manual gives. The bell window reads as 0, and a write of an offset
that it does not assign is discarded. -/
def Obligations.Submission_doorbells_publish_entries : Prop :=
  ∀ (dt : Nat) (n : Fin 8) (value : Word) (s u w : State), s.life.inReset = false → u = begin dt s →
    ((ringOn u (sqBase n) = false ∨ u.host.sq[n].error = true) → exec (.sqTail dt n value) s = .next (closing u u))
    ∧ (ringOn u (sqBase n) = true → u.host.sq[n].error = false →
        (65536 ≤ value.toNat → exec (.sqTail dt n value) s = .next (closing u (ringViolation (.sq n) 2 value.toNat u)))
        ∧ (value.toNat < 65536 → ringSize u (sqBase n) ≤ value.toNat →
            exec (.sqTail dt n value) s = .next (closing u (ringViolation (.sq n) 1 value.toNat u)))
        ∧ (value.toNat < 65536 → value.toNat < ringSize u (sqBase n) →
            (value.toNat + ringSize u (sqBase n) - u.host.sq[n].tail) % ringSize u (sqBase n) ≤ ringSize u (sqBase n) - outstanding u n →
            w = modSq u n (fun q => { q with
              tail := value.toNat
              published := q.published + (value.toNat + ringSize u (sqBase n) - u.host.sq[n].tail) % ringSize u (sqBase n) }) →
            exec (.sqTail dt n value) s = .next (closing u (if u.host.sq[n].asked = 0 then requestFetch w n else w)))
        ∧ (value.toNat < 65536 → value.toNat < ringSize u (sqBase n) →
            ringSize u (sqBase n) - outstanding u n < (value.toNat + ringSize u (sqBase n) - u.host.sq[n].tail) % ringSize u (sqBase n) →
            exec (.sqTail dt n value) s = .next (closing u (ringViolation (.sq n) 2 value.toNat u))))
    ∧ (∀ off, bellRead off = 0)
    ∧ (∀ off, (off % 4 ≠ 0 ∨ (0x20 ≤ off ∧ off < 0x40) ∨ (0x60 ≤ off ∧ off < 0x80) ∨ (0x84 ≤ off ∧ off < 0xA0) ∨ (0xB0 ≤ off ∧ off < 0xC0)
        ∨ 0xC4 ≤ off) → bellWrite off value u = u)

/-- R80, R81, R83: a head that returns entries the device has written is recorded and frees them: for a completion ring, acceptance and waiting
frames go on. -/
def Obligations.Head_doorbells_return_entries : Prop :=
  ∀ (dt : Nat) (r : OutRing) (value : Word) (s u w : State) (back : Nat), s.life.inReset = false → u = begin dt s →
    ringOn u (outBase r) = true → (wrRing u r).error = false → value.toNat < 65536 → value.toNat < ringSize u (outBase r) →
    back = (value.toNat + ringSize u (outBase r) - (wrRing u r).head) % ringSize u (outBase r) → back ≤ (wrRing u r).used →
    w = modWr u r (fun x => { x with head := value.toNat, used := x.used - back }) →
    (∀ n, r = .cq n → exec (.cqHead dt n value) s = .next (closing u (canPumpAll (drain w))))
    ∧ (r = .evq → exec (.evqHead dt value) s = .next (closing u w))
    ∧ (∀ n, r = .str n → exec (.strHead dt n value) s = .next (closing u w))

/-- R101: the coalescing timer of a completion or stream ring signals the ring's vector coal_us after the oldest unsignalled entry. R103: a heartbeat restarts the timer, is stamped, and after a loss raises HB_RESUMED; without one for timeout_ms the loss is counted and, with action 0, only raised. -/
def Obligations.Heartbeats_and_coalescing_timers : Prop :=
  ∀ (dt : Nat) (s u v : State), s.life.inReset = false → u = begin dt s →
    (v = { u with host := { u.host with hbLast := markNow u, hbFrom := u.time.now, hbLost := false } } →
      (u.host.hbLost = false → exec (.heartbeat dt) s = .next (closing u v))
      ∧ (u.host.hbLost = true → exec (.heartbeat dt) s = .next (closing u (emit
          { source := 19, sev := .note, payload := leBytes 4 (t32 (u.host.hbLast.inDom (evtDomain v)).t).toNat } v))))
    ∧ (regF u 0x1008 15 0 ≠ 0 → u.host.hbLost = false → u.host.hbFrom + regF u 0x1008 15 0 * msLsb ≤ u.time.now →
        v = { u with host := { u.host with hbLost := true, hbLostCount := satU 16 (u.host.hbLostCount + 1) } } →
        (regF u 0x1008 17 16 = 0 → exec (.hbLost dt) s = .next (closing u
          (emit { source := 18, sev := .warning, idx := 0, payload := leBytes 2 (regF u 0x1008 15 0) ++ b1 0 } v)))
        ∧ (∀ w, regF u 0x1008 17 16 = 1 → w = emit { source := 18, sev := .warning, idx := 1, payload := leBytes 2 (regF u 0x1008 15 0) ++ b1 1 } v →
            exec (.hbLost dt) s = .next (closing u (orphanApply stHbOrphan 0 (purgeFences stHbOrphan 0
              (modHost w (fun h => { h with orphanStop := regB v 0x1000 0 }))))))
        ∧ (2 ≤ regF u 0x1008 17 16 → exec (.hbLost dt) s = .next (closing u
          (raiseSs1
            { source := 18, sev := .fault, idx := regF u 0x1008 17 16, payload := leBytes 2 (regF u 0x1008 15 0) ++ b1 (regF u 0x1008 17 16) }
            6 (List.finRange 8) v))))
    ∧ (∀ (r : OutRing) (t : Nat), coalUs u (outBase r) ≠ 0 → t + coalUs u (outBase r) * usLsb ≤ u.time.now →
        (r ≠ .evq → (wrRing u r).oldest = some t → exec (.coalesceTimer dt r) s = .next (closing u
            (signalVec (regF u (outBase r + 8) 14 10) (modWr u r (fun w => { w with unsig := 0, oldest := none })))))
        ∧ (∀ v k, r = .evq → u.fault.unsig = [(v, k, t)] → exec (.coalesceTimer dt r) s = .next (closing u
            (signalVec v { u with fault := { u.fault with unsig := [] } }))))

/-- R82 to R85: entries that a fetch returns wait at their ring, and the device accepts what it can; a failed fetch puts the ring in error.
R71, R85: a read request asks for at most 8 entries, what is published, and does not cross
the ring's end or the largest request. R92, R93, R95, R106: the completion that is due next is written to its ring, or, where it asks for none, suppressed and counted; a held one is delivered
once its ring can take it. -/
def Obligations.Entries_are_fetched_and_completions_written : Prop :=
  ∀ (dt : Nat) (c : Cpl) (q n : Fin 8) (s u : State), s.life.inReset = false → u = begin dt s →
    (pickDue u = some c → c.src = .sq n → suppressed c = true →
        exec (.completionWrite dt .ok) s = .next (closing u (drain (releaseFences (suppress c u)))))
    ∧ (pickDue u = some c → c.src = .sq n → suppressed c = false → c.cq = some q → c.toCq0 = false → ringOn u (cqBase q) = true →
        u.host.cq[q].error = false → u.host.done.any (fun x => x.held && !x.toCq0 && x.cq == some q) = false →
        exec (.completionWrite dt .ok) s = .next (closing u (drain (releaseFences (writeCpl q c u))))
        ∧ ∀ code, exec (.completionWrite dt (.failed code)) s =
            .next (closing u (drain (releaseFences (holdCpl c (ringDmaError (.out (.cq q)) code u))))))
    ∧ (∀ w, bestBy (fun (a b : Cpl) => decide (a.order < b.order)) (u.host.done.filter (heldReady u)) = some c → heldRing c = some q →
        w = modHost (writeCpl q c u) (fun h => { h with heldWritten := h.heldWritten + 1 }) → heldCount w ≠ 0 →
        exec (.heldCompletionDelivery dt .ok) s = .next (closing u w))
    ∧ (ringOn u (sqBase n) = true → u.host.sq[n].error = false → u.host.sq[n].asked ≠ 0 →
        (∀ es, exec (.descriptorFetch dt n (.ok es)) s =
          .next (closing u (drain (requestFetch (modSq u n (fun q => { q with fetched := q.fetched ++ es.take u.host.sq[n].asked })) n))))
        ∧ (∀ code, exec (.descriptorFetch dt n (.failed code)) s =
          .next (closing u (ringDmaError (.sq n) code (modSq u n (fun q => { q with asked := 0 }))))))
    ∧ ((nextFetch u n).2 ≤ 8 ∧ 64 * (nextFetch u n).2 ≤ maxRead u ∧ (nextFetch u n).2 ≤ outstanding u n - u.host.sq[n].fetched.length
        ∧ (nextFetch u n).2 ≤ ringSize u (sqBase n) - (nextFetch u n).1)

/-- R102 to R105: the link comes up and goes down, PTM dialogues, one in a ptm_interval, update D3 and ptm_valid, and the host acknowledges the orphan policy. -/
def Obligations.Link_and_ptm_state : Prop :=
  ∀ (dt : Nat) (path : Path) (s u : State), s.life.inReset = false → u = begin dt s →
    (∀ speed : BitVec 2, u.host.linkUp = false → exec (.pcieLinkUp dt speed) s = .next (closing u
        (emit { source := 21, sev := .note, payload := b1 speed.toNat }
          { u with host := { u.host with linkUp := true, linkSpeed := speed, downAt := none } })))
    ∧ (u.host.linkUp = true → exec (.pcieLinkDown dt) s =
        .next (closing u { u with host := { u.host with linkUp := false, downAt := some u.time.now } }))
    ∧ (ptmDue u = true → ∀ w, w = modHost u (fun h => { h with lastPtm := some u.time.now }) →
        exec (.ptmDialogue dt none) s = .next (closing u (setPtm false w))
        ∧ ∀ ns : T64, exec (.ptmDialogue dt (some ns)) s = .next (closing u
            (masterUpdateEff .d3 ((ns - BitVec.ofNat 64 (reg u 0x21A0 + 2 ^ 32 * reg u 0x21A4)) * 16) (setPtm true w))))
    ∧ (ptmDue u = false → ∀ r, exec (.ptmDialogue dt r) s = .next (closing u u))
    ∧ (pathOpen path u = true →
        exec (.orphanAck dt path) s = .next (closing u { u with host := { u.host with orphanActive := false } }))

/-- R104 to R106: a HOST-region reset is raised with its kind and the policy that HOST_CTRL holds, FENCEs that wait are purged, the orphan policy starts, and the HOST block goes to its
reset values; the descriptors keep their state. A lost link does the same after 2 ms. -/
def Obligations.Host_resets_apply_the_orphan_policy : Prop :=
  ∀ (dt k : Nat) (s u v : State), s.life.inReset = false → u = begin dt s →
    v = resetHost (orphanApply stHostReset k (purgeFences stHostReset k
      (emit { source := 20, sev := .warning, idx := k, payload := b1 k ++ b1 (ofBool (regB u 0x1000 0)) ++ leBytes 2 (min (u.host.flight.length + u.host.done.length) 65535) }
        { u with host := { u.host with orphanStop := regB u 0x1000 0 } }))) →
    (k = 0 → exec (.hostRegionReset dt .perst) s = .next (dropHostSeqs (closing u v)))
    ∧ (k = 1 → exec (.hostRegionReset dt .hot) s = .next (dropHostSeqs (closing u v)))
    ∧ (k = 2 → exec (.hostRegionReset dt .flr) s = .next (dropHostSeqs (closing u v)))
    ∧ (∀ t, k = 3 → u.host.downAt = some t → t + 2 * msLsb ≤ u.time.now → exec (.linkLoss dt) s = .next (dropHostSeqs (closing u v)))
    ∧ (∀ x : State, (resetHost x).host.sq = Vector.replicate 8 {} ∧ (resetHost x).host.cq = Vector.replicate 8 {}
        ∧ (resetHost x).host.linkUp = false ∧ (resetHost x).host.flight.length = x.host.flight.length
        ∧ (resetHost x).host.descAcc = x.host.descAcc)

/-! ### Set-up registers and the service port (04) -/

/-- R110, R112: a write of a register takes the writable bits and leaves the others, and it changes no other register's fields. -/
def Obligations.Register_fields_hold_what_is_written : Prop :=
  ∀ (s : State) (o p v : Nat), Memory.wf regDefault s.regs = true →
    Memory.wf regDefault (writeRw s o v).regs = true
    ∧ reg (writeRw s o v) p =
        (if p = o then Nat.lor (Nat.land v (regMask o)) (Nat.land (reg s o) (Nat.xor 0xFFFFFFFF (regMask o))) else reg s p)
    ∧ writeRw s o v = { s with regs := (writeRw s o v).regs }

/-- R73, R108, R112: a whole aligned word written through an open path is written; one whose byte enables do not cover the word is discarded and counted;
a ring's enable starts it empty. -/
def Obligations.Register_writes_complete : Prop :=
  ∀ (dt : Nat) (path : Path) (addr : BitVec 16) (value : Word) (s u : State), s.life.inReset = false → u = begin dt s → pathOpen path u = true →
    (addr.toNat % 4 = 0 → exec (.registerWrite dt path addr value 15) s = .next (closing u (regWrite path addr.toNat value.toNat u)))
    ∧ (∀ be : BitVec 4, be ≠ 15 → path = .pcie → exec (.registerWrite dt path addr value be) s = .next (closing u
        (emitLim msLsb 0 (fun _ => { source := 27, sev := .note, payload := leBytes 2 addr.toNat })
          { u with host := { u.host with partialWrites := u.host.partialWrites + 1 } })))
    ∧ (∀ r : Ring, regB u (ringBase r + 8) 0 = false → value.toNat % 2 = 1 →
        exec (.ringEnable dt path r value) s = .next (closing u
          (canPumpAll (drain (noteRing u r (startRing r (writeRw u (ringBase r + 8) value.toNat)))))))
    ∧ (∀ r : Ring, regB u (ringBase r + 8) 0 = true → value.toNat % 2 = 0 →
        exec (.ringEnable dt path r value) s = .next (closing u
          (noteRing u r (setReg u (ringBase r + 8) (putBits (reg u (ringBase r + 8)) 0 0 0)))))

/-- R113, R130: reading the low word of an RS register returns it and latches the higher word for the path; reading the program-store window returns its word and moves the
address on. -/
def Obligations.Snapshot_reads_latch_their_path : Prop :=
  ∀ (dt : Nat) (path : Path) (addr : BitVec 16) (s u : State), s.life.inReset = false → u = begin dt s → (path = .svc → svcUp u = true) →
    (∀ h, addr.toNat % 4 = 0 → rsHigh addr.toNat = some h → addr.toNat ≠ 0x3084 → ∃ t, exec (.rsLowRead dt path addr) s = .next (closing u t)
      ∧ t.out = [.words [readReg u addr.toNat]] ∧ latchAt t path h = some { path := path, off := h, val := readReg u h })
    ∧ (∀ a, a = regF u 0x3080 11 0 → exec (.pswDataRead dt path) s = .next (closing u { setReg u 0x3080 ((a + 1) % 4096) with
        out := [.words [if a < 3072 then Config.rom a else BitVec.ofNat 32 (ramWord u (a - 3072))]] }))

/-- R118 to R123: complete frames of the service port: a write puts its words and is counted, a read answers with the status byte and its words, STATUS and IDENT answer with theirs, an
unknown command sets its flag, and an aborted frame is counted. -/
def Obligations.Service_frames_complete : Prop :=
  ∀ (dt : Nat) (s u b : State), s.life.inReset = false → u = begin dt s → b = frameBegin u → svcUp u = true →
    (∀ addr data v, ¬ (frameSpace addr = 1 ∧ frameOff addr = 0 ∧ data.length = 16) → v = svcPutWords addr data b →
        exec (.svcWrite dt addr data) s = .next (closing u (frameEnd { v with svc := { v.svc with frames := v.svc.frames + 1 } })))
    ∧ (∀ addr words r, frameSpace addr = 0 → frameOff addr % 0x1000 + 4 * words ≤ 0x1000 → words ≤ 32 → r = svcGetWords addr words b →
        exec (.svcRead dt addr words) s = .next (closing u (frameEnd (svcReply r.1 r.2))))
    ∧ exec (.svcStatus dt) s = .next (closing u (frameEnd (svcReply [readReg u 0x10] b)))
    ∧ exec (.svcIdent dt) s = .next (closing u (frameEnd (svcReply [readReg u 0x0, readReg u 0x4, readReg u 0x8, readReg u 0xC] b)))
    ∧ exec (.svcUnknownCommand dt) s = .next (closing u (frameEnd { b with svc := { b.svc with unknown := true } }))
    ∧ (∀ addr data bits part, exec (.svcFrameAbort dt false addr data bits part) s =
        .next (closing u (frameEnd { b with svc := { b.svc with aborts := b.svc.aborts + 1, abort := true } })))
    ∧ (∀ addr (bits : Fin 32) (part : Word), bits ≠ 0 → frameSpace addr = 0 → onRelease addr 0 = false →
        ∀ v, v = bumpSeqs b (svcWord addr 0 (part.toNat % 2 ^ bits.val) b) →
        exec (.svcFrameAbort dt true addr [] bits part) s =
          .next (closing u (frameEnd { v with svc := { v.svc with aborts := v.svc.aborts + 1, abort := true } })))
    ∧ b.svc.frameActive = true ∧ (frameEnd b).svc.frameActive = false

/-- R123: a service completion that waits is returned with its 32 bytes and removed. R120: a reply's status byte holds the flags raised since the one before and the count of frames modulo 8, and reporting clears the flags. -/
def Obligations.Service_replies_and_completions : Prop :=
  ∀ (ws : List Word) (s : State), (svcReply ws s).out = s.out ++ [.status (svcByte s), .words ws]
    ∧ (svcReply ws s).svc = { s.svc with
        range := false, abort := false, denied := false, busy := false, unknown := false, frames := s.svc.frames + 1 }
    ∧ svcByte s = BitVec.ofNat 8 (ofBool s.svc.range + 2 * ofBool s.svc.abort + 4 * ofBool s.svc.denied + 8 * ofBool s.svc.busy
        + 16 * ofBool s.svc.unknown + 32 * (s.svc.frames.toNat % 8))
    ∧ svcByte (svcReply ws s) = BitVec.ofNat 8 (32 * ((s.svc.frames + 1).toNat % 8))
    ∧ (∀ (dt words : Nat) (addr : BitVec 24) (u : State), s.life.inReset = false → u = begin dt s → svcUp u = true → 2 ≤ frameSpace addr →
        ∃ t, exec (.svcRead dt addr words) s = .next (closing u t) ∧ t.svc.range = true
          ∧ t.out = [.status (svcByte u), .words (List.replicate words 0)])
    ∧ (∀ (dt : Nat) (u : State) (c : BitVec 256) (rest : List (BitVec 256)), s.life.inReset = false → u = begin dt s → svcUp u = true → u.svc.cpls = c :: rest →
        ∃ t, exec (.svcCompletionRead dt) s = .next (closing u t) ∧ t.svc.cpls = rest ∧ t.svc.frames = u.svc.frames + 1
          ∧ t.out = [.status (svcByte u), .words ((List.range 8).map (fun i => BitVec.ofNat 32 (bits c.toNat (32 * i + 31) (32 * i))))])


/-! ### Descriptors (03) and what they do -/

/-- R82, R83, R88, R115, R123, R125: a descriptor submitted at the service port in a frame of its own is accepted where there is room: the first check that fails rejects it with its status and detail; a checked one takes
effect at once or waits for its instant. Without room BUSY is set; where the lifecycle refuses it DENIED is. -/
def Obligations.Service_descriptors_are_accepted : Prop :=
  ∀ (dt : Nat) (r : RawDesc) (s u b w : State) (f : InFlight), s.life.inReset = false → u = begin dt s → b = frameBegin u →
    (svcUp u = true → (u.chip.fullService = false ∨ svcRefuses u r = true) → exec (.svcDescriptorSubmit dt r) s =
        .next (closing u (frameEnd { b with svc := { b.svc with frames := b.svc.frames + 1, denied := true } })))
    ∧ (svcUp u = true → u.chip.fullService = true → svcRefuses u r = false →
        (512 ≤ flightCount u ∨ heldCount u ≠ 0 ∨ 8 ≤ u.svc.cpls.length + u.svc.reserved) → exec (.svcDescriptorSubmit dt r) s =
        .next (closing u (frameEnd { b with svc := { b.svc with frames := b.svc.frames + 1, busy := true } })))
    ∧ (svcTakes r b = true → (f, w) = svcFlight r b → f.opcode ≠ 0x70 → passes r b = true → isImmediate f w = false →
        exec (.svcDescriptorSubmit dt r) s =
          .next (closing u (svcDone (modFlight w f.id (fun x => { x with due := dueOf f false (applyOf w .svc r) w })))))

/-- R60, R82, R89: every descriptor that acts at an instant of its target, and passes its checks, waits in flight for the instant that the manual chooses. -/
def Obligations.Timed_descriptor_rows_wait_for_their_instant : Prop :=
  ∀ row ∈ timedRows, ∀ (dt : Nat) (d : Desc) (r : RawDesc) (s u b w : State) (f : InFlight), s.life.inReset = false → u = begin dt s → b = frameBegin u →
    r = rawOf row.2.1 (rowDesc row.2.2 d) → svcTakes r b = true → (f, w) = svcFlight r b → passes r b = true → isImmediate f w = false →
    ∃ t, exec (row.1 dt .svc d) s = .next (closing u (svcDone t))
      ∧ t = modFlight w f.id (fun x => { x with due := dueOf f false (applyOf w .svc r) w })

/-- R82, R85: a descriptor row from a submission ring is the fetch of its entry, alone; from the service port it is its submission. -/
def Obligations.Descriptor_rows_come_from_their_source : Prop :=
  ∀ row ∈ timedRows ++ immediateRows, ∀ (dt : Nat) (d : Desc) (s : State),
    exec (row.1 dt .svc d) s = exec (.svcDescriptorSubmit dt (rawOf row.2.1 (rowDesc row.2.2 d))) s
    ∧ ∀ n : Fin 8, exec (row.1 dt (.sq n) d) s = exec (.descriptorFetch dt n (.ok [rawOf row.2.1 (rowDesc row.2.2 d)])) s

/-- R99, R100: NOP completes at once; a FENCE in wait mode waits, and is released when every masked descriptor before it has completed. -/
def Obligations.Nops_and_fences_complete : Prop :=
  ∀ (dt : Nat) (d : Desc) (r : RawDesc) (s u b w : State) (f : InFlight), s.life.inReset = false → u = begin dt s → b = frameBegin u →
    (r = rawOf 0x02 d → svcTakes r b = true → (f, w) = svcFlight r b → passes r b = true →
        exec (.nop dt (.descriptor .svc d)) s = .next (closing u (svcDone (completeOk f.id (some (nowStamp w)) w))))
    ∧ (r = rawOf 0x01 (withSub 17 0 d) → svcTakes r b = true → (f, w) = svcFlight r b → passes r b = true →
        exec (.fenceWait dt .svc d) s = .next (closing u (svcDone (releaseFences (modFlight w f.id (fun x => { x with due := .running }))))))
    ∧ (r = rawOf 0x01 (withSub 17 1 d) → svcTakes r b = true → (f, w) = svcFlight r b → passes r b = true →
        exec (.fencePurge dt .svc d) s = .next (closing u (svcDone (fenceNow f w))) ∧ pU f.payload 17 1 = 1)

/-- R189, R195 to R199, R222, R245: the set-up of a slot in OFF takes effect at acceptance. -/
def Obligations.Slot_setup_takes_effect_at_acceptance : Prop :=
  ∀ (dt : Nat) (d : Desc) (r : RawDesc) (s u b w : State) (f : InFlight), s.life.inReset = false → u = begin dt s → b = frameBegin u → svcTakes r b = true →
    (f, w) = svcFlight r b → passes r b = true → w.axis.slots[slotT f].mode = .off →
    (r = rawOf 0x10 d → exec (.slotConfig dt .svc d) s = .next (closing u (svcDone
        (completeOk f.id (some f.accStamp) (modSlot (releaseStepPins (slotT f) [] w) (slotT f) (rebind (bindingOf f.payload)))))))
    ∧ (r = rawOf 0x11 d → (isPair (pU f.payload 16 1) = false ∨ pU f.payload 17 1 ≠ 0) → exec (.bankLoad dt .svc d) s = .next (closing u (svcDone
        (complete f.id stOK (pU f.payload 16 1) 0 (some (nowStamp w)) (fogSlot (slotT f) (modSlot w (slotT f) (loadPart f.payload false)))))))
    ∧ (r = rawOf 0x12 d → exec (.bankSwap dt .svc d) s = .next (closing u (svcDone (bankSwapNow f (nowStamp w) w))))
    ∧ (r = rawOf 0x25 d → w.axis.slots[slotT f].limits = none → exec (.limitsSet dt .svc d) s = .next (closing u (svcDone
        (completeOk f.id (some (nowStamp w)) (modSlot w (slotT f) (fun sl => { sl with limits := some {
          vmax := pS f.payload 16 4, amax := pS f.payload 20 4, dmax := pS f.payload 24 4, jmax := pS f.payload 28 4
          stopDec := pS f.payload 32 4, stopJerk := pS f.payload 36 4, reject := bit (pU f.payload 40 1) 0 } }))))))
    ∧ (r = rawOf 0x38 d → exec (.stepConfig dt .svc d) s = .next (closing u (svcDone (stepCfgNow f (nowStamp w) w))))

/-- R166 to R173: a lease, release or thinning that the Glade's state permits takes effect at acceptance, or is deferred while a thinning is under way; a lease is entered, its words are
zeroed and its leaves start from their initial state. -/
def Obligations.Glade_descriptors_take_effect : Prop :=
  ∀ (dt : Nat) (d : Desc) (r : RawDesc) (s u b w : State) (f : InFlight), s.life.inReset = false → u = begin dt s → b = frameBegin u → svcTakes r b = true →
    (f, w) = svcFlight r b → passes r b = true →
    (r = rawOf 0x50 d → w.glade.thin = none → leaseStateCheck f w = none →
        exec (.gladeLease dt .svc d) s = .next (closing u (svcDone (runDeferred 600 (leaseNow f w)))))
    ∧ (r = rawOf 0x51 d → w.glade.thin = none → releaseStateCheck f w = none →
        exec (.gladeRelease dt .svc d) s = .next (closing u (svcDone (runDeferred 600 (complete f.id stOK
          (((releaseSet f w).map (fun l => l.2.words)).foldl (· + ·) 0 : Nat) 0 (some (nowStamp ((releaseSet f w).foldl freeLease w)))
          ((releaseSet f w).foldl freeLease w))))))
    ∧ (r = rawOf 0x52 d → w.glade.thin = none → thinStateCheck f w = none →
        exec (.gladeThin dt .svc d) s = .next (closing u (svcDone (runDeferred 600 (thinNow f w)))))
    ∧ (r = rawOf 0x50 d → w.glade.thin.isSome = true → exec (.gladeLease dt .svc d) s =
        .next (closing u (svcDone { w with glade := { w.glade with deferred := w.glade.deferred ++ [f.id] } })))
    ∧ (∀ (g : InFlight) (v : State) (k base : Nat), tabFree v.glade.leases 128 = some k →
        placeLease v (pU g.payload 19 1) (leaseNeed v (bit (pU g.payload 18 1) 0) (leaseLeaves g.payload)) = some base →
        (leaseNow g v).glade.leases = tabPut v.glade.leases k { base := base, words := leaseNeed v (bit (pU g.payload 18 1) 0) (leaseLeaves g.payload)
                                                                slot := Fin.ofNat 32 g.target.idx
                                                                owner := leaseOwner (Fin.ofNat 32 g.target.idx) (pU g.payload 17 1)
                                                                leaves := (leaseLeaves g.payload).map (fun i => BitVec.ofNat 8 i)
                                                                standby := bit (pU g.payload 18 1) 0 })

/-- R137, R178 to R181: the Folio and the program store are written and read at acceptance. -/
def Obligations.Folio_and_program_descriptors_take_effect : Prop :=
  ∀ (dt : Nat) (d : Desc) (r : RawDesc) (s u b w : State) (f : InFlight), s.life.inReset = false → u = begin dt s → b = frameBegin u → svcTakes r b = true →
    (f, w) = svcFlight r b → passes r b = true →
    (r = rawOf 0x58 d → pU f.payload 28 1 = 2 → exec (.folioWrite dt .svc d) s = .next (closing u (svcDone
        (complete f.id stOK 0 0 (some (nowStamp w)) { w with glade := { w.glade with tables := tabDel w.glade.tables f.target.idx } }))))
    ∧ (r = rawOf 0x58 d → exec (.folioWrite dt .svc d) s = .next (closing u (svcDone (folioWriteNow f w))))
    ∧ (r = rawOf 0x59 d → f.buf.ok = true → ∀ t, tabGet w.glade.tables f.target.idx = some t →
        w.glade.folioBad.any (fun a => decide (t.base + pU f.payload 24 2 ≤ a) && decide (a < t.base + pU f.payload 24 2 + pU f.payload 26 2)) = false →
        ∀ v, v = hostWrite f (pU f.payload 16 8) ((List.range (pU f.payload 26 2)).flatMap (fun i =>
          leBytes 4 (toW 32 (folioWord w (t.base + pU f.payload 24 2 + i))))) w →
        exec (.folioRead dt .svc d) s = .next (closing u (svcDone (complete f.id stOK (pU f.payload 26 2) 0 (some (nowStamp v)) v))))
    ∧ (r = rawOf 0x5C d → exec (.programLoad dt .svc d) s = .next (closing u (svcDone (programNow f w))))
    ∧ (∀ (g : InFlight) (v : State) (l : List FoundLeaf), findLeaves 600 ((bufWords (bufData g)).take (loadLen g)) 0 [] = .inl l →
        (programNow g v).canopy.ram = cellPuts zero0 v.canopy.ram (loadBase g) ((bufWords (bufData g)).take (loadLen g)))

/-- R327, R329, R335, R371, R383: transfers are queued at their link, endpoints are bound and unbound, the member list replaces the one before, and a tunnel's request leaves. -/
def Obligations.Network_descriptors_take_effect : Prop :=
  ∀ (dt : Nat) (d : Desc) (r : RawDesc) (s u b w : State) (f : InFlight), s.life.inReset = false → u = begin dt s → b = frameBegin u → svcTakes r b = true →
    (f, w) = svcFlight r b → passes r b = true →
    (r = rawOf 0x68 d → ∀ v, v = modFlight w f.id (fun x => { x with due := .running }) →
        exec (.siglinkXfer dt .svc d) s = .next (closing u (svcDone
          { v with link := { v.link with links := upd v.link.links (epLink (xferOf f).ep) (fun l => { l with queue := l.queue ++ [xferOf f] }) } })))
    ∧ (r = rawOf 0x69 (withSub 16 0 d) → ∀ v, v = modEp w (epT f) (fun x => { x with bind := some (epBindOf f.payload) }) →
        exec (.endpointBind dt .svc d) s =
          .next (closing u (svcDone (complete f.id stOK (ofBool (epPresent v (epT f))) 0 (some (nowStamp v)) v))))
    ∧ (r = rawOf 0x69 (withSub 16 1 d) → ∀ v, v = stopCyclic (epT f) (dropXfers (epT f) w) →
        exec (.endpointUnbind dt .svc d) s =
          .next (closing u (svcDone (completeOk f.id (some (nowStamp v)) (modEp v (epT f) (fun x => { x with bind := none }))))))
    ∧ (r = rawOf 0x78 d → exec (.ringMembers dt .svc d) s = .next (closing u (svcDone (membersNow f w))))
    ∧ (∀ (g : InFlight) (v : State), (membersNow g v).norrak.members = listOf g)
    ∧ (r = rawOf 0x7A d → tunnelDst f ≠ w.norrak.position →
        ∀ v, v = takesEffect f.id (nowStamp w) (modNk w (fun k => { k with
          nextTunnel := k.nextTunnel + 1
          tunnels := k.tunnels ++ [{ desc := f.id, ident := k.nextTunnel, dst := tunnelDst f, count := pU f.payload 24 1
                                     cplBuf := BitVec.ofNat 64 (pU f.payload 28 8)
                                     dataBuf := BitVec.ofNat 64 (pU f.payload 36 8), dataLen := pU f.payload 44 4 }] })) →
        exec (.tunnel dt .svc d) s = .next (closing u (svcDone (tunnelFrames 0x18 (tunnelDst f) w.norrak.nextTunnel
          (f.buf.data.take (64 * pU f.payload 24 1 + pU f.payload 44 4)) v))))

/-- R392, R395, R401, R425, R437: a frame takes a free transmit slot, frames are cancelled, recovery begins, stored samples are read, and a check unit's running value is read, written and exchanged, the value
before it the result. -/
def Obligations.Can_quire_and_check_descriptors_take_effect : Prop :=
  ∀ (dt : Nat) (d : Desc) (r : RawDesc) (s u b w : State) (f : InFlight), s.life.inReset = false → u = begin dt s → b = frameBegin u → svcTakes r b = true →
    (f, w) = svcFlight r b → passes r b = true →
    (r = rawOf 0x70 d → ∀ g, g = { f with due := .update (applyOf w .svc r) (w.time.now + guard2) } →
        exec (.canSend dt .svc d) s = .next (closing u (svcDone (canSendNow g (modFlight w f.id (fun x => { x with due := g.due }))))))
    ∧ (∀ (g : InFlight) (v : State) (i : Nat), tabFree v.can[canT g].slots 32 = some i →
        (canSendNow g v).can[canT g].queued = v.can[canT g].queued + 1
          ∧ ((tabGet (canSendNow g v).can[canT g].slots i).map (fun e => e.desc)) = some g.id)
    ∧ (r = rawOf 0x71 d → exec (.canCancel dt .svc d) s = .next (closing u (svcDone (canCancelNow f w))))
    ∧ (r = rawOf 0x72 d → exec (.canRecover dt .svc d) s = .next (closing u (svcDone (setCanState (canT f) .recovering
        (modFlight (modCan w (canT f) (fun x => { x with recover := some f.id })) f.id (fun x => { x with due := .running }))))))
    ∧ (r = rawOf 0x81 d → exec (.quireRead dt .svc d) s = .next (closing u (svcDone (quireReadNow f w))))
    ∧ (r = rawOf 0x88 (withSub 16 0 d) → exec (.checkContextRead dt .svc d) s = .next (closing u (svcDone
        (complete f.id stOK (reg w (chkBase (chkT f) + 0x10)) 0 (some (nowStamp w)) w))))
    ∧ (∀ k, (k = 1 ∨ k = 2) → r = rawOf 0x88 (withSub 16 k d) → ∀ v, v = setReg w (chkBase (chkT f) + 0x10) (pU f.payload 20 4) →
        exec (if k = 1 then .checkContextWrite dt .svc d else .checkContextExchange dt .svc d) s = .next (closing u (svcDone
          (complete f.id stOK (reg w (chkBase (chkT f) + 0x10)) 0 (some (nowStamp v)) v))))

/-- R458, R459, R492, R493, R499, R505, R509: the descriptors of the chip: tallies are copied, the calendar is set, the safety record, its confirmation and the park record are stored, a lifecycle change is to be committed. -/
def Obligations.Chip_descriptors_take_effect : Prop :=
  ∀ (dt : Nat) (d : Desc) (r : RawDesc) (s u b w : State) (f : InFlight), s.life.inReset = false → u = begin dt s → b = frameBegin u → svcTakes r b = true →
    (f, w) = svcFlight r b → passes r b = true →
    (r = rawOf 0xA0 d → pU f.payload 16 8 = 0 → exec (.tallyRead dt .svc d) s = .next (closing u (svcDone
        (complete f.id stOK 1024 0 (some (nowStamp w)) { w with tally := { w.tally with
          image := tallyImage w, snapSeq := w.tally.snapSeq + 1 } }))))
    ∧ (r = rawOf 0xA1 d → ∀ v, v = { w with
          life := { w.life with calendar := pU f.payload 16 4, calFrom := w.time.now, calValid := true }
          tally := { w.tally with refreshCal := pU f.payload 16 4 - sinceRefresh w } } →
        exec (.calendarSet dt .svc d) s = .next (closing u (svcDone
          (complete f.id stOK (sext 32 (calNow w)) 0 (some (nowStamp v)) (calendarState v)))))
    ∧ (r = rawOf 0xB0 d → exec (.safetyRecordWrite dt .svc d) s = .next (closing u (svcDone (recordWriteNow f w))))
    ∧ (r = rawOf 0xB1 d → (confirmRecord (pU f.payload 16 4) w).2 = false → exec (.safetyConfirm dt .svc d) s = .next (closing u (svcDone
        (reject f.id 0x0082 0 (confirmRecord (pU f.payload 16 4) w).1))))
    ∧ (r = rawOf 0xB1 d → ∀ v, confirmRecord (pU f.payload 16 4) w = (v, true) → exec (.safetyConfirm dt .svc d) s = .next (closing u (svcDone
        (completeOk f.id (some (nowStamp v)) v))))
    ∧ (r = rawOf 0xF0 d → ∀ l, lifeOf (pU f.payload 16 1) = some l → exec (.lifecycleChange dt .svc d) s = .next (closing u (svcDone
        (modFlight { w with life := { w.life with changing := some (l, some f.id) } } f.id (fun x => { x with due := .running })))))
    ∧ (r = rawOf 0xF1 d → ∀ v, v = { w with life := { w.life with park := f.buf.data.take 160, parkValid := true } } →
        exec (.parkRecordWrite dt .svc d) s = .next (closing u (svcDone
          (complete f.id stOK (sext 32 (parkCheckValue (f.buf.data.take 160))) 0 (some (nowStamp v)) v))))

/-! ### Lanes and jobs (05) -/

/-- R130, R139, R140: the lane instructions that compute: the value each writes to its data register or accumulator, where the lane has fetched the instruction's word clean and its datapath makes
no error; a value beyond the register's range saturates and sets sat. -/
def Obligations.Lane_instructions_compute : Prop :=
  ∀ (dt : Nat) (l : LaneOp) (a b c : Fin 16) (k : Fin 2) (r : LaneRun) (s u : State), s.life.inReset = false → u = begin dt s →
    (LaneRuns u l r (laneWord 0x10 a b 0 0) → exec (.mov dt l a b) s = .next (closing u (laneSets l r a (vOf r b, false) 1 u)))
    ∧ (LaneRuns u l r (laneWord 0x11 a b c 0) → exec (.add dt l a b c) s = .next (closing u (laneSets l r a (sat24 (vOf r b + vOf r c)) 1 u)))
    ∧ (LaneRuns u l r (laneWord 0x12 a b c 0) → exec (.sub dt l a b c) s = .next (closing u (laneSets l r a (sat24 (vOf r b - vOf r c)) 1 u)))
    ∧ (LaneRuns u l r (laneWord 0x13 a b 0 0) → exec (.abs dt l a b) s = .next (closing u (laneSets l r a (sat24 |vOf r b|) 1 u)))
    ∧ (LaneRuns u l r (laneWord 0x14 a b c 0) → exec (.mul dt l a b c false) s =
        .next (closing u (laneSets l r a (sat24 (roundDiv (vOf r b * vOf r c) (2 ^ 23))) 1 u)))
    ∧ (LaneRuns u l r (laneWord 0x14 a b c 64) → exec (.mul dt l a b c true) s =
        .next (closing u (laneSets l r a (sat24 (Int.fdiv (vOf r b * vOf r c) (2 ^ 23))) 1 u)))
    ∧ (LaneRuns u l r (laneWord 0x15 a b c 0) → exec (.min dt l a b c) s = .next (closing u (laneSets l r a (min (vOf r b) (vOf r c), false) 1 u)))
    ∧ (LaneRuns u l r (laneWord 0x16 a b c 0) → exec (.max dt l a b c) s = .next (closing u (laneSets l r a (max (vOf r b) (vOf r c), false) 1 u)))
    ∧ (LaneRuns u l r (laneWord 0x17 a b c 0) → ∀ y, y = min (max (vOf r a) (vOf r b)) (vOf r c) →
        exec (.clmp dt l a b c) s = .next (closing u (laneSets l r a (y, y != vOf r a) 1 u)))
    ∧ (∀ n : BitVec 5, n.toNat ≤ 23 → LaneRuns u l r (laneWord 0x18 a b 0 n.toNat) →
        exec (.shl dt l a b n) s = .next (closing u (laneSets l r a (sat24 (vOf r b * 2 ^ n.toNat)) 1 u)))
    ∧ (∀ n : BitVec 5, LaneRuns u l r (laneWord 0x19 a b 0 n.toNat) →
        exec (.asr dt l a b n) s = .next (closing u (laneSets l r a (vOf r b / 2 ^ n.toNat, false) 1 u)))
    ∧ (∀ x : BitVec 4, x.toNat < 8 → LaneRuns u l r (selWord a b c x) →
        exec (.sel dt l a b c x) s = .next (closing u (laneSets l r a (if condHolds r x.toNat u then vOf r b else vOf r c, false) 1 u)))
    ∧ (∀ imm : BitVec 22, LaneRuns u l r (laneWord 0x0B a 0 0 0 + imm.toNat) →
        exec (.ldi dt l a imm) s = .next (closing u (laneSets l r a (imm.toInt, false) 1 u)))
    ∧ (∀ (n : BitVec 4) (x : Int) (old : Bool), LaneRuns u l r (laneWord 0x0C a 0 0 n.toNat) → r.job.ins.vals[n.toNat]? = some (x, old) →
        exec (.ldin dt l a n) s = .next (closing u (laneSets l { r with stale := old } a (sat24 x) 1 u)))
    ∧ (LaneRuns u l r (laneWord 0x2B a 0 0 0) → exec (.midx dt l a) s = .next (closing u (laneSets l r a (r.idx.toNat, false) 1 u)))
    ∧ (∀ (n : BitVec 6) (round : Bool), n.toNat ≤ 48 → LaneRuns u l r (laneWord 0x24 a k 0 (64 * ofBool round + n.toNat)) →
        exec (.ext dt l a k n round) s = .next (closing u (laneSets l r a
          (sat24 (if round then Int.fdiv (accOf r k) (2 ^ n.toNat) else roundDiv (accOf r k) (2 ^ n.toNat))) 1 u)))
    ∧ (∀ (n : BitVec 6), n.toNat ≤ 32 → LaneRuns u l r (laneWord 0x23 k b 0 n.toNat) →
        exec (.accadd dt l k b n) s = .next (closing u (accSets l r k (sat56 (accOf r k + vOf r b * 2 ^ n.toNat)) u)))
    ∧ (LaneRuns u l r (laneWord 0x25 k 0 0 0) → exec (.accclr dt l k) s = .next (closing u (accSets l r k (0, false) u)))
    ∧ (∀ (e : BitVec 5) (bank : Bool) (ex x : Int), ex = (if bank then bankExponent r.job u else e.toInt) → x = scaleProduct (vOf r b * vOf r c) ex →
        (LaneRuns u l r (laneWord 0x20 k b c (32 * ofBool bank + e.toNat)) →
          exec (.macz dt l k b c e bank) s = .next (closing u (accSets l r k (sat56 x) u)))
        ∧ (LaneRuns u l r (laneWord 0x21 k b c (32 * ofBool bank + e.toNat)) →
          exec (.mac dt l k b c e bank) s = .next (closing u (accSets l r k (sat56 (accOf r k + x)) u)))
        ∧ (LaneRuns u l r (laneWord 0x22 k b c (32 * ofBool bank + e.toNat)) →
          exec (.msu dt l k b c e bank) s = .next (closing u (accSets l r k (sat56 (accOf r k - x)) u))))

/-- R131, R132, R139, R143, R182: the lane instructions that address the Glade and the Folio: a load reads the word at its relative address and post-modifies, a store is staged, a search finds the first of the best words, and an
address beyond the space is a bounds fault; PSET, PLEN and PSTEP set their generator. -/
def Obligations.Lane_instructions_address_memory : Prop :=
  ∀ (dt : Nat) (l : LaneOp) (a b : Fin 16) (p : Fin 4) (mod : BitVec 2) (off : BitVec 12) (r : LaneRun) (s u : State), s.life.inReset = false → u = begin dt s →
    (∀ phys i lease, LaneRuns u l r (laneWord 0x08 a p 0 (mod.toNat * 4096 + off.toNat)) →
        relAddr (spaceOf u r.job.owner) (genAddr r.p[p] off.toNat) = some (phys, i, lease) → u.glade.bad.contains phys = false →
        (∀ x ∈ r.staged, x.1 ≠ genAddr r.p[p] off.toNat) → u.glade.fog.contains phys = false →
        exec (.ldg dt l a p mod off .clean) s = .next (closing u (laneSets l { r with p := upd r.p p (fun g => genMod g mod) } a
          (sext 24 (cellGet zero0 u.glade.words phys), false) 1 (countRange phys 1 u))))
    ∧ (∀ phys i lease x, LaneRuns u l r (laneWord 0x08 a p 0 (mod.toNat * 4096 + off.toNat)) →
        relAddr (spaceOf u r.job.owner) (genAddr r.p[p] off.toNat) = some (phys, i, lease) → u.glade.bad.contains phys = false →
        r.staged.find? (fun y => y.1 == genAddr r.p[p] off.toNat) = some x →
        exec (.ldg dt l a p mod off .clean) s = .next (closing u
          (laneSets l { r with p := upd r.p p (fun g => genMod g mod) } a (x.2.toInt, false) 1 (countRange phys 1 u))))
    ∧ (∀ phys i lease, LaneRuns u l r (laneWord 0x09 a p 0 (mod.toNat * 4096 + off.toNat)) →
        relAddr (spaceOf u r.job.owner) (genAddr r.p[p] off.toNat) = some (phys, i, lease) → lease.leaves.any (fun i => r.job.leaves.contains i) = true →
        exec (.stg dt l a p mod off) s = .next (closing u (setRun l (advanceRun { r with
          staged := (genAddr r.p[p] off.toNat, r.v[a]) :: r.staged.filter (fun x => x.1 != genAddr r.p[p] off.toNat)
          p := upd r.p p (fun g => genMod g mod) } 0 1) u)))
    ∧ (relAddr (spaceOf u r.job.owner) (genAddr r.p[p] off.toNat) = none →
        (LaneRuns u l r (laneWord 0x08 a p 0 (mod.toNat * 4096 + off.toNat)) →
          exec (.ldg dt l a p mod off .clean) s = .next (closing u (boundsFault l r (genAddr r.p[p] off.toNat) u)))
        ∧ (LaneRuns u l r (laneWord 0x09 a p 0 (mod.toNat * 4096 + off.toNat)) →
          exec (.stg dt l a p mod off) s = .next (closing u (boundsFault l r (genAddr r.p[p] off.toNat) u))))
    ∧ (∀ (n : Fin 32) (t : Table), LaneRuns u l r (laneWord 0x0A a b 0 n) → tabGet u.glade.tables n = some t →
        (0 ≤ vOf r b → vOf r b < t.len → u.glade.folioBad.contains (t.base + (vOf r b).toNat) = false →
          exec (.ldf dt l a b n .clean) s = .next (closing u (laneSets l r a (folioWord u (t.base + (vOf r b).toNat), false) 1 u)))
        ∧ ((vOf r b < 0 ∨ (t.len : Int) ≤ vOf r b) → u.glade.folioBad.contains (t.base + (t.len - 1)) = false →
          exec (.ldf dt l a b n .clean) s = .next (closing u (laneSets l r a (folioWord u (t.base + (t.len - 1)), true) 1 u))))
    ∧ (∀ (n : BitVec 12) (xs : List Int) (t : State) (i : Nat) (x : Int), 1 ≤ n.toNat → n.toNat ≤ 256 →
        searchWords r r.p[p] l.hit (List.range n.toNat) u [] = ((.value 0, xs), t) →
        (LaneRuns u l r (laneWord 0x28 a p 0 n.toNat) → FirstBest (· > ·) id xs i x →
          exec (.mxs dt l a p n) s = .next (closing u (laneSets l { r with idx := BitVec.ofNat 12 i } a (sat24 x) n.toNat t)))
        ∧ (LaneRuns u l r (laneWord 0x29 a p 0 n.toNat) → FirstBest (· < ·) id xs i x →
          exec (.mns dt l a p n) s = .next (closing u (laneSets l { r with idx := BitVec.ofNat 12 i } a (sat24 x) n.toNat t)))
        ∧ (LaneRuns u l r (laneWord 0x2A a p 0 n.toNat) → FirstBest (· > ·) (fun y => |y|) xs i x →
          exec (.mxa dt l a p n) s = .next (closing u (laneSets l { r with idx := BitVec.ofNat 12 i } a (sat24 |x|) n.toNat t))))
    ∧ (LaneRuns u l r (laneWord 0x30 0 p 0 off.toNat) → exec (.pset dt l p off) s =
        .next (closing u (setRun l (advanceRun { r with p := upd r.p p (fun g => { g with base := off, idx := 0 }) } 0 1) u)))
    ∧ (LaneRuns u l r (laneWord 0x31 0 p 0 off.toNat) → exec (.plen dt l p off) s =
        .next (closing u (setRun l (advanceRun { r with p := upd r.p p (fun g => { g with len := off }) } 0 1) u)))
    ∧ (LaneRuns u l r (laneWord 0x32 0 p 0 off.toNat) → exec (.pstep dt l p off) s =
        .next (closing u (setRun l (advanceRun { r with p := upd r.p p (fun g => { g with step := off }) } 0 1) u)))

/-- R139 to R143: the control instructions of a lane: repetition, skipping, comparison, outputs, the header and the end of a leaf; a condition code or a shift that the manual
does not define stops the run under its own name. -/
def Obligations.Lane_instructions_control : Prop :=
  ∀ (dt : Nat) (l : LaneOp) (a b c : Fin 16) (r : LaneRun) (s u : State), s.life.inReset = false → u = begin dt s →
    (LaneRuns u l r (laneWord 0x01 0 0 0 0) → exec (.nop dt (.laneOp l)) s = .next (closing u (setRun l (advanceRun r 0 1) u)))
    ∧ (∀ (count : BitVec 8) (body : BitVec 4), LaneRuns u l r (laneWord 0x02 0 0 0 (body.toNat * 256 + count.toNat)) →
        exec (.rpt dt l count body) s = .next (closing u (setRun l { r with
          pc := r.pc + 1, rpt := some { first := r.pc + 1, last := r.pc + 1 + body.toNat, left := count.toNat } } u)))
    ∧ (∀ (x : BitVec 4) (k : BitVec 6), x.toNat < 8 → LaneRuns u l r (skipWord x k) →
        (condHolds r x.toNat u = true → exec (.skip dt l x k) s = .next (closing u (setRun l (advanceRun r k.toNat 1) u)))
        ∧ (condHolds r x.toNat u = false → exec (.skip dt l x k) s = .next (closing u (setRun l (advanceRun r 0 1) u))))
    ∧ (LaneRuns u l r (laneWord 0x1A 0 b c 0) → exec (.cmp dt l b c) s = .next (closing u
        (setRun l (advanceRun { r with eq := decide (vOf r b = vOf r c), lt := decide (vOf r b < vOf r c) } 0 1) u)))
    ∧ (∀ n : BitVec 3, LaneRuns u l r (laneWord 0x0D 0 b 0 n.toNat) → exec (.out dt l b n) s = .next (closing u
        (setRun l (advanceRun { r with outs := upd r.outs (Fin.ofNat 8 n.toNat) (fun _ => some r.v[b]) } 0 1) u)))
    ∧ (∀ (ident : Byte) (words : BitVec 12), LaneRuns u l r (0x3E * 2 ^ 26 + ident.toNat * 2 ^ 18 + words.toNat * 2 ^ 6) →
        r.job.leaves[r.leaf]? = some ident → exec (.leaf dt l ident words) s = .next (closing u (setRun l (advanceRun r 0 0) u)))
    ∧ (LaneRuns u l r 0 → ∀ w, w = (if r.ops = r.leafOps then planAccesses r.job.owner ((r.job.leaves[r.leaf]?).getD 0).toNat u else u) →
        (∀ i, r.job.leaves[r.leaf + 1]? = some i → exec (.endLeaf dt l) s =
          .next (closing u (setRun l { r with leaf := r.leaf + 1, pc := leafStart w i, rpt := none, leafOps := r.ops } w)))
        ∧ (r.job.leaves[r.leaf + 1]? = none → exec (.endLeaf dt l) s = .next (closing u (jobDone l.lane r w))))
    ∧ (condHolds r 0 u = true ∧ condHolds r 1 u = r.eq ∧ condHolds r 2 u = !r.eq ∧ condHolds r 3 u = r.lt
        ∧ condHolds r 4 u = !r.lt ∧ condHolds r 5 u = r.sat ∧ condHolds r 6 u = r.stale
        ∧ condHolds r 7 u = driveInForce r.job u)
    ∧ (∀ (x : BitVec 4) (k : BitVec 6), 8 ≤ x.toNat → LaneRuns u l r (skipWord x k) → exec (.skip dt l x k) s = .fault .conditionCode)
    ∧ (∀ x : BitVec 4, 8 ≤ x.toNat → LaneRuns u l r (selWord a b c x) → exec (.sel dt l a b c x) s = .fault .conditionCode)
    ∧ (∀ n : BitVec 5, 23 < n.toNat → LaneRuns u l r (laneWord 0x18 a b 0 n.toNat) → exec (.shl dt l a b n) s = .fault .operandRange)

/-- R17, R128, R129, R142, R144, R150, R152: jobs are queued when their inputs are there, granted in order of deadline to a free lane, which starts with everything cleared (a recompute on the spare, before them), and overrun at their deadline; a lane that
fails its self-test is quarantined; the governor closes its windows and its boost hold ends. -/
def Obligations.Jobs_are_queued_granted_and_overrun : Prop :=
  ∀ (dt : Nat) (o : Owner) (sc : Sched) (j : Job) (s u : State), s.life.inReset = false → u = begin dt s →
    (∀ (n : Fin 32) (b : Binding), o = .slot n → (schedOf u o sc).forming = some j → u.axis.slots[n].bind = some b → reached u j.ts = true →
        inputsIn u n b j.ts = true → exec (.jobReady dt o sc) s = .next (closing u (queueSlotJob n b j u)))
    ∧ (∀ k : Fin 4, o = .lattice k → (schedOf u o sc).forming = some j → reached u j.ts = true → ltcReady u k j.ts.t = true →
        ∀ vals w, (vals, w) = freeInputs 4 2 (fun _ => false) (schedOf u o sc).lastIns u →
        exec (.jobReady dt o sc) s = .next (closing u (queueWith j vals (modSched w o sc (fun c => { c with forming := none })))))
    ∧ (∀ k : Fin 9, firstJob u (u.canopy.queue.filter (fun x => x.recompute && !jobHeld u x)) = none →
        firstJob u (u.canopy.queue.filter (fun x => !x.recompute)) = some j → freeLane u = some k →
        exec (.jobGrant dt) s = .next (closing u (startJob k j u)))
    ∧ (∀ k : Fin 9, firstJob u (u.canopy.queue.filter (fun x => x.recompute && !jobHeld u x)) = some j → recomputeLane u j = some k →
        exec (.jobGrant dt) s = .next (closing u (startJob k j u)))
    ∧ (∀ (k : Fin 9) (x : State), ∃ pc, (startJob k j x).canopy.lanes[k].run = some { job := j, pc := pc }
        ∧ (startJob k j x).canopy.queue = x.canopy.queue.filter (fun y => !(y.owner == j.owner && y.sched == j.sched)))
    ∧ ((schedOf u o sc).forming = some j → toD0 u j.deadline ≤ u.time.now → exec (.jobDeadline dt o sc) s =
        .next (closing u (overrun j (modSched u o sc (fun c => { c with forming := none })))))
    ∧ (∀ k : Fin 9, (u.canopy.lanes[k].state = .inService ∨ u.canopy.lanes[k].state = .spare) → u.canopy.lanes[k].run = none → jobWaits u k = false →
        exec (.laneSelftest dt k none) s = .next (closing u u)
        ∧ ∀ op w e, w = (if u.canopy.lanes[k].state = .spare then noteFault k u else u) → e = raiseHap w { source := 90, sev := .fault, idx := k, handler := 1, payload := b1 k ++ [op] } →
          exec (.laneSelftest dt k (some op)) s = .next (closing u (quarantineLane k e.2.1 e.1)))
    ∧ (∀ (n : Nat), n = u.canopy.slacks.length → 1024 ≤ n ∨ u.canopy.windowFrom + msLsb ≤ u.time.now → n ≠ 0 →
        u.chip.fullService = true → regB u 0x3008 0 = false → u.canopy.boostEnd = none →
        25 ≤ regF u 0x3008 15 8 → regF u 0x3008 15 8 ≤ 75 → n < 100 * (u.canopy.slacks.filter (fun x =>
          decide (x.1 * 100 < ((regF u 0x3008 15 8 * x.2 : Nat) : Int)))).length → u.canopy.vcode + 4 < govMax u →
        exec (.govWindow dt) s = .next (closing u (modCanopy u (fun c => { c with
          slacks := [], windowFrom := u.time.now, slackP99 := slackP99 u.canopy.slacks, vcode := c.vcode + 4, atVmax := 0, topFrom := none }))))
    ∧ (∀ t, u.canopy.boostEnd = some t → t ≤ u.time.now →
        exec (.boostExpiry dt) s = .next (closing u (modCanopy u (fun c => { c with boostEnd := none }))))

/-! ### Glade maintenance, slots, ports and pins (06 to 10) -/

/-- R171 to R178, R182, R134, R414: a lease that waits in a thinning is moved in its gap, or skipped after 64 samples; the load window closes each millisecond; a scrub read, once for a word in an interval, of a clean word only counts, and one of a bad word voids
or clears it. -/
def Obligations.Glade_maintenance_runs : Prop :=
  ∀ (dt : Nat) (k : Nat) (l : Lease) (th : Thin) (s u v : State), s.life.inReset = false → u = begin dt s →
    (thinHead u = some (k, l, th) → gapNow u l = true → th.waited < 64 → v = moveLease k l (thinDest u l th.dest) u →
        exec (.thinMove dt none) s = .next (closing u (runDeferred 600 (thinRun 130
          { v with glade := { v.glade with thin := v.glade.thin.map (fun t => { t with todo := t.todo.tail, waited := 0 }) } })))
        ∧ ∀ o, o < l.words → exec (.thinMove dt (some (o, .bad))) s = .next (closing u (thinSettle (gladeUncorrectable (l.base + o) u))))
    ∧ (thinHead u = some (k, l, th) → 64 ≤ th.waited → exec (.thinSkip dt) s = .next (closing u (runDeferred 600 (thinRun 130
        { u with glade := { u.glade with
          thinSkips := u.glade.thinSkips + 1
          thin := some { th with todo := th.todo.tail, waited := 0, skipped := th.skipped + 1 } } }))))
    ∧ (∀ x, tabGet (moveLease k l x u).glade.leases k = some { l with base := x })
    ∧ (u.glade.windowFrom + msLsb ≤ u.time.now → (u.glade.accesses.toList.foldl (· + ·) 0) ≤ 900000 →
        (∀ n : Fin 8, u.glade.accesses[n] ≤ 112500) → ∃ top, (∀ n : Fin 8, u.glade.accesses[n] ≤ top) ∧ (∃ n : Fin 8, u.glade.accesses[n] = top)
          ∧ ∃ bank, exec (.gladeLoadWindow dt) s = .next (closing u { u with glade := { u.glade with
              accesses := Vector.replicate 8 0, windowFrom := u.time.now / msLsb * msLsb
              loadTotal := min 100 (u.glade.accesses.toList.foldl (· + ·) 0 / 12000), loadBankPct := min 100 (top / 1500), loadBank := bank } }))
    ∧ (∀ a, a < 6144 → (scrubTurn false a u = none → ∀ e, exec (.scrubRead dt .glade a e) s = .next (closing u u))
        ∧ (scrubTurn false a u = some v → exec (.scrubRead dt .glade a .clean) s = .next (closing u (countRange a 1 v))
          ∧ exec (.scrubRead dt .glade a .bad) s = .next (closing u (gladeUncorrectable a (countRange a 1 v)))))
    ∧ (∀ a w, leaseAt u a = none → w = countRange a 1 { u with glade := { u.glade with
          eccBad := satU 16 (u.glade.eccBad + 1), words := cellPut zero0 u.glade.words a 0, bad := u.glade.bad.filter (· != a) } } →
        gladeUncorrectable a u = emit (gladeEccHap w a .warning) w)
    ∧ (∀ a, a < 16384 → scrubTurn true a u = some v → exec (.scrubRead dt .folio a .clean) s = .next (closing u v))
    ∧ (∀ a, a < 4096 → exec (.scrubRead dt .pstore a .corrected) s = .next (closing u
        (emit { source := 89, sev := .note, logged := true, payload := leBytes 2 a }
          { u with canopy := { u.canopy with eccFixed := satU 16 (u.canopy.eccFixed + 1) } })))
    ∧ (∀ a, exec (.scrubRead dt .quire a .clean) s = .next (closing u (if 65536 ≤ a then u else quireEcc a .clean u)))

/-- R25, R28, R57, R187, R242, R246: a slot's sample is taken when it is due and the next one follows a period later; the newest result whose apply instant has come is applied; a carry of the phase accumulator is one microstep; a
coarse step commands 256 microsteps more, and without one the generator comes to rest. -/
def Obligations.Slots_sample_apply_and_step : Prop :=
  ∀ (dt : Nat) (n : Fin 32) (b : Binding) (ts : T64) (s u : State), s.life.inReset = false → u = begin dt s →
    (u.axis.slots[n].bind = some b → dueSample u n b .outer = some ts →
        exec (.controlCycle dt n .outer) s = .next (closing u (outerCycle n b ts u)))
    ∧ (u.axis.slots[n].bind = some b → dueSample u n b .current = some ts →
        ∃ t j, exec (.controlCycle dt n .current) s = .next (closing u t) ∧ t.axis.slots[n].curSched.forming = some j
          ∧ t.axis.slots[n].curSched.next = some (ts + BitVec.ofNat 64 (curPeriod b)))
    ∧ (∀ sc x, (schedOf u (.slot n) sc).latch = [x] → reached u x.tApply = true →
        exec (.applyInstant dt n sc) s = .next (closing u (applyOut n x (modSched u (.slot n) sc (fun c => { c with
          latch := [], applied := (x.val :: c.applied).take 2, appliedAt := some x.tApply.t })))))
    ∧ (∀ t, t = syncStep u.time.now u.axis.slots[n].step →
        (2 ^ 48 ≤ t.acc → ∀ v, v = modSlot u n (fun sl => { sl with step := { t with
            acc := t.acc - 2 ^ 48, emitted := t.emitted + 1, owed := t.commanded - (t.emitted + 1) } }) →
          exec (.microstep dt n) s = .next (closing u (match t.cfg with
            | some c => if c.endpoint then v else stepPulse n c false (carryAt t) v
            | none => v)))
        ∧ (t.acc < 0 → ∀ v, v = modSlot u n (fun sl => { sl with step := { t with
            acc := t.acc + 2 ^ 48, emitted := t.emitted - 1, owed := t.commanded - (t.emitted - 1) } }) →
          exec (.microstep dt n) s = .next (closing u (match t.cfg with
            | some c => if c.endpoint then v else stepPulse n c true (carryAt t) v
            | none => v)))
        ∧ (∀ c at' neg rest, u.axis.slots[n].step.cfg = some c → u.axis.slots[n].step.coarseIn = (at', neg) :: rest → c.coarse = true →
            u.axis.slots[n].mode = .auto → u.axis.slots[n].source = .coarse →
          ∃ w, exec (.coarseStep dt n) s = .next (closing u (modSlot u n (fun sl => { sl with step := w })))
            ∧ w.coarse = t.coarse + (if neg then -256 else 256) * 65536 ∧ w.coarseIn = rest
            ∧ w.lastCoarse = some at' ∧ w.idle = false ∧ w.commanded = Int.fdiv (w.coarse - t.base) 65536 ∧ w.emitted = t.emitted)
        ∧ (∀ c t0, u.axis.slots[n].step.cfg = some c → u.axis.slots[n].step.lastCoarse = some t0 → t0 + c.idleMs * msLsb ≤ u.time.now →
          exec (.coarseIdle dt n) s = .next (closing u (modSlot u n (fun sl => { sl with step := { t with
            idle := true, inc := if t.commanded = carried t then 0 else t.inc } }))))
        ∧ t.acc = u.axis.slots[n].step.acc + u.axis.slots[n].step.inc * (((u.time.now / 40 : Nat) : Int) - u.axis.slots[n].step.tick))

/-- R254 to R258, R260, R265: the quadrature and Hall ports: a transition that holds for the filter window and stands alone counts one along the sequence, one shorter is a glitch, two at once are a skip; a state that names no sector
is invalid; without an edge for the timeout the port stands still. -/
def Obligations.Ports_count_edges : Prop :=
  ∀ (dt held : Nat) (p : Fin 2) (q : Fin 3) (s u : State), s.life.inReset = false → u = begin dt s → q.val = p.val →
    (∀ line, portOn u q = true → held < portWindow u q → exec (.encEdge dt p line held) s = .next (closing u (portGlitch q u)))
    ∧ (portOn u q = true → portWindow u q ≤ held → (∀ t, u.axis.ports[q].lastB = some t → t + portWindow u q ≤ u.time.now) →
        ∀ lines v, lines = u.axis.ports[q].lines ^^^ 2#3 →
        v = modPort u q (fun x => { x with lines := lines, lastA := some u.time.now }) →
        ∃ d, (d = 1 ∨ d = -1) ∧
          ((grayIndex (lines.getLsbD 1) (lines.getLsbD 0) = (grayIndex (u.axis.ports[q].lines.getLsbD 1) (u.axis.ports[q].lines.getLsbD 0) + 1) % 4
            ↔ d = if regB u (portBase q) 1 then -1 else 1)
          ∧ exec (.encEdge dt p .a held) s = .next (closing u (noteEdge q (decide (d < 0)) (portCount q d v)))))
    ∧ (portOn u q = true → portWindow u q ≤ held → (∀ t, u.axis.ports[q].lastA = some t → t + portWindow u q ≤ u.time.now) →
        ∀ lines v, lines = u.axis.ports[q].lines ^^^ 1#3 →
        v = modPort u q (fun x => { x with lines := lines, lastB := some u.time.now }) →
        ∃ d, (d = 1 ∨ d = -1) ∧
          ((grayIndex (lines.getLsbD 1) (lines.getLsbD 0) = (grayIndex (u.axis.ports[q].lines.getLsbD 1) (u.axis.ports[q].lines.getLsbD 0) + 1) % 4
            ↔ d = if regB u (portBase q) 1 then -1 else 1)
          ∧ exec (.encEdge dt p .b held) s = .next (closing u (noteEdge q (decide (d < 0)) (portCount q d v)))))
    ∧ (portOn u q = true → regB u (portBase q) 10 = true → portWindow u q ≤ held →
        (u.axis.ports[q].lines.getLsbD 2 = !regB u (portBase q) 12) →
        exec (.encZEdge dt p held) s =
          .next (closing u (modPort (modPort u q (fun x => { x with lines := x.lines ^^^ 4 })) q (fun x => { x with zReady := true }))))
    ∧ (portOn u q = true → regB u (portBase q) 10 = true → portWindow u q ≤ held →
        (u.axis.ports[q].lines.getLsbD 2 = regB u (portBase q) 12) → u.axis.ports[q].zReady = true → regB u (portBase q) 11 = false → regB u (portBase q) 13 = false →
        exec (.encZEdge dt p held) s = .next (closing u (latchTrigger (1 + p.val) 0 (fun _ => true) ⟨.d0, BitVec.ofNat 64 u.time.now⟩ false
          (modPort (modPort u q (fun x => { x with lines := x.lines ^^^ 4 })) q
            (fun x => { x with zReady := false, zSeen := true, zStamp := BitVec.ofNat 64 u.time.now, zCount := x.c })))))
    ∧ (∀ lines k, portOn u 2 = true → portWindow u 2 ≤ held → hallSector lines = some k → u.axis.ports[(2 : Fin 3)].sector = some (k + 5) →
        exec (.hallEdge dt lines held) s = .next (closing u (hallSectorEff k (modPort
          (noteEdge 2 (regB u (portBase 2) 1) (portCount 2 (if regB u (portBase 2) 1 then -1 else 1) (modPort u 2 (fun q => { q with lines := lines }))))
          2 (fun q => { q with valid := lines, sector := some k })))))
    ∧ (∀ lines, portOn u 2 = true → portWindow u 2 ≤ held → (lines = 0#3 ∨ lines = 7#3) → ∃ pay, exec (.hallEdge dt lines held) s = .next (closing u
        (emitLim msLsb 0 (fun x => { source := 155, sev := .warning, payload := pay ++ cnt1 x })
          (hallInvalidNow (modPort (modPort u 2 (fun q => { q with lines := lines })) 2 (fun q => { q with invalid := q.invalid + 1 }))))))
    ∧ (∀ (q : Fin 3) t, portOn u q = true → u.axis.ports[q].last = some t → t + portTimeout u q ≤ u.time.now →
        exec (.encStandstill dt q) s = .next (closing u (modPort u q (fun x => { x with standstill := true }))))

/-- R277 to R301: the trigger pins accept, merge and report edges; a compare unit and a lattice solve their fires once a window's trajectory is there; a LATCH_ARM takes effect at its update point. -/
def Obligations.Pins_and_windows : Prop :=
  ∀ (dt : Nat) (k : Fin 4) (s u v : State), s.life.inReset = false → u = begin dt s →
    (∀ level, u.pins.pins[k].level ≠ level → pinMode u k = 2 → u.pins.pins[k].merging = false →
        exec (.tpInputEdge dt k level) s = .next (closing u (acceptEdge k level u.time.now false (modPin u k (fun p => { p with level := level })))))
    ∧ (∀ level t, u.pins.pins[k].level ≠ level → pinMode u k = 2 → u.pins.pins[k].merging = true → u.pins.pins[k].last = some t → u.time.now < t + mergeLsb →
        v = modPin u k (fun p => { p with level := level, suppressed := p.suppressed + 1 }) →
        exec (.tpInputEdge dt k level) s = .next (closing u
          (emitLim msLsb k (fun held => { source := 114, sev := .note, idx := k, payload := b1 k ++ cnt1 (held + 1) }) v)))
    ∧ (∀ t, u.pins.pins[k].last = some t → u.pins.pins[k].merging = true → t + mergeLsb ≤ u.time.now → pinMode u k = 2 →
        v = modPin u k (fun p => { p with merging := false }) →
        exec (.tpMergeEnd dt k) s = .next (closing u (if u.pins.pins[k].level = u.pins.pins[k].lastLevel then v
          else acceptEdge k u.pins.pins[k].level (t + mergeLsb) true v)))
    ∧ (∀ t, pinMode u k = 2 → regF u (pinBase k) 31 16 ≠ 0 → u.pins.pins[k].stuckDone = false → u.pins.pins[k].lastLevel = regB u (pinBase k) 3 →
        u.pins.pins[k].level = u.pins.pins[k].lastLevel → u.pins.pins[k].last = some t → t + regF u (pinBase k) 31 16 * 100 * usLsb ≤ u.time.now →
        exec (.pinStuck dt k) s = .next (closing u (emit { source := 113, sev := .warning, idx := k, payload := b1 k ++ b1 (ofBool u.pins.pins[k].level) }
          (modPin u k (fun p => { p with stuck := true, stuckDone := true })))))
    ∧ (∀ (i : Fin 16) a b ts w, u.pins.cmp[i].arm = some a → u.axis.slots[a.slot].bind = some b → lastSample u a.slot = some ts →
        u.pins.cmp[i].window = none → isolated u (.compare i) = false → windowReady u a.slot b a.measured ts = true → windowAt a.slot b a.measured ts u = (w, v) →
        exec (.compareWindow dt i) s = .next (closing u (cmpSolve i a b w v)))
    ∧ (∀ (n : Fin 4) c w, u.pins.ltc[n].cfg = some c → u.pins.ltc[n].poly = some w → ltcArmed u.pins.ltc[n] = true → isolated u (.lattice n) = false → u.pins.ltc[n].undecided = false →
        exec (.latticeWindow dt n) s = .next (closing u (passDone n (modLtc
          ((ltcOuts c).foldl (windowOut n c w (landingPoly (windowPoly w) c.tFlight)) (modLtc u n (fun l => { l with poly := none, lastPoly := some w }))) n
          (fun l => { l with fresh := false })))))
    ∧ (∀ (i : Fin 16) f t a, t = u.time.now / 16000 * 16000 → readyAt u t (fun f => f.opcode == 0x41 && latchT f == i) = [f] → f.group = none →
        flightOf u f.id = some f → firstFail (latchState f u) = none → a = latArmOf f.payload t →
        v = modLat u i (fun l => { l with
          old := l.arm.toList.map (fun x => (x, t)) ++ l.old.filter (fun x => decide (u.time.now < x.2 + 2 ^ 31)) }) →
        exec (.latchUpdatePoint dt i) s = .next (closing u (completeOk f.id (some ⟨.d0, BitVec.ofNat 64 t⟩) (modLat v i (fun l =>
          if pU f.payload 20 1 = 2 then { l with arm := none }
          else { l with arm := some a, source := a.source, reref := a.reref, slot := a.slot, dom := domCode a.dom })))))

/-! ### Signature links, power outputs and the Norrak ring (11 to 13) -/

/-- R306 to R344: the cyclic exchange: a command signature leaves at its t_out and moves the cycle on, a reply that passes its checks is taken, a bad or missing one is counted and marks the cycle lost; discovery polls and reads an arrival; transfers start in
gaps and a protected one ends with its response; the identity records are read. -/
def Obligations.Links_exchange_signatures : Prop :=
  ∀ (dt : Nat) (path : Path) (e : Fin 12) (s u v : State), s.life.inReset = false → u = begin dt s →
    (∀ ts group, cmdInstant u e = some ts → group = (mates u e).filter (fun x => u.link.eps[x].state == .cyclic) → group.head? = some e →
        linkOn u (epLink e) = true → ∀ t : Stamp, t = ⟨ts.dom, ts.t + BitVec.ofNat 64 (runPlan u e).offset⟩ →
        toD0 u t - (epLead u e : Nat) ≤ u.time.now →
        ∃ (ctl : Nat) (blocks : List (List Byte)) (body : List Byte), body = b1 ctl ++ b1 blocks.length ++ leBytes 2 0
            ++ leBytes 4 (t32 (t.t - BitVec.ofNat 64 (epLead u e) + BitVec.ofNat 64 (linkClk u (epLink e)))).toNat ++ leBytes 4 (t32 t.t).toNat
            ++ leBytes 4 (t32 (planNext u (runPlan u e) ts).t).toNat ++ blocks.flatten ∧
          exec (.cmdSignature dt e) s = .next (closing u (group.foldl (fun s x => cmdSent x ts (planNext u (runPlan u e) ts) t s)
            { u with out := u.out ++ [.signature e (body ++ sigCrc (0xC1 :: body))] })))
    ∧ (∀ ts data, replyDue u e = some ts →
        (replyCheck u e data ts = 0 → exec (.replySignature dt e data) s = .next (closing u (replyGood e ts data (nextReply e ts u))))
        ∧ (replyCheck u e data ts ≠ 0 → exec (.replySignature dt e data) s = .next (closing u (replyLost e ts
            (emitLim msLsb 5 (fun held => epHap e .note 0x05 (b1 (replyCheck u e data ts) ++ cnt1 held))
              (modEp u e (fun x => { x with rxBad := x.rxBad + 1 }))))))
        ∧ exec (.replyMissing dt e) s = .next (closing u (replyLost e ts
            (emitLim msLsb 6 (fun held => epHap e .warning 0x06 (b1 (min 8 (u.link.eps[e].missRun + 1)) ++ cnt1 held))
              (modEp u e (fun x => { x with rxMissing := x.rxMissing + 1 }))))))
    ∧ (pollDue u e = true → u.link.links[epLink e].queue = [] → gapFits u (epLink e) (wordCycles 16 0 8 2) = true →
        exec (.identPoll dt e) s = .next (closing u
          { modEp u e (fun x => { x with lastPoll := some u.time.now }) with out := u.out ++ [.xfer (epLink e) e [0x9F]] }))
    ∧ (∀ ident a, linkOn u (epLink e) = true → u.link.eps[e].state ≠ .cyclic → u.link.eps[e].lastPoll.isSome = true → leAt ident 0 2 = 0x4550 →
        paperBad a.endpaper = none → u.link.eps[e].bind = none → parkEp u e = false →
        exec (.identReply dt e ident a) s = .next (closing u (modEp u e (fun x => { x with
          state := .answering, paper := a.endpaper, kind := BitVec.ofNat 8 (byteAt a.endpaper 3), attempts := 0, badIdentity := false }))))
    ∧ (∀ ident a why, linkOn u (epLink e) = true → u.link.eps[e].state ≠ .cyclic → u.link.eps[e].lastPoll.isSome = true → leAt ident 0 2 = 0x4550 →
        paperBad a.endpaper = some why → u.link.eps[e].attempts + 1 < 3 →
        exec (.identReply dt e ident a) s = .next (closing u (modEp u e (fun x => { x with
          state := .answering, paper := [], kind := 0, attempts := x.attempts + 1 }))))
    ∧ (∀ (k : Fin 4) x rest inbound, linkOn u k = true → u.link.links[k].queue = x :: rest → x.phase = 0 → x.mode ≠ 1 → x.op ≠ 1 →
        gapFits u k (xferCycles x false) = true →
        v = modLink u k (fun l => { l with queue := l.queue.filter (fun y => y.desc != x.desc) }) →
        exec (.xferStart dt k inbound) s = .next (closing u (plainDone x inbound { v with out := v.out ++ [.xfer k x.ep (plainBytes x)] })))
    ∧ (∀ x rest data, linkOn u (epLink e) = true → u.link.links[epLink e].queue = x :: rest → x.ep = e → x.phase = 2 →
        gapFits u (epLink e) (xferCycles x true) = true → arspGood u.link.eps[e] x data = true →
        exec (.arspRead dt e data) s = .next (closing u (modXfer (epLink e) x.desc
          (fun x => { x with phase := 3, status := BitVec.ofNat 8 (byteAt data 1), got := (data.drop 4).take (leAt data 2 2) })
          (modEp { u with out := u.out ++ [.xfer (epLink e) e [0xC5]] } e
            (fun y => { y with ack := true, aliveArsp := some (BitVec.ofNat 4 (byteAt data 0 / 16)) })))))
    ∧ (pathOpen path u = true → ∀ (k : Fin 4) (value : Word), regB u (linkBase k) 0 = value.getLsbD 0 →
        v = writeRw u (linkBase k) (if regB u (linkBase k) 0 then putBits value.toNat 6 1 (regF u (linkBase k) 6 1) else value.toNat) →
        exec (.siglinkEnable dt path k value) s = .next (closing u v))
    ∧ (pathOpen path u = true → ∀ (k : Fin 4) (value : Word), regB u (linkBase k) 0 ≠ value.getLsbD 0 →
        v = writeRw u (linkBase k) (if regB u (linkBase k) 0 then putBits value.toNat 6 1 (regF u (linkBase k) 6 1) else value.toNat) →
        exec (.siglinkEnable dt path k value) s = .next (closing u (emit
          { source := 140 + k, sev := .note, code := 1
            payload := b1 1 ++ b1 (ofBool (value.getLsbD 0)) ++ b1 (ofBool (k == 3 && u.svc.strap)) }
          (modLink v k (fun l => { l with active := linkOn v k })))))
    ∧ (pathOpen path u = true → ∀ value : Word, v = writeRw u 0x8600 value.toNat →
        (regB u 0x8600 0 = false → value.getLsbD 0 = true → exec (.idEnable dt path value) s = .next (closing u (wantRecords v)))
        ∧ (value.getLsbD 0 = false → exec (.idEnable dt path value) s = .next (closing u v)))
    ∧ (pathOpen path u = true → ∀ value : Word, value.getLsbD 0 = true →
        exec (.idRescan dt path value) s = .next (closing u (wantRecords (writeRw u 0x8600 (putBits value.toNat 2 2 1)))))
    ∧ (∀ (r : Fin 8) data, u.link.recs[r].wanted = true → v = chkObserve 6 0 1 data u →
        exec (.idRecordRead dt r (.ok data)) s = .next (closing u (recordRead r (paperBad data).isNone
          (modRec v r (fun y => { y with wanted := false, fault := false, valid := (paperBad data).isNone, data := data })))))
    ∧ (∀ r : Fin 8, u.link.recs[r].wanted = true → 3 ≤ u.link.recs[r].tries →
        exec (.idRecordRead dt r .noAck) s = .next (closing u (recordRead r false
          (modRec u r (fun y => { y with wanted := false, fault := true, valid := false, data := [] })))))

/-- R349 to R362: a carrier reload takes over the shadow writes that are older than its margin, in order of their stamps; the dead time follows the measured crossings within its limits; a trip acts at once, or when the blanking window closes; a
latched one is cleared while its input is inactive; gates are forced by code. -/
def Obligations.Power_outputs_reload_trip_and_force : Prop :=
  ∀ (dt : Nat) (path : Path) (c : Fin 3) (t : Fin 2) (s u v : State), s.life.inReset = false → u = begin dt s →
    (∀ x, v = modTrip u t (fun y => { y with active := true }) → regB u (0x9020 + 4 * t) 7 = true →
        (blankUntil u t = none → exec (.trip dt t) s = .next (closing u (tripActs t u.time.now v)))
        ∧ (blankUntil u t = some x → exec (.trip dt t) s =
            .next (closing u (modTrip v t (fun y => { y with waiting := some u.time.now, blankEnd := some x })))))
    ∧ (regB u (0x9020 + 4 * t) 7 = false → exec (.trip dt t) s = .next (closing u (modTrip u t (fun y => { y with active := true }))))
    ∧ (∀ a e, u.power.trips[t].waiting = some a → u.power.trips[t].blankEnd = some e → e ≤ u.time.now →
        exec (.blankWindowEnd dt t true) s = .next (closing u (tripActs t a (modTrip u t (fun y => { y with active := true, waiting := none, blankEnd := none }))))
        ∧ exec (.blankWindowEnd dt t false) s = .next (closing u (modTrip u t (fun y => { y with active := false, waiting := none, blankEnd := none }))))
    ∧ (∀ w stamp, (tripActs t stamp w).power.trips[t].holding = true ∧ (tripActs t stamp w).power.tripCount = satU 16 (w.power.tripCount + 1)
        ∧ (∀ k : Fin 2, k ≠ t → (tripActs t stamp w).power.trips[k] = w.power.trips[k]))
    ∧ (pathOpen path u = true → ∀ (value : Word) (active : BitVec 2), ∃ w, exec (.tripClear dt path value active) s = .next (closing u w)
        ∧ ∀ k : Fin 2, w.power.trips[k].active = active.getLsbD k.val ∧ w.power.trips[k].latched =
            (u.power.trips[k].latched && !(value.getLsbD k.val && !active.getLsbD k.val)))
    ∧ (pathOpen path u = true → ∀ value : Word, (∀ k : Fin 3, bits value.toNat (4 * k + 1) (4 * k) < 2 ∧ bits value.toNat (4 * k + 3) (4 * k + 2) < 2) →
        ∃ w, exec (.powerForceWrite dt path value) s = .next (closing u w)
          ∧ ∀ k : Fin 3, w.power.ch[k].shadow = u.power.ch[k].shadow ++ [{ stamp := u.time.now, forceH := some (forceOf (bits value.toNat (4 * k + 1) (4 * k))), forceL := some (forceOf (bits value.toNat (4 * k + 3) (4 * k + 2))) }])
    ∧ (∀ at', u.power.invalidSince = some at' → powMode u = 2 → u.power.hallLost = false → at' + max 1 (regF u 0x9000 19 16) * msLsb ≤ u.time.now →
        ∃ pay, exec (.hallHoldExpiry dt) s = .next (closing u (emit { source := 150, sev := .fault, payload := pay }
          ((List.finRange 3).foldl (fun s c => gatesLow c s) (modPower u (fun p => { p with hallLost := true }))))))
    ∧ (regB u (chBase c + 0x0C) 30 = false → exec (.swnCrossing dt c .lh) s = .next (closing u
        (modCh u c (fun ch => { ch with lh := { ch.lh with tOff := none, d := regF u (chBase c + 0x0C) 29 20 } }))))
    ∧ (∀ off, regB u (chBase c + 0x0C) 30 = true → u.power.ch[c].hl.tOff = some off → off ≤ u.time.now → u.time.now ≤ off + dtLsb u.power.ch[c].hl →
        u.power.ch[c].hl.samples.length < 7 → exec (.swnCrossing dt c .hl) s = .next (closing u
        (modCh u c (fun ch => { ch with hl := { ch.hl with tOff := none, without := 0, samples := ch.hl.samples ++ [u.time.now - off] } }))))
    ∧ (∀ (inputs : BitVec 2) (into : Int) (tr : T64), into = (((domNow u (powDom u)).toNat : Int) - chPhase u c) % (max 1 (chPeriod u c) : Nat) →
        tr = BitVec.ofInt 64 ((domNow u (powDom u)).toNat - into) → u.power.ch[c].last = none → u.power.ch[c].shadow = [] → u.host.flight = [] → u.power.trips = Vector.replicate 2 {} → u.power.hallLost = false → inputs = 0#2 →
        ∀ full refresh, bootStep u c = (full, refresh) → exec (.powerReload dt c inputs) s = .next (closing u (queuePeriod c tr refresh
          (modCh u c (fun ch => { ch with
            onPeriods := if full then ch.onPeriods + 1 else 0, refreshing := refresh
            boots := if refresh then ch.boots + 1 else ch.boots
            last := some tr })))))

/-- R365 to R384: the ring: a link comes up and goes down, good frames are taken and forwarded and bad ones asked for again, HELLO, SYNC, trajectory and event frames have their effects, committed stop times are activated and reached, and what has not been answered
in time is repeated or reported. -/
def Obligations.Ring_links_and_frames : Prop :=
  ∀ (dt : Nat) (l : Fin 2) (vc : Fin 4) (hdr : NkHdr) (s u v : State), s.life.inReset = false → u = begin dt s → nkOn u = true →
    (nkUp u l = false → v = modNkLink u l (fun k => { k with signal := true, aligned := true, up := true, folding := false }) →
        exec (.nkLinkUp dt l) s = .next (closing u (settleRing (domNow u (nkDom u)) (nkLinkEv l true
          (modNk v (fun k => { k with breaks := k.breaks.filter (fun b => !(b.1 == u.norrak.position.val && b.2.1 == l.val)) }))))))
    ∧ (nkUp u l = true → exec (.nkLinkDown dt l) s = .next (closing u (nkLinkDown l u)))
    ∧ (nkUp u l = true → v = modNkLink u l (fun k => { k with crcErr := k.crcErr + 1 }) →
        exec (.nkBadFrame dt l vc) s = .next (closing u (modVc
          { v with tally := { v.tally with linkErrors := upd v.tally.linkErrors ⟨4 + l.val, by omega⟩ (· + 1) } } l vc
          (fun c => { c with nak := some ((c.seqRx.map (· + 1)).getD 0) }))))
    ∧ (∀ h : Hello, nkReceive l hdr 0 0x00 (helloPayload h) u = (v, true) → hdr.src ≠ v.norrak.position →
        (h.check = v.norrak.listCrc → (∃ m, v.norrak.members[hdr.src.val]? = some m ∧ m.serial = h.serial) →
          exec (.helloRx dt l hdr h) s = .next (closing u (settleRing (domNow v (nkDom v)) (modNk v (fun k => { k with
            members := k.members.modify hdr.src.val (fun m => { m with heardAt := some v.time.now, seen := true, differs := false, hostPresent := h.hostPresent })
            breaks := k.breaks.filter (fun b => b.1 != hdr.src.val || h.breaks.contains b.2.2) })))))
        ∧ (h.check ≠ v.norrak.listCrc → exec (.helloRx dt l hdr h) s =
            .next (closing u (emit { source := 165, sev := .warning, payload := b1 hdr.src.val ++ leBytes 4 h.check.toNat }
              (modNk v (fun k => { k with members := k.members.modify hdr.src.val (fun m => { m with differs := true }) }))))))
    ∧ (u.norrak.members ≠ [] → u.norrak.helloAt = none → exec (.helloSend dt) s = .next (closing u
        (stepKeeper (nkSend 0 0x00 none (helloBytes (expirePubs (modNk u (fun k => { k with helloAt := some u.time.now }))))
          (expirePubs (modNk u (fun k => { k with helloAt := some u.time.now })))).1)))
    ∧ (∀ i rest, (List.range (nkCount u)).filter (fun i => !heard u i) = i :: rest → (u.norrak.state = .ring ∨ u.norrak.state = .chain) →
        exec (.heardTimeout dt) s = .next (closing u (partition
          ((stampIn u .d1 (((u.norrak.members[i]?).bind (fun m => m.heardAt)).getD 0)).t + 4000000) u)))
    ∧ (∀ pos (broken : Fin 2) (stamp : T32), nkReceive l hdr 0 0x03 (b1 pos.val ++ b1 broken.val ++ [0, 0] ++ leBytes 4 stamp.toNat) u = (v, true) →
        hdr.src ≠ v.norrak.position → exec (.breakRx dt l hdr pos broken stamp) s = .next (closing u
          (settleRing (resolve32 (domNow v (nkDom v)) stamp) (modNk v (fun k => { k with
            breaks := k.breaks.filter (fun b => !(b.1 == pos.val && b.2.1 == broken.val)) ++ [(pos.val, broken.val, stamp)] })))))
    ∧ (u.norrak.isKeeper = false → parentLink u = some l → nkUp u l = true → u.norrak.syncAt = none →
        v = modNk (modNkLink u l (fun k => { k with syncT1 := some (domNow u .d1, u.time.now) })) (fun k => { k with syncAt := some u.time.now }) →
        exec (.syncSend dt) s = .next (closing u (nkOut l
          { vc := 0, kind := 0x01, src := u.norrak.position, dst := 0, bcast := false, ttl := 1, payload := [] } v)))
    ∧ (nkUp u l = true → v = modNkLink (chkObserve 3 l.val 1 [] u) l (fun k => { k with framesRx := k.framesRx + 1 }) →
        exec (.syncRx dt l) s = .next (closing u (nkOut l
          { vc := 0, kind := 0x02, src := v.norrak.position, dst := 0, bcast := false, ttl := 1
            payload := leBytes 4 (t32 (domNow v .d1)).toNat ++ leBytes 4 (t32 (domNow v .d1)).toNat ++ b1 (domStateCode v.time.d1.state) ++ [0, 0, 0] } v)))
    ∧ (∀ t1 at' (t2 t3 : T32), u.norrak.links[l].syncT1 = some (t1, at') → nkUp u l = true →
        ∃ w theta, exec (.syncRespRx dt l t2 t3) s = .next (closing u (masterUpdateEff .d1 (domNow u .d1 + BitVec.ofInt 64 theta) w))
          ∧ theta = roundDiv (diff64 (resolve32 (domNow u .d1) t2) t1 - diff64 (domNow u .d1) (resolve32 (domNow u .d1) t3)
              - sext 32 (reg u (0xA018 + 4 * l))) 2
          ∧ w.norrak.links[l].syncT1 = none ∧ w.norrak.links[l].syncMissed = 0)
    ∧ (∀ t1 at', u.norrak.links[l].syncT1 = some (t1, at') → at' + 100 * usLsb ≤ u.time.now →
        exec (.syncTimeout dt l) s = .next (closing u
          (emit { source := 170, sev := .warning, idx := l, payload := b1 l ++ b1 (min (u.norrak.links[l].syncMissed + 1) 255) }
            (modNkLink u l (fun k => { k with syncT1 := none, syncMissed := k.syncMissed + 1 })))))
    ∧ (∀ (n : Fin 32) p, localPub u n = some p → 8 ≤ p.unsent.length → ∀ rest, rest = p.unsent.drop 8 →
        v = modPub u n (fun p => { p with unsent := rest, unsentAt := if rest.isEmpty then none else some u.time.now }) →
        exec (.trajSend dt n) s = .next (closing u
          (nkSend 1 0x08 none (trajBytes { slot := n, final := p.final && rest.isEmpty, cForce := t32 p.cForce, cPend := t32 p.cPend
                                           cAct := t32 p.cAct, stopDec := p.stopDec, stopJerk := p.stopJerk, recs := p.unsent.take 8 }) v).1))
    ∧ (∀ p, nkReceive l hdr 1 0x08 (trajBytes p) u = (v, true) →
        exec (.trajRx dt l hdr p) s = .next (closing u (if hdr.src = v.norrak.position then trajBack p.slot p v else trajStore hdr.src p v)))
    ∧ (∀ ev, u.fault.buffer.length < 64 → nkReceive l hdr 2 0x10 (leBytes 32 ev.toNat) u = (v, true) → hdr.src ≠ v.norrak.position →
        v.norrak.evtSeen.contains ((tokenOf ev).origin, (tokenOf ev).seq) = false → exec (.eventFrameRx dt l hdr ev) s =
          .next (closing u { v with
            norrak := { v.norrak with evtSeen := (((tokenOf ev).origin, (tokenOf ev).seq) :: v.norrak.evtSeen).take 64 }
            fault := { v.fault with buffer := v.fault.buffer ++ [tokenOf ev] } }))
    ∧ (∀ (ident : BitVec 16) ds, nkReceive l hdr 3 0x18 (leBytes 2 ident.toNat ++ [0, 0] ++ ds.flatMap (fun (d : RawDesc) => leBytes 64 d.bits.toNat)) u = (v, true) →
        hdr.src ≠ v.norrak.position → v.norrak.reqSeen.contains (hdr.src, ident) = false → exec (.tunnelReqRx dt l hdr ident ds) s =
          .next (closing u (serveTunnel hdr.src ident ds (modNk v (fun k => { k with reqSeen := ((hdr.src, ident) :: k.reqSeen).take 64 })))))
    ∧ (∀ (ident : BitVec 16) (cs : List (BitVec 256)) (data : List Byte), nkReceive l hdr 3 0x19
          (leBytes 2 ident.toNat ++ [0, 0] ++ cs.flatMap (fun c => leBytes 32 c.toNat) ++ data) u = (v, true) →
        hdr.src ≠ v.norrak.position → ∀ t, v.norrak.tunnels.find? (fun t => t.ident == ident && t.dst == hdr.src) = some t →
        t.got.length + cs.length < t.count → exec (.tunnelRspRx dt l hdr ident cs data) s = .next (closing u (modNk v (fun k => { k with
          tunnels := k.tunnels.map (fun x => if x.desc = t.desc then { t with
            got := t.got ++ cs.filter (fun c => !t.got.contains c), data := if data = [] then t.data else data } else x) }))))
    ∧ (∀ ctl : Vector LinkCtl 4, nkUp u l = true → ∀ data w, data = ctl.toList.flatMap linkctlBytes →
        w = (List.finRange 4).foldl (fun s (v : Fin 4) => nkCtlVc l v ctl[v] s) (chkObserve 3 l.val 1 data u) → exec (.linkctlRx dt l ctl) s =
        .next (closing u (if (List.finRange 4).any (fun v => decide (8 < w.norrak.links[l].vcs[v].fails)) then nkLinkDown l w else w)))
    ∧ (nkUp u l = true → u.norrak.links[l].up = true → 4 ≤ u.norrak.links[l].unackedRx → ∃ pay, exec (.linkctlTimer dt l) s = .next (closing u
        (nkOut l { vc := 0, kind := 0x3F, src := u.norrak.position, dst := 0, bcast := false, ttl := 1, payload := pay }
          (modNkLink u l (fun k => { k with unackedRx := 0, oldestRx := none, vcs := k.vcs.map (fun c => { c with nak := none, freed := 0 }) })))))
    ∧ (∀ t, u.norrak.links[l].vcs[vc].sentAt = some t → nkUp u l = true → t + 20 * usLsb ≤ u.time.now →
        exec (.retxTimeout dt l vc) s = .next (closing u (nkRetry l vc u)))
    ∧ (∀ (k : Fin 16) p, u.norrak.pubs[k.val]? = some p → p.cPend ≠ p.cForce → 0 ≤ diff64 (domNow u .d1) p.cAct →
        ∃ w, exec (.commitActivate dt k) s = .next (closing u (modNk u (fun x => { x with pubs := w })))
          ∧ w[k.val]? = some { p with cForce := p.cPend } ∧ ∀ i, i ≠ k.val → w[i]? = u.norrak.pubs[i]?)
    ∧ (∀ (k : Fin 16) p, u.norrak.pubs[k.val]? = some p → u.norrak.state = .partitioned → p.stopping = false → 0 ≤ diff64 (domNow u .d1) p.cForce →
        ∃ put w, w = partStops (advanceStops (domNow u .d1) (modNk u (fun x => { x with pubs := x.pubs.modify k.val put })))
          ∧ (put p).stopping = true ∧ (put p).stopNext = some p.cForce ∧ (put p).unsent = []
          ∧ (put p).recs = p.recs.filter (fun r => decide (diff64 (resolve32 (domNow u .d1) r.t) p.cForce < 0))
          ∧ exec (.commitStop dt k) s = .next (closing u (emit { source := 167, sev := .warning, idx := p.pos, payload := b1 p.pos.val ++ b1 p.slot.val ++ leBytes 4 (t32 p.cForce).toNat } w)))

/-! ### CAN controllers, Quire, check units (14 to 16) -/

/-- R389 to R408: the commands of a CAN controller: frames become eligible at their apply times and in their windows, the one of the lowest identifier starts, is sent, received, or ends in an error frame; a recovery ends with its counters at 0; cycles of the
schedule start from reference messages or go on alone. -/
def Obligations.Can_frames_and_schedule : Prop :=
  ∀ (dt : Nat) (c : Fin 2) (s u v : State), s.life.inReset = false → u = begin dt s →
    (∃ w, exec (.canEligible dt c) s = .next (closing u (modCan u c (fun x => { x with slots := w })))
        ∧ w.map (fun e => e.1) = u.can[c].slots.map (fun e => e.1)
        ∧ ∀ i e x, (i, e) ∈ u.can[c].slots → e.apply = some x → e.scheduled = false → e.since ≤ u.time.now - u.time.now % 16000 →
            toD0 u x ≤ ((u.time.now - u.time.now % 16000 : Nat) : Int) → (i, { e with eligible := true }) ∈ w)
    ∧ (∀ i e data, canDrives u c = true → attempting u c = false → u.can[c].refDue = false → offered u.can[c] = some (i, e) → 0 < e.attempts →
        data = e.frame.data → v = modCan (modCanSlot c i (fun e => { e with
          sof := some u.time.now, sofAt := some (sofStamp u e.desc), attempts := e.attempts + 1
          frame := { e.frame with data := data } }) u) c (fun x => { x with busIdle := false }) →
        exec (.canSof dt c) s = .next (closing u { v with out := v.out ++ [.can c e.frame.ident data] }))
    ∧ (∀ i e tdc, attempt u c = some (i, e) → e.cancel = none →
        v = modCan (takeTdc c e.frame tdc (settleCan c (modCan u c (fun x => { x with tecN := x.tecN - 1, busIdle := true })))) c
          (fun x => { x with slots := tabDel x.slots i, sent := x.sent + 1 }) →
        exec (.canTxDone dt c tdc) s = .next (closing u (loopBack c
          { e.frame with esi := identFd e.frame.ident && u.can[c].state == .passive } (e.sof.getD u.time.now)
          (complete e.desc stOK e.attempts v.can[c].tecN (some (e.sofAt.getD ⟨.d0, BitVec.ofNat 64 (e.sof.getD u.time.now)⟩)) v))))
    ∧ (∀ f age, canHears u c = true → (identFd f.ident = false ∨ canFd u c = true) →
        exec (.canRxFrame dt c f age) s = .next (closing u
          (receiveFrame c f ((u.time.now : Int) - age) false (recGood c (modCan (loseAttempt c u) c (fun x => { x with busIdle := true }))))))
    ∧ (∀ e phase t r, canMode u c ≠ 0 → u.can[c].state ≠ .busOff → u.can[c].state ≠ .recovering →
        (e ≠ .pex → exec (.canErrorFrame dt c e phase t r) s = .next (closing u (errorFrame c (errCode e) phase t r u)))
        ∧ (regB u (canBase c) 4 = true → exec (.canErrorFrame dt c .pex phase t r) s = .next (closing u (protocolException c phase u)))
        ∧ (regB u (canBase c) 4 = false → exec (.canErrorFrame dt c .pex phase t r) s = .next (closing u (errorFrame c 2 phase t r u))))
    ∧ (∀ id, u.can[c].state = .recovering → u.can[c].recover = some id →
        v = modCan (completeOk id (some (nowStamp u)) u) c (fun x => { x with tecN := 0, recN := 0, recover := none, busIdle := true }) →
        exec (.canRecoveryDone dt c) s = .next (closing u (emit
          (canHap c 2 .note 0 (leBytes 4 (satU 32 ((u.time.now - u.can[c].offSince) / usLsb)))) (setCanState c .active v))))
    ∧ (∀ t, schedOn u c = true → regB u (canBase c + 0x30) 1 = true → canDrives u c = true → u.can[c].refDue = false → u.can[c].cycleStart = some t →
        (cycleLsb u c : Int) ≤ diff64 (domNow u .d2) t →
        exec (.refMessageSend dt c) s = .next (closing u (modCan u c (fun x => { x with refDue := true }))))
    ∧ (∀ count rank prev, schedOn u c = true → canHears u c = true → attempting u c = false → u.can[c].prevSof = none → canRank u c ≤ rank.toNat →
        ∃ w fr, exec (.refMessageRx dt c count rank prev) s = .next (closing u (receiveFrame c fr w.time.now false (recGood c w)))
          ∧ fr.ident = refIdent w c rank.toNat ∧ (w.can[c].running = true ∧ w.can[c].cycle = count.toNat % cycleMod u c ∧ w.can[c].masterRank = some rank.toNat ∧ w.can[c].isMaster = false ∧ w.can[c].opened = []))
    ∧ (∀ t n, u.can[c].cycleStart = some t → schedOn u c = true → (regB u (canBase c + 0x30) 1 && canDrives u c) = false → refLost u c = true →
        n = (diff64 (domNow u .d2) t).toNat / cycleLsb u c → 1 ≤ n → exec (.canCycleStart dt c) s =
          .next (closing u (beginCycle c (t + BitVec.ofNat 64 (n * cycleLsb u c)) ((u.can[c].cycle + n) % cycleMod u c) u)))
    ∧ (∀ w t len, windowSpan u c w = some (t, len) → schedOn u c = true → u.can[c].running = true → 0 ≤ diff64 (domNow u .d2) t → diff64 (domNow u .d2) t < len →
        u.can[c].opened.contains w = false → exec (.canWindowOpen dt c w) s = .next (closing u (modCan u c (fun x => { x with
          open_ := (w, t + BitVec.ofNat 64 len) :: x.open_.filter (fun o => o.1 != w)
          opened := w :: x.opened
          slots := x.slots.map (fun e => (e.1, { e.2 with eligible := e.2.eligible || (e.2.scheduled && e.2.window == w) })) }))))
    ∧ (∀ w t, u.can[c].open_.find? (fun o => o.1 == w) = some (w, t) → 0 ≤ diff64 (domNow u .d2) t →
        exec (.canWindowClose dt c w) s = .next (closing u (closeWindow c w u)))

/-- R411, R416, R423, R426, R398, R436: a capture that is armed starts at its first sample, which is taken once its values exist, and the next one follows a period later; a stop command that waits ends it there. A capture streams
what is due to its ring, and a bulk ring takes a chunk of its controller's frames when one is full or 1 ms after the oldest of them. A write of a check unit's CFG enables, disables or is refused. -/
def Obligations.Quire_samples_and_check_units : Prop :=
  ∀ (dt : Nat) (path : Path) (s u : State), s.life.inReset = false → u = begin dt s →
    (∀ (tq : T64) (c : QCfg) (vals : List Int) (lo hi : Ecc) (w x : State), waitingArm u = none → u.quire.next = some tq → u.quire.cfg = some c → quireArmed u = true →
        0 ≤ diff64 (domNow u c.dom) tq →
        c.chans.map (fun ch => valueAt u (Fin.ofNat 16 ch) (tq + BitVec.ofInt 64 (chanSkew u (Fin.ofNat 16 ch)))) = vals.map some →
        w = { u with quire := { u.quire with next := some (tq + BitVec.ofNat 64 u.quire.period) } } →
        (stopCommands tq c.dom w = (x, false) → exec (.quireSample dt lo hi) s = .next (closing u (quireStream (runSample lo hi tq c vals x))))
        ∧ (stopCommands tq c.dom w = (x, true) → exec (.quireSample dt lo hi) s = .next (closing u x)))
    ∧ (∀ f t lo hi, waitingArm u = some (f, t) → u.quire.next = none → (startCapture f t u).quire.next = none →
        exec (.quireSample dt lo hi) s = .next (closing u (startCapture f t u)))
    ∧ (∀ f t, waitingArm u = some (f, t) → u.quire.state = .idle → firstFail (quireState f u) = none → (qcfgOf f u).stream = true →
        (startCapture f t u).quire.state = .armed ∧ (startCapture f t u).quire.next = some t ∧ (startCapture f t u).quire.mem = [])
    ∧ (∀ (r : Fin 4) (c : Fin 2) x items n w, strSource u r = 3 + c.val → items = u.can[c].buffer.filter (fun y => y.bulk) → items.head? = some x →
        n = min (chunkRoom u r / 80) items.length → (n = chunkRoom u r / 80 ∨ toD0 u x.stamp + msLsb ≤ u.time.now) →
        (writeChunk r x.stamp ((items.take n).flatMap (rxItem u c)) u = (w, true) → exec (.streamChunkTimer dt r) s = .next (closing u
          (modCan w c (fun y => { y with buffer := (items.take n).foldl (fun b z => b.erase z) y.buffer }))))
        ∧ (writeChunk r x.stamp ((items.take n).flatMap (rxItem u c)) u = (w, false) → exec (.streamChunkTimer dt r) s = .next (closing u w)))
    ∧ (∀ (r : Fin 4) (c : Fin 2), strSource u r = 3 + c.val → u.can[c].buffer.filter (fun y => y.bulk) = [] →
        exec (.streamChunkTimer dt r) s = .next (closing u u))
    ∧ (∀ r : Fin 4, strSource u r = 1 → quireRing u = some r → exec (.streamChunkTimer dt r) s = .next (closing u (quirePump r 512 u)))
    ∧ (pathOpen path u = true → ∀ (n : Fin 8) (value : Word),
        (chkOn u n = false → (value.getLsbD 0 = false ∨ chkBad u n value.toNat = false) → exec (.chkEnable dt path n value) s =
          .next (closing u (modCheck (writeRw u (chkBase n) value.toNat) n (fun x => { x with cfgBad := false }))))
        ∧ (chkOn u n = false → value.getLsbD 0 = true → chkBad u n value.toNat = true → exec (.chkEnable dt path n value) s = .next (closing u
            (emit { source := 208 + n.val, sev := .warning, code := 2, payload := b1 2 ++ leBytes 4 value.toNat }
              (modCheck (writeRw u (chkBase n) (putBits value.toNat 0 0 0)) n (fun x => { x with cfgBad := true })))))
        ∧ (chkOn u n = true → value.getLsbD 0 = true → exec (.chkEnable dt path n value) s = .next (closing u u))
        ∧ (chkOn u n = true → value.getLsbD 0 = false → exec (.chkEnable dt path n value) s = .next (closing u
            (modCheck (setReg u (chkBase n) (putBits (reg u (chkBase n)) 0 0 0)) n (fun x => { x with cfgBad := false })))))

/-! ### Firebreak (17) -/

/-- R444 to R460: Firebreak: changes of its inputs are filtered, accepted as demands and released, and differ too long; SS1 ends in STO at its time, its limit or by the supervisor; a failed self-check is a latched self-fault of its kind; the speed windows, test pulses,
feedback of the outputs and the confirmation have their effects. -/
def Obligations.Firebreak_inputs_functions_and_checks : Prop :=
  ∀ (dt : Nat) (ch : Fin 4) (g : Fin 8) (s u v : State), s.life.inReset = false → u = begin dt s →
    (u.firebreak.chans[ch].released = true → u.firebreak.chans[ch].demand = false → exec (.sinInputChange dt ch false) s = .next (closing u
        (modSinCh u ch (fun x => { x with released := false, since := u.firebreak.ticks, filtering := true }))))
    ∧ (u.firebreak.chans[ch].released = false → u.firebreak.chans[ch].demand = false → u.firebreak.chans[ch].filtering = true →
        u.firebreak.chans[ch].since + (sinEntry u (sinOf ch)).dfilt ≤ u.firebreak.ticks →
        exec (.demandAccept dt ch) s = .next (closing u (settleInput ch (modSinCh u ch (fun x => { x with demand := true, filtering := false })))))
    ∧ (u.firebreak.chans[ch].released = true → u.firebreak.chans[ch].demand = true → u.firebreak.chans[ch].filtering = true →
        u.firebreak.chans[ch].since + 100 * (sinEntry u (sinOf ch)).filterMs ≤ u.firebreak.ticks →
        exec (.releaseAccept dt ch) s = .next (closing u (settleInput ch
          (modSinCh u ch (fun x => { x with demand := false, filtering := false, chatter := false, starts := [] })))))
    ∧ (∀ (i : Fin 2) t, u.firebreak.ins[i].differSince = some t → u.firebreak.ins[i].discrepancy = false → t + 100 * (sinEntry u i).discMs ≤ u.firebreak.ticks →
        v = emit { source := 218, sev := .fault, idx := i, payload := b1 i.val ++ b1 u.firebreak.ins[i].firstCh } (modFb u (fun fb => { fb with
          ins := upd fb.ins i (fun x => { x with discrepancy := true, bothDemand := false, firstRelease := none }) })) →
        exec (.discrepancy dt i) s = .next (closing u (if u.firebreak.ins[i].demand then v else demandOn i u.firebreak.ins[i].firstCh v)))
    ∧ (∀ t, u.firebreak.groups[g].stoAt = some t → t ≤ u.firebreak.ticks → exec (.ss1Timeout dt g) s = .next (closing u (applySto g 2 u)))
    ∧ (∀ t, u.firebreak.groups[g].limitAt = some t → t ≤ u.firebreak.ticks → exec (.ss1Limit dt g) s = .next (closing u (applySto g 2 u)))
    ∧ (∀ t, u.firebreak.faultAt = some t → t * 10 + 11 * ss1Ms u * msLsb ≤ u.time.now * 10 →
        exec (.selfFaultStoForce dt) s = .next (closing u ((List.finRange 8).foldl (fun s g => applySto g 5 s) u)))
    ∧ (u.firebreak.windowAt + 100 ≤ u.firebreak.ticks → u.firebreak.mons = [] → v = modFb (liftSto u) (fun fb => { fb with windowAt := fb.ticks }) →
        v.firebreak.mons = [] → exec (.fbSpeedWindow dt) s = .next (closing u ((List.finRange 8).foldl (fun s g => watchGroup g s) v)))
    ∧ (u.firebreak.stoOut = true → ∃ w, exec (.stoTestPulse dt true true) s = .next (closing u w)
        ∧ w.firebreak = { u.firebreak with readback := true, stoTests := u.firebreak.stoTests + 1 })
    ∧ (∀ (e : Fin 12) t, u.link.eps[e].stoSince = some t → u.link.eps[e].stoReported = false → u.link.eps[e].stoFailed = false →
        t + leAt u.firebreak.record 26 2 * msLsb ≤ u.time.now → exec (.epStoTimeout dt e) s = .next (closing u
          (settleOutputs (emit { source := 224, sev := .stop, idx := e, handler := 2, payload := b1 e.val ++ b1 1 }
            (modFb (modEp u e (fun x => { x with stoFailed := true })) (fun fb => { fb with epFail := true, outOff := true }))))))
    ∧ (u.firebreak.edmOpen = 0#2 → u.firebreak.cdrv = false →
        (∃ w, exec (.edmInput dt 0 true) s = .next (closing u (settleOutputs w)) ∧ w.firebreak = { u.firebreak with edmOpen := 1#2 })
        ∧ (∃ w, exec (.edmInput dt 1 true) s = .next (closing u (settleOutputs w)) ∧ w.firebreak = { u.firebreak with edmOpen := 2#2 }))
    ∧ (∀ (i : Fin 2) t, u.firebreak.cdrvAt = some t → bit (edmMask u) i.val = true → t + edmTicks u ≤ u.firebreak.ticks →
        u.firebreak.edmOpen.getLsbD i.val = u.firebreak.cdrv → exec (.edmTimeout dt i) s = .next (closing u (edmFault i (!u.firebreak.cdrv) u)))
    ∧ (u.firebreak.edmFault = true → edmAll u true = true → exec (.edmAck dt .pcie) s =
        .next (closing u (liftSto (modFb u (fun fb => { fb with edmFault := false })))))
    ∧ (svcUp u = true → slotsOn u = false → u.life.state ≠ .commissioned → u.life.state ≠ .retired →
        ∀ value : Word, exec (.fbConfirmWrite dt value) s = .next (closing u (confirmRecord value.toNat u).1))
    ∧ (∀ kind, u.firebreak.faultKind = 0 → v = selfFault kind u →
        (∀ n, kind = 1 → (n < 155200000 ∨ 164800000 < n) → exec (.fbTimebaseCheck dt n) s = .next (closing u v))
        ∧ (kind = 2 → exec (.fbSupplyFault dt) s = .next (closing u v))
        ∧ (kind = 3 → exec (.fbScrub dt .bad) s = .next (closing u v))
        ∧ (kind = 4 → u.firebreak.record ≠ [] → exec (.fbRecordCheck dt false) s = .next (closing u v))
        ∧ (kind = 5 → exec (.fbLogicSelftest dt false) s = .next (closing u v))
        ∧ (kind = 5 → u.firebreak.selftestOk = false → exec (.fbStartupSelftest dt false) s = .next (closing u v))
        ∧ (kind = 6 → exec (.fbInputTest dt false) s = .next (closing u v))
        ∧ (kind = 7 → exec (.fbWatchdogMiss dt) s = .next (closing u v)))
    ∧ (∀ n, 155200000 ≤ n → n ≤ 164800000 → exec (.fbTimebaseCheck dt n) s = .next (closing u u))
    ∧ exec (.fbScrub dt .corrected) s = .next (closing u (modFb u (fun fb => { fb with memFixed := satU 16 (fb.memFixed + 1) })))
    ∧ exec (.fbLogicSelftest dt true) s = .next (closing u (modFb u (fun fb => { fb with logicTests := satU 16 (fb.logicTests + 1) })))
    ∧ exec (.fbInputTest dt true) s = .next (closing u u)
    ∧ exec (.fbRecordCheck dt true) s = .next (closing u u)
    ∧ (∀ good, good = recordGood u.firebreak.record → u.firebreak.selftestOk = false → u.firebreak.record ≠ [] →
        v = modFb u (fun fb => { fb with
          selftestOk := true, logicTests := satU 16 (fb.logicTests + 1), valid := good, confirmed := good && fb.nvConfirmed, windowAt := fb.ticks }) →
        exec (.fbStartupSelftest dt true) s = .next (closing u (if good then liftSto (holdPresent (loadEntries v)) else recordState 0 v)))

/-! ### Faults, events, the lifecycle and the tallies (18, 19) -/

/-- R468, R472, R474, R475, R479, R484: acknowledgement clears the causes that are gone, unless a group is still on its way to its stop; a ledger is cleared of what is not in progress, and of stop entries only while FAULT_N is high; EVT_TEST
raises its note; the oldest token is written to the event ring, after EVENTS_LOST where tokens were lost; and a handling that may start pre-empts the lower ones and runs its action. -/
def Obligations.Faults_are_acknowledged_cleared_and_written : Prop :=
  ∀ (dt : Nat) (path : Path) (s u : State), s.life.inReset = false → u = begin dt s →
    (pathOpen path u = true → u.fault.chipGroups.any (fun g => u.axis.groups[g].ss1) = false →
        exec (.faultAck dt path) s = .next (closing u { u with fault := { u.fault with causes := u.fault.causes.filter (fun c =>
          decide (c.1 < 7) || c.1 == 7 && decide (125 < u.life.tj) || c.1 == 8 && decide (inService u < 6)) } }))
    ∧ (pathOpen path u = true → u.fault.chipGroups.any (fun g => u.axis.groups[g].ss1) = true → exec (.faultAck dt path) s = .next (closing u u))
    ∧ (pathOpen path u = true → ∀ mask : BitVec 7, exec (.ledgerClear dt path mask) s =
        .next (closing u (((List.finRange 7).filter (fun L => mask.getLsbD L.val)).foldl clearLedger u)))
    ∧ (∀ (L K : Fin 7) (i : Nat) (x : State) (e : Entry), x.fault.ledgers[L].entries[i]? = some (some e) →
        (inProgress e = true ∨ (e.level = .stop ∧ x.fault.faultLow = true) →
          ∃ f : Entry, (clearLedger x L).fault.ledgers[L].entries[i]? = some (some f) ∧ f.source = e.source ∧ f.hstate = e.hstate)
        ∧ (inProgress e = false → (e.level ≠ .stop ∨ x.fault.faultLow = false) → (clearLedger x L).fault.ledgers[L].entries[i]? = some none)
        ∧ (clearLedger x L).fault.ledgers[L].ovNote = 0
        ∧ (K ≠ L → (clearLedger x L).fault.ledgers[K].ovNote = x.fault.ledgers[K].ovNote
          ∧ (clearLedger x L).fault.ledgers[K].entries.map Option.isSome = x.fault.ledgers[K].entries.map Option.isSome))
    ∧ (pathOpen path u = true → ∀ value : Word, exec (.faultEvtTestWrite dt path value) s =
        .next (closing u (emit { source := 249, sev := .note, payload := leBytes 4 value.toNat } u)))
    ∧ (∀ t rest, u.fault.buffer = t :: rest → evqFree u = true →
        (u.fault.lostCount = 0 → exec (.eventWrite dt .ok) s = .next (closing u (writeEvent t { u with fault := { u.fault with buffer := rest } })))
        ∧ (u.fault.lostCount ≠ 0 → ∀ t' rest', (reportLost u).fault.buffer = t' :: rest' → evqFree (reportLost u) = true →
          exec (.eventWrite dt .ok) s = .next (closing u (writeEvent t' { reportLost u with fault := { (reportLost u).fault with buffer := rest' } })))
        ∧ (u.fault.lostCount ≠ 0 → evqFree (reportLost u) = false → exec (.eventWrite dt .ok) s = .next (closing u (reportLost u)))
        ∧ ∀ code, exec (.eventWrite dt (.failed code)) s = .next (closing u (ringDmaError (.out .evq) code u)))
    ∧ ((u.fault.buffer = [] ∨ evqFree u = false) → ∀ r, exec (.eventWrite dt r) s = .next (closing u u))
    ∧ (∀ (L : Fin 7) (i : Fin 32) e r v, r = ⟨L.val, i.val⟩ → entryAt u r = some e → startsNext u r e = true →
        v = modEntry (preemptOthers u L.val e.level r) r (fun e => { e with hstate := .running }) →
        (e.action ≠ some .isolate → (∀ m, e.action ≠ some (.ss1 m)) → exec (.handlingStart dt L i) s = .next (closing u v))
        ∧ (e.action = some .isolate → exec (.handlingStart dt L i) s = .next (closing u
            (endHandling (quarantineLane (Fin.ofNat 9 e.index) (some r) v) r false)))
        ∧ (∀ m, e.action = some (.ss1 m) → exec (.handlingStart dt L i) s = .next (closing u
            (requestAll (ss1Cause e.source) (some r) ((List.finRange 8).filter (fun g => m.getLsbD g.val)) v))))
    ∧ (∀ (L : Fin 7) (i : Fin 32), (∀ e, entryAt u ⟨L.val, i.val⟩ = some e → startsNext u ⟨L.val, i.val⟩ e = false) →
        exec (.handlingStart dt L i) s = .next (closing u u))

/-- R495, R498 to R512: a lifecycle change is requested and committed, tallies are written each hour and refreshed after two years, the loss of the backup supply is noted, and a park entry fails whose endpoint stays away. -/
def Obligations.Lifecycle_tallies_and_backup : Prop :=
  ∀ (dt : Nat) (s u v w : State), s.life.inReset = false → u = begin dt s →
    (pathOpen .svc u = true → ∀ (value : Word) l, lifeOf (bits value.toNat 2 0) = some l → bits value.toNat 15 3 = 0 → u.life.changing = none →
        firstFail (lifeState (bits value.toNat 2 0) (bits value.toNat 31 16) u) = none →
        exec (.lifeReq dt value) s = .next (closing u { u with life := { u.life with changing := some (l, none) } }))
    ∧ (svcUp u = true → svcNoWrites u = true → ∀ value : Word, exec (.lifeReq dt value) s =
        .next (closing u { u with svc := { u.svc with denied := true } }))
    ∧ (∀ new, u.life.changing = some (new, none) → ∃ t, exec (.lifecycleCommit dt) s = .next (closing u t)
        ∧ t.life.state = new ∧ t.life.changing = none ∧ t.life.park = [] ∧ t.life.parkValid = false
        ∧ t.tally.changes = satU 16 (u.tally.changes + 1)
        ∧ (u.life.state = .commissioned ∨ new = .retired → t.firebreak.record = [] ∧ t.firebreak.valid = false ∧ t.firebreak.nvConfirmed = false))
    ∧ (u.tally.lastWrite + 3600 * secLsb ≤ u.time.now → exec (.tallyPeriodic dt) s = .next (closing u
        (emit { source := 240, sev := .note, idx := 1, payload := b1 1 ++ leBytes 2 (u.tally.seq + 1).toNat }
          { u with tally := { u.tally with
            seq := u.tally.seq + 1, lastWrite := u.time.now, journal := (((u.tally.seq + 1).toNat, tallyImage u) :: u.tally.journal).take 64 } })))
    ∧ (2 * 365 * 86400 ≤ sinceRefresh u → exec (.tallyRefresh dt) s = .next (closing u
        (emit { source := 241, sev := .note, payload := leBytes 4 (satU 32 (u.tally.refreshes + 1)) }
          { u with tally := { u.tally with
            refreshes := satU 32 (u.tally.refreshes + 1), refreshCal := calNow u, refreshPow := u.tally.poweredS } })))
    ∧ (∀ (i : Fin 4) r, u.life.runs[i.val]? = some r → r.own = true → r.phase = .waiting → r.seen = false → epPresent u r.entry.ep = false →
        u.life.parkAt + 100 * msLsb ≤ u.time.now →
        exec (.parkEndpointTimeout dt i) s = .next (closing u (endEntry i false (modRun i (fun r => { r with reason := 1 }) u))))
    ∧ (v = begin dt w → v.chip.powerGood = false → exec (.vbackupLoss dt) w = .next { v with life := { v.life with
        vbackupOk := false, calLost := v.life.calLost || v.life.calValid, calValid := false } })
    ∧ (v = begin dt w → v.chip.powerGood = true → exec (.vbackupLoss dt) w = .next v)

/-! ### Addressed stores (05, 06) -/

/-- R143, R165, R166, R169, R171 to R173: of the Glade, a lease, a release, a move of a lease and a job's commit change exactly the words that they address, and keep the store in its canonical form. -/
def Obligations.Glade_words_change_only_where_addressed : Prop :=
  ∀ (v : State) (a : Nat), Memory.wf zero0 v.glade.words = true →
    (∀ base n, Memory.wf zero0 (zeroWords base n v).glade.words = true
        ∧ cellGet zero0 (zeroWords base n v).glade.words a = if base ≤ a ∧ a < base + n then 0 else cellGet zero0 v.glade.words a)
    ∧ (∀ l, Memory.wf zero0 (freeLease v l).glade.words = true
        ∧ cellGet zero0 (freeLease v l).glade.words a = if l.2.base ≤ a ∧ a < l.2.base + l.2.words then 0 else cellGet zero0 v.glade.words a)
    ∧ (∀ (f : InFlight) k base n, tabFree v.glade.leases 128 = some k → n = leaseNeed v (bit (pU f.payload 18 1) 0) (leaseLeaves f.payload) →
        placeLease v (pU f.payload 19 1) n = some base → Memory.wf zero0 (leaseNow f v).glade.words = true
        ∧ cellGet zero0 (leaseNow f v).glade.words a = if base ≤ a ∧ a < base + n then 0 else cellGet zero0 v.glade.words a)
    ∧ (∀ k (l : Lease) dest, (∀ b, dest ≤ b → b < dest + l.words → ¬ (l.base ≤ b ∧ b < l.base + l.words) → cellGet zero0 v.glade.words b = 0) →
        Memory.wf zero0 (moveLease k l dest v).glade.words = true
        ∧ cellGet zero0 (moveLease k l dest v).glade.words a =
            if dest ≤ a ∧ a < dest + l.words then cellGet zero0 v.glade.words (a - dest + l.base)
            else if l.base ≤ a ∧ a < l.base + l.words then 0 else cellGet zero0 v.glade.words a)
    ∧ (∀ r : LaneRun, Memory.wf zero0 (commitStores r v).glade.words = true
        ∧ ((∀ x ∈ r.staged, ∀ p k le, relAddr (spaceOf v r.job.owner) x.1 = some (p, k, le) → p ≠ a) →
            cellGet zero0 (commitStores r v).glade.words a = cellGet zero0 v.glade.words a)
        ∧ (∀ x rest k le, r.staged = x :: rest → relAddr (spaceOf v r.job.owner) x.1 = some (a, k, le) →
            cellGet zero0 (commitStores r v).glade.words a = x.2.toNat))

/-- R137, R178 to R181: FOLIO_WRITE and PROGRAM_LOAD change exactly the entries and the words that they name, to the values of the buffer, of the Folio in whole blocks, and keep the stores in their canonical form. -/
def Obligations.Folio_and_program_ram_change_only_where_addressed : Prop :=
  ∀ (f : InFlight) (v : State) (a base first count : Nat), Memory.wf zero0 v.glade.folio = true → Memory.wf zero0 v.canopy.ram = true →
    first = pU f.payload 24 2 → count = pU f.payload 26 2 →
    (pU f.payload 28 1 = 2 → (folioWriteNow f v).glade.folio = v.glade.folio)
    ∧ (pU f.payload 28 1 ≠ 2 → base = (if pU f.payload 28 1 = 1 then pU f.payload 30 2
          else ((tabGet v.glade.tables f.target.idx).map (fun x => x.base)).getD 0) →
        Memory.wf zero0 (folioWriteNow f v).glade.folio = true
        ∧ (¬ (base + first ≤ a ∧ a < base + first + count) → cellGet zero0 (folioWriteNow f v).glade.folio a = cellGet zero0 v.glade.folio a)
        ∧ (∀ n, n = wholeBlocks first count (min count (f.buf.data.length / 4)) → n ≤ count ∧ (4 * count ≤ f.buf.data.length → n = count)
            ∧ (∀ i, i < n → cellGet zero0 (folioWriteNow f v).glade.folio (base + first + i) = leAt f.buf.data (4 * i) 3)
            ∧ (∀ i, n ≤ i → cellGet zero0 (folioWriteNow f v).glade.folio (base + first + i) = cellGet zero0 v.glade.folio (base + first + i))))
    ∧ (∀ found, findLeaves 600 ((bufWords (bufData f)).take (loadLen f)) 0 [] = .inl found →
        Memory.wf zero0 (programNow f v).canopy.ram = true
        ∧ (¬ (loadBase f ≤ a ∧ a < loadBase f + loadLen f) → ramWord (programNow f v) a = ramWord v a)
        ∧ (∀ i w, ((bufWords (bufData f)).take (loadLen f))[i]? = some w → ramWord (programNow f v) (loadBase f + i) = w))
end

