-- ==== Sys2Proof/Laws/State.lean ====
section
/-!
SUPPORT. What each update of the state leaves as it is: one lemma per update and field of State, all true by the
definitions, and what a vector with an element replaced holds.
-/

namespace Sys2Proof.Machine

@[simp] theorem upd_same {α : Type} {n : Nat} (v : Vector α n) (i : Fin n) (f : α → α) : (upd v i f)[i] = f v[i] := by
  simp [upd]

theorem upd_other {α : Type} {n : Nat} (v : Vector α n) (i j : Fin n) (f : α → α) (h : j ≠ i) : (upd v i f)[j] = v[j] := by
  have : i.val ≠ j.val := fun e => h (Fin.ext e.symm)
  simp [upd, this]


@[simp] theorem modHost_pending (s : State) (f : HostSt → HostSt) : (modHost s f).pending = s.pending := rfl
@[simp] theorem modHost_out (s : State) (f : HostSt → HostSt) : (modHost s f).out = s.out := rfl
@[simp] theorem modHost_free (s : State) (f : HostSt → HostSt) : (modHost s f).free = s.free := rfl
@[simp] theorem modHost_regs (s : State) (f : HostSt → HostSt) : (modHost s f).regs = s.regs := rfl
@[simp] theorem modHost_seqs (s : State) (f : HostSt → HostSt) : (modHost s f).seqs = s.seqs := rfl
@[simp] theorem modHost_latches (s : State) (f : HostSt → HostSt) : (modHost s f).latches = s.latches := rfl
@[simp] theorem modHost_time (s : State) (f : HostSt → HostSt) : (modHost s f).time = s.time := rfl
@[simp] theorem modHost_chip (s : State) (f : HostSt → HostSt) : (modHost s f).chip = s.chip := rfl
@[simp] theorem modHost_svc (s : State) (f : HostSt → HostSt) : (modHost s f).svc = s.svc := rfl
@[simp] theorem modHost_fault (s : State) (f : HostSt → HostSt) : (modHost s f).fault = s.fault := rfl
@[simp] theorem modHost_canopy (s : State) (f : HostSt → HostSt) : (modHost s f).canopy = s.canopy := rfl
@[simp] theorem modHost_glade (s : State) (f : HostSt → HostSt) : (modHost s f).glade = s.glade := rfl
@[simp] theorem modHost_axis (s : State) (f : HostSt → HostSt) : (modHost s f).axis = s.axis := rfl
@[simp] theorem modHost_pins (s : State) (f : HostSt → HostSt) : (modHost s f).pins = s.pins := rfl
@[simp] theorem modHost_link (s : State) (f : HostSt → HostSt) : (modHost s f).link = s.link := rfl
@[simp] theorem modHost_power (s : State) (f : HostSt → HostSt) : (modHost s f).power = s.power := rfl
@[simp] theorem modHost_norrak (s : State) (f : HostSt → HostSt) : (modHost s f).norrak = s.norrak := rfl
@[simp] theorem modHost_can (s : State) (f : HostSt → HostSt) : (modHost s f).can = s.can := rfl
@[simp] theorem modHost_quire (s : State) (f : HostSt → HostSt) : (modHost s f).quire = s.quire := rfl
@[simp] theorem modHost_check (s : State) (f : HostSt → HostSt) : (modHost s f).check = s.check := rfl
@[simp] theorem modHost_firebreak (s : State) (f : HostSt → HostSt) : (modHost s f).firebreak = s.firebreak := rfl
@[simp] theorem modHost_tally (s : State) (f : HostSt → HostSt) : (modHost s f).tally = s.tally := rfl
@[simp] theorem modHost_life (s : State) (f : HostSt → HostSt) : (modHost s f).life = s.life := rfl

@[simp] theorem modWr_pending (s : State) (r : OutRing) (f : WrRing → WrRing) : (modWr s r f).pending = s.pending := by rw [modWr]
@[simp] theorem modWr_out (s : State) (r : OutRing) (f : WrRing → WrRing) : (modWr s r f).out = s.out := by rw [modWr]
@[simp] theorem modWr_free (s : State) (r : OutRing) (f : WrRing → WrRing) : (modWr s r f).free = s.free := by rw [modWr]
@[simp] theorem modWr_regs (s : State) (r : OutRing) (f : WrRing → WrRing) : (modWr s r f).regs = s.regs := by rw [modWr]
@[simp] theorem modWr_latches (s : State) (r : OutRing) (f : WrRing → WrRing) : (modWr s r f).latches = s.latches := by rw [modWr]
@[simp] theorem modWr_time (s : State) (r : OutRing) (f : WrRing → WrRing) : (modWr s r f).time = s.time := by rw [modWr]
@[simp] theorem modWr_chip (s : State) (r : OutRing) (f : WrRing → WrRing) : (modWr s r f).chip = s.chip := by rw [modWr]
@[simp] theorem modWr_svc (s : State) (r : OutRing) (f : WrRing → WrRing) : (modWr s r f).svc = s.svc := by rw [modWr]
@[simp] theorem modWr_fault (s : State) (r : OutRing) (f : WrRing → WrRing) : (modWr s r f).fault = s.fault := by rw [modWr]
@[simp] theorem modWr_canopy (s : State) (r : OutRing) (f : WrRing → WrRing) : (modWr s r f).canopy = s.canopy := by rw [modWr]
@[simp] theorem modWr_glade (s : State) (r : OutRing) (f : WrRing → WrRing) : (modWr s r f).glade = s.glade := by rw [modWr]
@[simp] theorem modWr_axis (s : State) (r : OutRing) (f : WrRing → WrRing) : (modWr s r f).axis = s.axis := by rw [modWr]
@[simp] theorem modWr_pins (s : State) (r : OutRing) (f : WrRing → WrRing) : (modWr s r f).pins = s.pins := by rw [modWr]
@[simp] theorem modWr_link (s : State) (r : OutRing) (f : WrRing → WrRing) : (modWr s r f).link = s.link := by rw [modWr]
@[simp] theorem modWr_power (s : State) (r : OutRing) (f : WrRing → WrRing) : (modWr s r f).power = s.power := by rw [modWr]
@[simp] theorem modWr_norrak (s : State) (r : OutRing) (f : WrRing → WrRing) : (modWr s r f).norrak = s.norrak := by rw [modWr]
@[simp] theorem modWr_can (s : State) (r : OutRing) (f : WrRing → WrRing) : (modWr s r f).can = s.can := by rw [modWr]
@[simp] theorem modWr_quire (s : State) (r : OutRing) (f : WrRing → WrRing) : (modWr s r f).quire = s.quire := by rw [modWr]
@[simp] theorem modWr_check (s : State) (r : OutRing) (f : WrRing → WrRing) : (modWr s r f).check = s.check := by rw [modWr]
@[simp] theorem modWr_firebreak (s : State) (r : OutRing) (f : WrRing → WrRing) : (modWr s r f).firebreak = s.firebreak := by rw [modWr]
@[simp] theorem modWr_tally (s : State) (r : OutRing) (f : WrRing → WrRing) : (modWr s r f).tally = s.tally := by rw [modWr]
@[simp] theorem modWr_life (s : State) (r : OutRing) (f : WrRing → WrRing) : (modWr s r f).life = s.life := by rw [modWr]

@[simp] theorem modSq_pending (s : State) (n : Fin 8) (f : SubRing → SubRing) : (modSq s n f).pending = s.pending := by rw [modSq]
@[simp] theorem modSq_out (s : State) (n : Fin 8) (f : SubRing → SubRing) : (modSq s n f).out = s.out := by rw [modSq]
@[simp] theorem modSq_free (s : State) (n : Fin 8) (f : SubRing → SubRing) : (modSq s n f).free = s.free := by rw [modSq]
@[simp] theorem modSq_regs (s : State) (n : Fin 8) (f : SubRing → SubRing) : (modSq s n f).regs = s.regs := by rw [modSq]
@[simp] theorem modSq_latches (s : State) (n : Fin 8) (f : SubRing → SubRing) : (modSq s n f).latches = s.latches := by rw [modSq]
@[simp] theorem modSq_time (s : State) (n : Fin 8) (f : SubRing → SubRing) : (modSq s n f).time = s.time := by rw [modSq]
@[simp] theorem modSq_chip (s : State) (n : Fin 8) (f : SubRing → SubRing) : (modSq s n f).chip = s.chip := by rw [modSq]
@[simp] theorem modSq_svc (s : State) (n : Fin 8) (f : SubRing → SubRing) : (modSq s n f).svc = s.svc := by rw [modSq]
@[simp] theorem modSq_fault (s : State) (n : Fin 8) (f : SubRing → SubRing) : (modSq s n f).fault = s.fault := by rw [modSq]
@[simp] theorem modSq_canopy (s : State) (n : Fin 8) (f : SubRing → SubRing) : (modSq s n f).canopy = s.canopy := by rw [modSq]
@[simp] theorem modSq_glade (s : State) (n : Fin 8) (f : SubRing → SubRing) : (modSq s n f).glade = s.glade := by rw [modSq]
@[simp] theorem modSq_axis (s : State) (n : Fin 8) (f : SubRing → SubRing) : (modSq s n f).axis = s.axis := by rw [modSq]
@[simp] theorem modSq_pins (s : State) (n : Fin 8) (f : SubRing → SubRing) : (modSq s n f).pins = s.pins := by rw [modSq]
@[simp] theorem modSq_link (s : State) (n : Fin 8) (f : SubRing → SubRing) : (modSq s n f).link = s.link := by rw [modSq]
@[simp] theorem modSq_power (s : State) (n : Fin 8) (f : SubRing → SubRing) : (modSq s n f).power = s.power := by rw [modSq]
@[simp] theorem modSq_norrak (s : State) (n : Fin 8) (f : SubRing → SubRing) : (modSq s n f).norrak = s.norrak := by rw [modSq]
@[simp] theorem modSq_can (s : State) (n : Fin 8) (f : SubRing → SubRing) : (modSq s n f).can = s.can := by rw [modSq]
@[simp] theorem modSq_quire (s : State) (n : Fin 8) (f : SubRing → SubRing) : (modSq s n f).quire = s.quire := by rw [modSq]
@[simp] theorem modSq_check (s : State) (n : Fin 8) (f : SubRing → SubRing) : (modSq s n f).check = s.check := by rw [modSq]
@[simp] theorem modSq_firebreak (s : State) (n : Fin 8) (f : SubRing → SubRing) : (modSq s n f).firebreak = s.firebreak := by rw [modSq]
@[simp] theorem modSq_tally (s : State) (n : Fin 8) (f : SubRing → SubRing) : (modSq s n f).tally = s.tally := by rw [modSq]
@[simp] theorem modSq_life (s : State) (n : Fin 8) (f : SubRing → SubRing) : (modSq s n f).life = s.life := by rw [modSq]

@[simp] theorem modFlight_pending (s : State) (id : Nat) (f : InFlight → InFlight) : (modFlight s id f).pending = s.pending := rfl
@[simp] theorem modFlight_out (s : State) (id : Nat) (f : InFlight → InFlight) : (modFlight s id f).out = s.out := rfl
@[simp] theorem modFlight_free (s : State) (id : Nat) (f : InFlight → InFlight) : (modFlight s id f).free = s.free := rfl
@[simp] theorem modFlight_regs (s : State) (id : Nat) (f : InFlight → InFlight) : (modFlight s id f).regs = s.regs := rfl
@[simp] theorem modFlight_seqs (s : State) (id : Nat) (f : InFlight → InFlight) : (modFlight s id f).seqs = s.seqs := rfl
@[simp] theorem modFlight_latches (s : State) (id : Nat) (f : InFlight → InFlight) : (modFlight s id f).latches = s.latches := rfl
@[simp] theorem modFlight_time (s : State) (id : Nat) (f : InFlight → InFlight) : (modFlight s id f).time = s.time := rfl
@[simp] theorem modFlight_chip (s : State) (id : Nat) (f : InFlight → InFlight) : (modFlight s id f).chip = s.chip := rfl
@[simp] theorem modFlight_svc (s : State) (id : Nat) (f : InFlight → InFlight) : (modFlight s id f).svc = s.svc := rfl
@[simp] theorem modFlight_fault (s : State) (id : Nat) (f : InFlight → InFlight) : (modFlight s id f).fault = s.fault := rfl
@[simp] theorem modFlight_canopy (s : State) (id : Nat) (f : InFlight → InFlight) : (modFlight s id f).canopy = s.canopy := rfl
@[simp] theorem modFlight_glade (s : State) (id : Nat) (f : InFlight → InFlight) : (modFlight s id f).glade = s.glade := rfl
@[simp] theorem modFlight_axis (s : State) (id : Nat) (f : InFlight → InFlight) : (modFlight s id f).axis = s.axis := rfl
@[simp] theorem modFlight_pins (s : State) (id : Nat) (f : InFlight → InFlight) : (modFlight s id f).pins = s.pins := rfl
@[simp] theorem modFlight_link (s : State) (id : Nat) (f : InFlight → InFlight) : (modFlight s id f).link = s.link := rfl
@[simp] theorem modFlight_power (s : State) (id : Nat) (f : InFlight → InFlight) : (modFlight s id f).power = s.power := rfl
@[simp] theorem modFlight_norrak (s : State) (id : Nat) (f : InFlight → InFlight) : (modFlight s id f).norrak = s.norrak := rfl
@[simp] theorem modFlight_can (s : State) (id : Nat) (f : InFlight → InFlight) : (modFlight s id f).can = s.can := rfl
@[simp] theorem modFlight_quire (s : State) (id : Nat) (f : InFlight → InFlight) : (modFlight s id f).quire = s.quire := rfl
@[simp] theorem modFlight_check (s : State) (id : Nat) (f : InFlight → InFlight) : (modFlight s id f).check = s.check := rfl
@[simp] theorem modFlight_firebreak (s : State) (id : Nat) (f : InFlight → InFlight) : (modFlight s id f).firebreak = s.firebreak := rfl
@[simp] theorem modFlight_tally (s : State) (id : Nat) (f : InFlight → InFlight) : (modFlight s id f).tally = s.tally := rfl
@[simp] theorem modFlight_life (s : State) (id : Nat) (f : InFlight → InFlight) : (modFlight s id f).life = s.life := rfl

@[simp] theorem modLife_pending (s : State) (f : LifeSt → LifeSt) : (modLife s f).pending = s.pending := rfl
@[simp] theorem modLife_out (s : State) (f : LifeSt → LifeSt) : (modLife s f).out = s.out := rfl
@[simp] theorem modLife_free (s : State) (f : LifeSt → LifeSt) : (modLife s f).free = s.free := rfl
@[simp] theorem modLife_regs (s : State) (f : LifeSt → LifeSt) : (modLife s f).regs = s.regs := rfl
@[simp] theorem modLife_seqs (s : State) (f : LifeSt → LifeSt) : (modLife s f).seqs = s.seqs := rfl
@[simp] theorem modLife_latches (s : State) (f : LifeSt → LifeSt) : (modLife s f).latches = s.latches := rfl
@[simp] theorem modLife_time (s : State) (f : LifeSt → LifeSt) : (modLife s f).time = s.time := rfl
@[simp] theorem modLife_chip (s : State) (f : LifeSt → LifeSt) : (modLife s f).chip = s.chip := rfl
@[simp] theorem modLife_host (s : State) (f : LifeSt → LifeSt) : (modLife s f).host = s.host := rfl
@[simp] theorem modLife_svc (s : State) (f : LifeSt → LifeSt) : (modLife s f).svc = s.svc := rfl
@[simp] theorem modLife_fault (s : State) (f : LifeSt → LifeSt) : (modLife s f).fault = s.fault := rfl
@[simp] theorem modLife_canopy (s : State) (f : LifeSt → LifeSt) : (modLife s f).canopy = s.canopy := rfl
@[simp] theorem modLife_glade (s : State) (f : LifeSt → LifeSt) : (modLife s f).glade = s.glade := rfl
@[simp] theorem modLife_axis (s : State) (f : LifeSt → LifeSt) : (modLife s f).axis = s.axis := rfl
@[simp] theorem modLife_pins (s : State) (f : LifeSt → LifeSt) : (modLife s f).pins = s.pins := rfl
@[simp] theorem modLife_link (s : State) (f : LifeSt → LifeSt) : (modLife s f).link = s.link := rfl
@[simp] theorem modLife_power (s : State) (f : LifeSt → LifeSt) : (modLife s f).power = s.power := rfl
@[simp] theorem modLife_norrak (s : State) (f : LifeSt → LifeSt) : (modLife s f).norrak = s.norrak := rfl
@[simp] theorem modLife_can (s : State) (f : LifeSt → LifeSt) : (modLife s f).can = s.can := rfl
@[simp] theorem modLife_quire (s : State) (f : LifeSt → LifeSt) : (modLife s f).quire = s.quire := rfl
@[simp] theorem modLife_check (s : State) (f : LifeSt → LifeSt) : (modLife s f).check = s.check := rfl
@[simp] theorem modLife_firebreak (s : State) (f : LifeSt → LifeSt) : (modLife s f).firebreak = s.firebreak := rfl
@[simp] theorem modLife_tally (s : State) (f : LifeSt → LifeSt) : (modLife s f).tally = s.tally := rfl

@[simp] theorem modRun_pending (s : State) (i : Nat) (f : ParkRun → ParkRun) : (modRun i f s).pending = s.pending := rfl
@[simp] theorem modRun_out (s : State) (i : Nat) (f : ParkRun → ParkRun) : (modRun i f s).out = s.out := rfl
@[simp] theorem modRun_free (s : State) (i : Nat) (f : ParkRun → ParkRun) : (modRun i f s).free = s.free := rfl
@[simp] theorem modRun_regs (s : State) (i : Nat) (f : ParkRun → ParkRun) : (modRun i f s).regs = s.regs := rfl
@[simp] theorem modRun_seqs (s : State) (i : Nat) (f : ParkRun → ParkRun) : (modRun i f s).seqs = s.seqs := rfl
@[simp] theorem modRun_latches (s : State) (i : Nat) (f : ParkRun → ParkRun) : (modRun i f s).latches = s.latches := rfl
@[simp] theorem modRun_time (s : State) (i : Nat) (f : ParkRun → ParkRun) : (modRun i f s).time = s.time := rfl
@[simp] theorem modRun_chip (s : State) (i : Nat) (f : ParkRun → ParkRun) : (modRun i f s).chip = s.chip := rfl
@[simp] theorem modRun_host (s : State) (i : Nat) (f : ParkRun → ParkRun) : (modRun i f s).host = s.host := rfl
@[simp] theorem modRun_svc (s : State) (i : Nat) (f : ParkRun → ParkRun) : (modRun i f s).svc = s.svc := rfl
@[simp] theorem modRun_fault (s : State) (i : Nat) (f : ParkRun → ParkRun) : (modRun i f s).fault = s.fault := rfl
@[simp] theorem modRun_canopy (s : State) (i : Nat) (f : ParkRun → ParkRun) : (modRun i f s).canopy = s.canopy := rfl
@[simp] theorem modRun_glade (s : State) (i : Nat) (f : ParkRun → ParkRun) : (modRun i f s).glade = s.glade := rfl
@[simp] theorem modRun_axis (s : State) (i : Nat) (f : ParkRun → ParkRun) : (modRun i f s).axis = s.axis := rfl
@[simp] theorem modRun_pins (s : State) (i : Nat) (f : ParkRun → ParkRun) : (modRun i f s).pins = s.pins := rfl
@[simp] theorem modRun_link (s : State) (i : Nat) (f : ParkRun → ParkRun) : (modRun i f s).link = s.link := rfl
@[simp] theorem modRun_power (s : State) (i : Nat) (f : ParkRun → ParkRun) : (modRun i f s).power = s.power := rfl
@[simp] theorem modRun_norrak (s : State) (i : Nat) (f : ParkRun → ParkRun) : (modRun i f s).norrak = s.norrak := rfl
@[simp] theorem modRun_can (s : State) (i : Nat) (f : ParkRun → ParkRun) : (modRun i f s).can = s.can := rfl
@[simp] theorem modRun_quire (s : State) (i : Nat) (f : ParkRun → ParkRun) : (modRun i f s).quire = s.quire := rfl
@[simp] theorem modRun_check (s : State) (i : Nat) (f : ParkRun → ParkRun) : (modRun i f s).check = s.check := rfl
@[simp] theorem modRun_firebreak (s : State) (i : Nat) (f : ParkRun → ParkRun) : (modRun i f s).firebreak = s.firebreak := rfl
@[simp] theorem modRun_tally (s : State) (i : Nat) (f : ParkRun → ParkRun) : (modRun i f s).tally = s.tally := rfl

@[simp] theorem modChip_pending (s : State) (f : ChipSt → ChipSt) : (modChip s f).pending = s.pending := rfl
@[simp] theorem modChip_out (s : State) (f : ChipSt → ChipSt) : (modChip s f).out = s.out := rfl
@[simp] theorem modChip_free (s : State) (f : ChipSt → ChipSt) : (modChip s f).free = s.free := rfl
@[simp] theorem modChip_regs (s : State) (f : ChipSt → ChipSt) : (modChip s f).regs = s.regs := rfl
@[simp] theorem modChip_seqs (s : State) (f : ChipSt → ChipSt) : (modChip s f).seqs = s.seqs := rfl
@[simp] theorem modChip_latches (s : State) (f : ChipSt → ChipSt) : (modChip s f).latches = s.latches := rfl
@[simp] theorem modChip_time (s : State) (f : ChipSt → ChipSt) : (modChip s f).time = s.time := rfl
@[simp] theorem modChip_host (s : State) (f : ChipSt → ChipSt) : (modChip s f).host = s.host := rfl
@[simp] theorem modChip_svc (s : State) (f : ChipSt → ChipSt) : (modChip s f).svc = s.svc := rfl
@[simp] theorem modChip_fault (s : State) (f : ChipSt → ChipSt) : (modChip s f).fault = s.fault := rfl
@[simp] theorem modChip_canopy (s : State) (f : ChipSt → ChipSt) : (modChip s f).canopy = s.canopy := rfl
@[simp] theorem modChip_glade (s : State) (f : ChipSt → ChipSt) : (modChip s f).glade = s.glade := rfl
@[simp] theorem modChip_axis (s : State) (f : ChipSt → ChipSt) : (modChip s f).axis = s.axis := rfl
@[simp] theorem modChip_pins (s : State) (f : ChipSt → ChipSt) : (modChip s f).pins = s.pins := rfl
@[simp] theorem modChip_link (s : State) (f : ChipSt → ChipSt) : (modChip s f).link = s.link := rfl
@[simp] theorem modChip_power (s : State) (f : ChipSt → ChipSt) : (modChip s f).power = s.power := rfl
@[simp] theorem modChip_norrak (s : State) (f : ChipSt → ChipSt) : (modChip s f).norrak = s.norrak := rfl
@[simp] theorem modChip_can (s : State) (f : ChipSt → ChipSt) : (modChip s f).can = s.can := rfl
@[simp] theorem modChip_quire (s : State) (f : ChipSt → ChipSt) : (modChip s f).quire = s.quire := rfl
@[simp] theorem modChip_check (s : State) (f : ChipSt → ChipSt) : (modChip s f).check = s.check := rfl
@[simp] theorem modChip_firebreak (s : State) (f : ChipSt → ChipSt) : (modChip s f).firebreak = s.firebreak := rfl
@[simp] theorem modChip_tally (s : State) (f : ChipSt → ChipSt) : (modChip s f).tally = s.tally := rfl
@[simp] theorem modChip_life (s : State) (f : ChipSt → ChipSt) : (modChip s f).life = s.life := rfl

@[simp] theorem modTime_pending (s : State) (f : TimeSt → TimeSt) : (modTime s f).pending = s.pending := rfl
@[simp] theorem modTime_out (s : State) (f : TimeSt → TimeSt) : (modTime s f).out = s.out := rfl
@[simp] theorem modTime_free (s : State) (f : TimeSt → TimeSt) : (modTime s f).free = s.free := rfl
@[simp] theorem modTime_regs (s : State) (f : TimeSt → TimeSt) : (modTime s f).regs = s.regs := rfl
@[simp] theorem modTime_seqs (s : State) (f : TimeSt → TimeSt) : (modTime s f).seqs = s.seqs := rfl
@[simp] theorem modTime_latches (s : State) (f : TimeSt → TimeSt) : (modTime s f).latches = s.latches := rfl
@[simp] theorem modTime_chip (s : State) (f : TimeSt → TimeSt) : (modTime s f).chip = s.chip := rfl
@[simp] theorem modTime_host (s : State) (f : TimeSt → TimeSt) : (modTime s f).host = s.host := rfl
@[simp] theorem modTime_svc (s : State) (f : TimeSt → TimeSt) : (modTime s f).svc = s.svc := rfl
@[simp] theorem modTime_fault (s : State) (f : TimeSt → TimeSt) : (modTime s f).fault = s.fault := rfl
@[simp] theorem modTime_canopy (s : State) (f : TimeSt → TimeSt) : (modTime s f).canopy = s.canopy := rfl
@[simp] theorem modTime_glade (s : State) (f : TimeSt → TimeSt) : (modTime s f).glade = s.glade := rfl
@[simp] theorem modTime_axis (s : State) (f : TimeSt → TimeSt) : (modTime s f).axis = s.axis := rfl
@[simp] theorem modTime_pins (s : State) (f : TimeSt → TimeSt) : (modTime s f).pins = s.pins := rfl
@[simp] theorem modTime_link (s : State) (f : TimeSt → TimeSt) : (modTime s f).link = s.link := rfl
@[simp] theorem modTime_power (s : State) (f : TimeSt → TimeSt) : (modTime s f).power = s.power := rfl
@[simp] theorem modTime_norrak (s : State) (f : TimeSt → TimeSt) : (modTime s f).norrak = s.norrak := rfl
@[simp] theorem modTime_can (s : State) (f : TimeSt → TimeSt) : (modTime s f).can = s.can := rfl
@[simp] theorem modTime_quire (s : State) (f : TimeSt → TimeSt) : (modTime s f).quire = s.quire := rfl
@[simp] theorem modTime_check (s : State) (f : TimeSt → TimeSt) : (modTime s f).check = s.check := rfl
@[simp] theorem modTime_firebreak (s : State) (f : TimeSt → TimeSt) : (modTime s f).firebreak = s.firebreak := rfl
@[simp] theorem modTime_tally (s : State) (f : TimeSt → TimeSt) : (modTime s f).tally = s.tally := rfl
@[simp] theorem modTime_life (s : State) (f : TimeSt → TimeSt) : (modTime s f).life = s.life := rfl

@[simp] theorem modPlacer_pending (s : State) (p : Fin 12) (f : Placer → Placer) : (modPlacer s p f).pending = s.pending := rfl
@[simp] theorem modPlacer_out (s : State) (p : Fin 12) (f : Placer → Placer) : (modPlacer s p f).out = s.out := rfl
@[simp] theorem modPlacer_free (s : State) (p : Fin 12) (f : Placer → Placer) : (modPlacer s p f).free = s.free := rfl
@[simp] theorem modPlacer_regs (s : State) (p : Fin 12) (f : Placer → Placer) : (modPlacer s p f).regs = s.regs := rfl
@[simp] theorem modPlacer_seqs (s : State) (p : Fin 12) (f : Placer → Placer) : (modPlacer s p f).seqs = s.seqs := rfl
@[simp] theorem modPlacer_latches (s : State) (p : Fin 12) (f : Placer → Placer) : (modPlacer s p f).latches = s.latches := rfl
@[simp] theorem modPlacer_chip (s : State) (p : Fin 12) (f : Placer → Placer) : (modPlacer s p f).chip = s.chip := rfl
@[simp] theorem modPlacer_host (s : State) (p : Fin 12) (f : Placer → Placer) : (modPlacer s p f).host = s.host := rfl
@[simp] theorem modPlacer_svc (s : State) (p : Fin 12) (f : Placer → Placer) : (modPlacer s p f).svc = s.svc := rfl
@[simp] theorem modPlacer_fault (s : State) (p : Fin 12) (f : Placer → Placer) : (modPlacer s p f).fault = s.fault := rfl
@[simp] theorem modPlacer_canopy (s : State) (p : Fin 12) (f : Placer → Placer) : (modPlacer s p f).canopy = s.canopy := rfl
@[simp] theorem modPlacer_glade (s : State) (p : Fin 12) (f : Placer → Placer) : (modPlacer s p f).glade = s.glade := rfl
@[simp] theorem modPlacer_axis (s : State) (p : Fin 12) (f : Placer → Placer) : (modPlacer s p f).axis = s.axis := rfl
@[simp] theorem modPlacer_pins (s : State) (p : Fin 12) (f : Placer → Placer) : (modPlacer s p f).pins = s.pins := rfl
@[simp] theorem modPlacer_link (s : State) (p : Fin 12) (f : Placer → Placer) : (modPlacer s p f).link = s.link := rfl
@[simp] theorem modPlacer_power (s : State) (p : Fin 12) (f : Placer → Placer) : (modPlacer s p f).power = s.power := rfl
@[simp] theorem modPlacer_norrak (s : State) (p : Fin 12) (f : Placer → Placer) : (modPlacer s p f).norrak = s.norrak := rfl
@[simp] theorem modPlacer_can (s : State) (p : Fin 12) (f : Placer → Placer) : (modPlacer s p f).can = s.can := rfl
@[simp] theorem modPlacer_quire (s : State) (p : Fin 12) (f : Placer → Placer) : (modPlacer s p f).quire = s.quire := rfl
@[simp] theorem modPlacer_check (s : State) (p : Fin 12) (f : Placer → Placer) : (modPlacer s p f).check = s.check := rfl
@[simp] theorem modPlacer_firebreak (s : State) (p : Fin 12) (f : Placer → Placer) : (modPlacer s p f).firebreak = s.firebreak := rfl
@[simp] theorem modPlacer_tally (s : State) (p : Fin 12) (f : Placer → Placer) : (modPlacer s p f).tally = s.tally := rfl
@[simp] theorem modPlacer_life (s : State) (p : Fin 12) (f : Placer → Placer) : (modPlacer s p f).life = s.life := rfl

@[simp] theorem modEntry_pending (s : State) (r : EntryRef) (f : Entry → Entry) : (modEntry s r f).pending = s.pending := by unfold modEntry; split <;> rfl
@[simp] theorem modEntry_out (s : State) (r : EntryRef) (f : Entry → Entry) : (modEntry s r f).out = s.out := by unfold modEntry; split <;> rfl
@[simp] theorem modEntry_free (s : State) (r : EntryRef) (f : Entry → Entry) : (modEntry s r f).free = s.free := by unfold modEntry; split <;> rfl
@[simp] theorem modEntry_regs (s : State) (r : EntryRef) (f : Entry → Entry) : (modEntry s r f).regs = s.regs := by unfold modEntry; split <;> rfl
@[simp] theorem modEntry_seqs (s : State) (r : EntryRef) (f : Entry → Entry) : (modEntry s r f).seqs = s.seqs := by unfold modEntry; split <;> rfl
@[simp] theorem modEntry_latches (s : State) (r : EntryRef) (f : Entry → Entry) : (modEntry s r f).latches = s.latches := by unfold modEntry; split <;> rfl
@[simp] theorem modEntry_time (s : State) (r : EntryRef) (f : Entry → Entry) : (modEntry s r f).time = s.time := by unfold modEntry; split <;> rfl
@[simp] theorem modEntry_chip (s : State) (r : EntryRef) (f : Entry → Entry) : (modEntry s r f).chip = s.chip := by unfold modEntry; split <;> rfl
@[simp] theorem modEntry_host (s : State) (r : EntryRef) (f : Entry → Entry) : (modEntry s r f).host = s.host := by unfold modEntry; split <;> rfl
@[simp] theorem modEntry_svc (s : State) (r : EntryRef) (f : Entry → Entry) : (modEntry s r f).svc = s.svc := by unfold modEntry; split <;> rfl
@[simp] theorem modEntry_canopy (s : State) (r : EntryRef) (f : Entry → Entry) : (modEntry s r f).canopy = s.canopy := by unfold modEntry; split <;> rfl
@[simp] theorem modEntry_glade (s : State) (r : EntryRef) (f : Entry → Entry) : (modEntry s r f).glade = s.glade := by unfold modEntry; split <;> rfl
@[simp] theorem modEntry_axis (s : State) (r : EntryRef) (f : Entry → Entry) : (modEntry s r f).axis = s.axis := by unfold modEntry; split <;> rfl
@[simp] theorem modEntry_pins (s : State) (r : EntryRef) (f : Entry → Entry) : (modEntry s r f).pins = s.pins := by unfold modEntry; split <;> rfl
@[simp] theorem modEntry_link (s : State) (r : EntryRef) (f : Entry → Entry) : (modEntry s r f).link = s.link := by unfold modEntry; split <;> rfl
@[simp] theorem modEntry_power (s : State) (r : EntryRef) (f : Entry → Entry) : (modEntry s r f).power = s.power := by unfold modEntry; split <;> rfl
@[simp] theorem modEntry_norrak (s : State) (r : EntryRef) (f : Entry → Entry) : (modEntry s r f).norrak = s.norrak := by unfold modEntry; split <;> rfl
@[simp] theorem modEntry_can (s : State) (r : EntryRef) (f : Entry → Entry) : (modEntry s r f).can = s.can := by unfold modEntry; split <;> rfl
@[simp] theorem modEntry_quire (s : State) (r : EntryRef) (f : Entry → Entry) : (modEntry s r f).quire = s.quire := by unfold modEntry; split <;> rfl
@[simp] theorem modEntry_check (s : State) (r : EntryRef) (f : Entry → Entry) : (modEntry s r f).check = s.check := by unfold modEntry; split <;> rfl
@[simp] theorem modEntry_firebreak (s : State) (r : EntryRef) (f : Entry → Entry) : (modEntry s r f).firebreak = s.firebreak := by unfold modEntry; split <;> rfl
@[simp] theorem modEntry_tally (s : State) (r : EntryRef) (f : Entry → Entry) : (modEntry s r f).tally = s.tally := by unfold modEntry; split <;> rfl
@[simp] theorem modEntry_life (s : State) (r : EntryRef) (f : Entry → Entry) : (modEntry s r f).life = s.life := by unfold modEntry; split <;> rfl

@[simp] theorem modLedger_pending (s : State) (L : Fin 7) (f : Ledger → Ledger) : (modLedger s L f).pending = s.pending := rfl
@[simp] theorem modLedger_out (s : State) (L : Fin 7) (f : Ledger → Ledger) : (modLedger s L f).out = s.out := rfl
@[simp] theorem modLedger_free (s : State) (L : Fin 7) (f : Ledger → Ledger) : (modLedger s L f).free = s.free := rfl
@[simp] theorem modLedger_regs (s : State) (L : Fin 7) (f : Ledger → Ledger) : (modLedger s L f).regs = s.regs := rfl
@[simp] theorem modLedger_seqs (s : State) (L : Fin 7) (f : Ledger → Ledger) : (modLedger s L f).seqs = s.seqs := rfl
@[simp] theorem modLedger_latches (s : State) (L : Fin 7) (f : Ledger → Ledger) : (modLedger s L f).latches = s.latches := rfl
@[simp] theorem modLedger_time (s : State) (L : Fin 7) (f : Ledger → Ledger) : (modLedger s L f).time = s.time := rfl
@[simp] theorem modLedger_chip (s : State) (L : Fin 7) (f : Ledger → Ledger) : (modLedger s L f).chip = s.chip := rfl
@[simp] theorem modLedger_host (s : State) (L : Fin 7) (f : Ledger → Ledger) : (modLedger s L f).host = s.host := rfl
@[simp] theorem modLedger_svc (s : State) (L : Fin 7) (f : Ledger → Ledger) : (modLedger s L f).svc = s.svc := rfl
@[simp] theorem modLedger_canopy (s : State) (L : Fin 7) (f : Ledger → Ledger) : (modLedger s L f).canopy = s.canopy := rfl
@[simp] theorem modLedger_glade (s : State) (L : Fin 7) (f : Ledger → Ledger) : (modLedger s L f).glade = s.glade := rfl
@[simp] theorem modLedger_axis (s : State) (L : Fin 7) (f : Ledger → Ledger) : (modLedger s L f).axis = s.axis := rfl
@[simp] theorem modLedger_pins (s : State) (L : Fin 7) (f : Ledger → Ledger) : (modLedger s L f).pins = s.pins := rfl
@[simp] theorem modLedger_link (s : State) (L : Fin 7) (f : Ledger → Ledger) : (modLedger s L f).link = s.link := rfl
@[simp] theorem modLedger_power (s : State) (L : Fin 7) (f : Ledger → Ledger) : (modLedger s L f).power = s.power := rfl
@[simp] theorem modLedger_norrak (s : State) (L : Fin 7) (f : Ledger → Ledger) : (modLedger s L f).norrak = s.norrak := rfl
@[simp] theorem modLedger_can (s : State) (L : Fin 7) (f : Ledger → Ledger) : (modLedger s L f).can = s.can := rfl
@[simp] theorem modLedger_quire (s : State) (L : Fin 7) (f : Ledger → Ledger) : (modLedger s L f).quire = s.quire := rfl
@[simp] theorem modLedger_check (s : State) (L : Fin 7) (f : Ledger → Ledger) : (modLedger s L f).check = s.check := rfl
@[simp] theorem modLedger_firebreak (s : State) (L : Fin 7) (f : Ledger → Ledger) : (modLedger s L f).firebreak = s.firebreak := rfl
@[simp] theorem modLedger_tally (s : State) (L : Fin 7) (f : Ledger → Ledger) : (modLedger s L f).tally = s.tally := rfl
@[simp] theorem modLedger_life (s : State) (L : Fin 7) (f : Ledger → Ledger) : (modLedger s L f).life = s.life := rfl

@[simp] theorem modCanopy_pending (s : State) (f : CanopySt → CanopySt) : (modCanopy s f).pending = s.pending := rfl
@[simp] theorem modCanopy_out (s : State) (f : CanopySt → CanopySt) : (modCanopy s f).out = s.out := rfl
@[simp] theorem modCanopy_free (s : State) (f : CanopySt → CanopySt) : (modCanopy s f).free = s.free := rfl
@[simp] theorem modCanopy_regs (s : State) (f : CanopySt → CanopySt) : (modCanopy s f).regs = s.regs := rfl
@[simp] theorem modCanopy_seqs (s : State) (f : CanopySt → CanopySt) : (modCanopy s f).seqs = s.seqs := rfl
@[simp] theorem modCanopy_latches (s : State) (f : CanopySt → CanopySt) : (modCanopy s f).latches = s.latches := rfl
@[simp] theorem modCanopy_time (s : State) (f : CanopySt → CanopySt) : (modCanopy s f).time = s.time := rfl
@[simp] theorem modCanopy_chip (s : State) (f : CanopySt → CanopySt) : (modCanopy s f).chip = s.chip := rfl
@[simp] theorem modCanopy_host (s : State) (f : CanopySt → CanopySt) : (modCanopy s f).host = s.host := rfl
@[simp] theorem modCanopy_svc (s : State) (f : CanopySt → CanopySt) : (modCanopy s f).svc = s.svc := rfl
@[simp] theorem modCanopy_fault (s : State) (f : CanopySt → CanopySt) : (modCanopy s f).fault = s.fault := rfl
@[simp] theorem modCanopy_glade (s : State) (f : CanopySt → CanopySt) : (modCanopy s f).glade = s.glade := rfl
@[simp] theorem modCanopy_axis (s : State) (f : CanopySt → CanopySt) : (modCanopy s f).axis = s.axis := rfl
@[simp] theorem modCanopy_pins (s : State) (f : CanopySt → CanopySt) : (modCanopy s f).pins = s.pins := rfl
@[simp] theorem modCanopy_link (s : State) (f : CanopySt → CanopySt) : (modCanopy s f).link = s.link := rfl
@[simp] theorem modCanopy_power (s : State) (f : CanopySt → CanopySt) : (modCanopy s f).power = s.power := rfl
@[simp] theorem modCanopy_norrak (s : State) (f : CanopySt → CanopySt) : (modCanopy s f).norrak = s.norrak := rfl
@[simp] theorem modCanopy_can (s : State) (f : CanopySt → CanopySt) : (modCanopy s f).can = s.can := rfl
@[simp] theorem modCanopy_quire (s : State) (f : CanopySt → CanopySt) : (modCanopy s f).quire = s.quire := rfl
@[simp] theorem modCanopy_check (s : State) (f : CanopySt → CanopySt) : (modCanopy s f).check = s.check := rfl
@[simp] theorem modCanopy_firebreak (s : State) (f : CanopySt → CanopySt) : (modCanopy s f).firebreak = s.firebreak := rfl
@[simp] theorem modCanopy_tally (s : State) (f : CanopySt → CanopySt) : (modCanopy s f).tally = s.tally := rfl
@[simp] theorem modCanopy_life (s : State) (f : CanopySt → CanopySt) : (modCanopy s f).life = s.life := rfl

@[simp] theorem modLane_pending (s : State) (k : Fin 9) (f : Lane → Lane) : (modLane s k f).pending = s.pending := rfl
@[simp] theorem modLane_out (s : State) (k : Fin 9) (f : Lane → Lane) : (modLane s k f).out = s.out := rfl
@[simp] theorem modLane_free (s : State) (k : Fin 9) (f : Lane → Lane) : (modLane s k f).free = s.free := rfl
@[simp] theorem modLane_regs (s : State) (k : Fin 9) (f : Lane → Lane) : (modLane s k f).regs = s.regs := rfl
@[simp] theorem modLane_seqs (s : State) (k : Fin 9) (f : Lane → Lane) : (modLane s k f).seqs = s.seqs := rfl
@[simp] theorem modLane_latches (s : State) (k : Fin 9) (f : Lane → Lane) : (modLane s k f).latches = s.latches := rfl
@[simp] theorem modLane_time (s : State) (k : Fin 9) (f : Lane → Lane) : (modLane s k f).time = s.time := rfl
@[simp] theorem modLane_chip (s : State) (k : Fin 9) (f : Lane → Lane) : (modLane s k f).chip = s.chip := rfl
@[simp] theorem modLane_host (s : State) (k : Fin 9) (f : Lane → Lane) : (modLane s k f).host = s.host := rfl
@[simp] theorem modLane_svc (s : State) (k : Fin 9) (f : Lane → Lane) : (modLane s k f).svc = s.svc := rfl
@[simp] theorem modLane_fault (s : State) (k : Fin 9) (f : Lane → Lane) : (modLane s k f).fault = s.fault := rfl
@[simp] theorem modLane_glade (s : State) (k : Fin 9) (f : Lane → Lane) : (modLane s k f).glade = s.glade := rfl
@[simp] theorem modLane_axis (s : State) (k : Fin 9) (f : Lane → Lane) : (modLane s k f).axis = s.axis := rfl
@[simp] theorem modLane_pins (s : State) (k : Fin 9) (f : Lane → Lane) : (modLane s k f).pins = s.pins := rfl
@[simp] theorem modLane_link (s : State) (k : Fin 9) (f : Lane → Lane) : (modLane s k f).link = s.link := rfl
@[simp] theorem modLane_power (s : State) (k : Fin 9) (f : Lane → Lane) : (modLane s k f).power = s.power := rfl
@[simp] theorem modLane_norrak (s : State) (k : Fin 9) (f : Lane → Lane) : (modLane s k f).norrak = s.norrak := rfl
@[simp] theorem modLane_can (s : State) (k : Fin 9) (f : Lane → Lane) : (modLane s k f).can = s.can := rfl
@[simp] theorem modLane_quire (s : State) (k : Fin 9) (f : Lane → Lane) : (modLane s k f).quire = s.quire := rfl
@[simp] theorem modLane_check (s : State) (k : Fin 9) (f : Lane → Lane) : (modLane s k f).check = s.check := rfl
@[simp] theorem modLane_firebreak (s : State) (k : Fin 9) (f : Lane → Lane) : (modLane s k f).firebreak = s.firebreak := rfl
@[simp] theorem modLane_tally (s : State) (k : Fin 9) (f : Lane → Lane) : (modLane s k f).tally = s.tally := rfl
@[simp] theorem modLane_life (s : State) (k : Fin 9) (f : Lane → Lane) : (modLane s k f).life = s.life := rfl

@[simp] theorem modGlade_pending (s : State) (f : GladeSt → GladeSt) : (modGlade s f).pending = s.pending := rfl
@[simp] theorem modGlade_out (s : State) (f : GladeSt → GladeSt) : (modGlade s f).out = s.out := rfl
@[simp] theorem modGlade_free (s : State) (f : GladeSt → GladeSt) : (modGlade s f).free = s.free := rfl
@[simp] theorem modGlade_regs (s : State) (f : GladeSt → GladeSt) : (modGlade s f).regs = s.regs := rfl
@[simp] theorem modGlade_seqs (s : State) (f : GladeSt → GladeSt) : (modGlade s f).seqs = s.seqs := rfl
@[simp] theorem modGlade_latches (s : State) (f : GladeSt → GladeSt) : (modGlade s f).latches = s.latches := rfl
@[simp] theorem modGlade_time (s : State) (f : GladeSt → GladeSt) : (modGlade s f).time = s.time := rfl
@[simp] theorem modGlade_chip (s : State) (f : GladeSt → GladeSt) : (modGlade s f).chip = s.chip := rfl
@[simp] theorem modGlade_host (s : State) (f : GladeSt → GladeSt) : (modGlade s f).host = s.host := rfl
@[simp] theorem modGlade_svc (s : State) (f : GladeSt → GladeSt) : (modGlade s f).svc = s.svc := rfl
@[simp] theorem modGlade_fault (s : State) (f : GladeSt → GladeSt) : (modGlade s f).fault = s.fault := rfl
@[simp] theorem modGlade_canopy (s : State) (f : GladeSt → GladeSt) : (modGlade s f).canopy = s.canopy := rfl
@[simp] theorem modGlade_axis (s : State) (f : GladeSt → GladeSt) : (modGlade s f).axis = s.axis := rfl
@[simp] theorem modGlade_pins (s : State) (f : GladeSt → GladeSt) : (modGlade s f).pins = s.pins := rfl
@[simp] theorem modGlade_link (s : State) (f : GladeSt → GladeSt) : (modGlade s f).link = s.link := rfl
@[simp] theorem modGlade_power (s : State) (f : GladeSt → GladeSt) : (modGlade s f).power = s.power := rfl
@[simp] theorem modGlade_norrak (s : State) (f : GladeSt → GladeSt) : (modGlade s f).norrak = s.norrak := rfl
@[simp] theorem modGlade_can (s : State) (f : GladeSt → GladeSt) : (modGlade s f).can = s.can := rfl
@[simp] theorem modGlade_quire (s : State) (f : GladeSt → GladeSt) : (modGlade s f).quire = s.quire := rfl
@[simp] theorem modGlade_check (s : State) (f : GladeSt → GladeSt) : (modGlade s f).check = s.check := rfl
@[simp] theorem modGlade_firebreak (s : State) (f : GladeSt → GladeSt) : (modGlade s f).firebreak = s.firebreak := rfl
@[simp] theorem modGlade_tally (s : State) (f : GladeSt → GladeSt) : (modGlade s f).tally = s.tally := rfl
@[simp] theorem modGlade_life (s : State) (f : GladeSt → GladeSt) : (modGlade s f).life = s.life := rfl

@[simp] theorem modSlot_pending (s : State) (n : Fin 32) (f : Slot → Slot) : (modSlot s n f).pending = s.pending := rfl
@[simp] theorem modSlot_out (s : State) (n : Fin 32) (f : Slot → Slot) : (modSlot s n f).out = s.out := rfl
@[simp] theorem modSlot_free (s : State) (n : Fin 32) (f : Slot → Slot) : (modSlot s n f).free = s.free := rfl
@[simp] theorem modSlot_regs (s : State) (n : Fin 32) (f : Slot → Slot) : (modSlot s n f).regs = s.regs := rfl
@[simp] theorem modSlot_seqs (s : State) (n : Fin 32) (f : Slot → Slot) : (modSlot s n f).seqs = s.seqs := rfl
@[simp] theorem modSlot_latches (s : State) (n : Fin 32) (f : Slot → Slot) : (modSlot s n f).latches = s.latches := rfl
@[simp] theorem modSlot_time (s : State) (n : Fin 32) (f : Slot → Slot) : (modSlot s n f).time = s.time := rfl
@[simp] theorem modSlot_chip (s : State) (n : Fin 32) (f : Slot → Slot) : (modSlot s n f).chip = s.chip := rfl
@[simp] theorem modSlot_host (s : State) (n : Fin 32) (f : Slot → Slot) : (modSlot s n f).host = s.host := rfl
@[simp] theorem modSlot_svc (s : State) (n : Fin 32) (f : Slot → Slot) : (modSlot s n f).svc = s.svc := rfl
@[simp] theorem modSlot_fault (s : State) (n : Fin 32) (f : Slot → Slot) : (modSlot s n f).fault = s.fault := rfl
@[simp] theorem modSlot_canopy (s : State) (n : Fin 32) (f : Slot → Slot) : (modSlot s n f).canopy = s.canopy := rfl
@[simp] theorem modSlot_glade (s : State) (n : Fin 32) (f : Slot → Slot) : (modSlot s n f).glade = s.glade := rfl
@[simp] theorem modSlot_pins (s : State) (n : Fin 32) (f : Slot → Slot) : (modSlot s n f).pins = s.pins := rfl
@[simp] theorem modSlot_link (s : State) (n : Fin 32) (f : Slot → Slot) : (modSlot s n f).link = s.link := rfl
@[simp] theorem modSlot_power (s : State) (n : Fin 32) (f : Slot → Slot) : (modSlot s n f).power = s.power := rfl
@[simp] theorem modSlot_norrak (s : State) (n : Fin 32) (f : Slot → Slot) : (modSlot s n f).norrak = s.norrak := rfl
@[simp] theorem modSlot_can (s : State) (n : Fin 32) (f : Slot → Slot) : (modSlot s n f).can = s.can := rfl
@[simp] theorem modSlot_quire (s : State) (n : Fin 32) (f : Slot → Slot) : (modSlot s n f).quire = s.quire := rfl
@[simp] theorem modSlot_check (s : State) (n : Fin 32) (f : Slot → Slot) : (modSlot s n f).check = s.check := rfl
@[simp] theorem modSlot_firebreak (s : State) (n : Fin 32) (f : Slot → Slot) : (modSlot s n f).firebreak = s.firebreak := rfl
@[simp] theorem modSlot_tally (s : State) (n : Fin 32) (f : Slot → Slot) : (modSlot s n f).tally = s.tally := rfl
@[simp] theorem modSlot_life (s : State) (n : Fin 32) (f : Slot → Slot) : (modSlot s n f).life = s.life := rfl

@[simp] theorem modGroup_pending (s : State) (g : Fin 8) (f : Group → Group) : (modGroup s g f).pending = s.pending := rfl
@[simp] theorem modGroup_out (s : State) (g : Fin 8) (f : Group → Group) : (modGroup s g f).out = s.out := rfl
@[simp] theorem modGroup_free (s : State) (g : Fin 8) (f : Group → Group) : (modGroup s g f).free = s.free := rfl
@[simp] theorem modGroup_regs (s : State) (g : Fin 8) (f : Group → Group) : (modGroup s g f).regs = s.regs := rfl
@[simp] theorem modGroup_seqs (s : State) (g : Fin 8) (f : Group → Group) : (modGroup s g f).seqs = s.seqs := rfl
@[simp] theorem modGroup_latches (s : State) (g : Fin 8) (f : Group → Group) : (modGroup s g f).latches = s.latches := rfl
@[simp] theorem modGroup_time (s : State) (g : Fin 8) (f : Group → Group) : (modGroup s g f).time = s.time := rfl
@[simp] theorem modGroup_chip (s : State) (g : Fin 8) (f : Group → Group) : (modGroup s g f).chip = s.chip := rfl
@[simp] theorem modGroup_host (s : State) (g : Fin 8) (f : Group → Group) : (modGroup s g f).host = s.host := rfl
@[simp] theorem modGroup_svc (s : State) (g : Fin 8) (f : Group → Group) : (modGroup s g f).svc = s.svc := rfl
@[simp] theorem modGroup_fault (s : State) (g : Fin 8) (f : Group → Group) : (modGroup s g f).fault = s.fault := rfl
@[simp] theorem modGroup_canopy (s : State) (g : Fin 8) (f : Group → Group) : (modGroup s g f).canopy = s.canopy := rfl
@[simp] theorem modGroup_glade (s : State) (g : Fin 8) (f : Group → Group) : (modGroup s g f).glade = s.glade := rfl
@[simp] theorem modGroup_pins (s : State) (g : Fin 8) (f : Group → Group) : (modGroup s g f).pins = s.pins := rfl
@[simp] theorem modGroup_link (s : State) (g : Fin 8) (f : Group → Group) : (modGroup s g f).link = s.link := rfl
@[simp] theorem modGroup_power (s : State) (g : Fin 8) (f : Group → Group) : (modGroup s g f).power = s.power := rfl
@[simp] theorem modGroup_norrak (s : State) (g : Fin 8) (f : Group → Group) : (modGroup s g f).norrak = s.norrak := rfl
@[simp] theorem modGroup_can (s : State) (g : Fin 8) (f : Group → Group) : (modGroup s g f).can = s.can := rfl
@[simp] theorem modGroup_quire (s : State) (g : Fin 8) (f : Group → Group) : (modGroup s g f).quire = s.quire := rfl
@[simp] theorem modGroup_check (s : State) (g : Fin 8) (f : Group → Group) : (modGroup s g f).check = s.check := rfl
@[simp] theorem modGroup_firebreak (s : State) (g : Fin 8) (f : Group → Group) : (modGroup s g f).firebreak = s.firebreak := rfl
@[simp] theorem modGroup_tally (s : State) (g : Fin 8) (f : Group → Group) : (modGroup s g f).tally = s.tally := rfl
@[simp] theorem modGroup_life (s : State) (g : Fin 8) (f : Group → Group) : (modGroup s g f).life = s.life := rfl

@[simp] theorem modPath_pending (s : State) (g : Fin 4) (f : PathGroup → PathGroup) : (modPath s g f).pending = s.pending := rfl
@[simp] theorem modPath_out (s : State) (g : Fin 4) (f : PathGroup → PathGroup) : (modPath s g f).out = s.out := rfl
@[simp] theorem modPath_free (s : State) (g : Fin 4) (f : PathGroup → PathGroup) : (modPath s g f).free = s.free := rfl
@[simp] theorem modPath_regs (s : State) (g : Fin 4) (f : PathGroup → PathGroup) : (modPath s g f).regs = s.regs := rfl
@[simp] theorem modPath_seqs (s : State) (g : Fin 4) (f : PathGroup → PathGroup) : (modPath s g f).seqs = s.seqs := rfl
@[simp] theorem modPath_latches (s : State) (g : Fin 4) (f : PathGroup → PathGroup) : (modPath s g f).latches = s.latches := rfl
@[simp] theorem modPath_time (s : State) (g : Fin 4) (f : PathGroup → PathGroup) : (modPath s g f).time = s.time := rfl
@[simp] theorem modPath_chip (s : State) (g : Fin 4) (f : PathGroup → PathGroup) : (modPath s g f).chip = s.chip := rfl
@[simp] theorem modPath_host (s : State) (g : Fin 4) (f : PathGroup → PathGroup) : (modPath s g f).host = s.host := rfl
@[simp] theorem modPath_svc (s : State) (g : Fin 4) (f : PathGroup → PathGroup) : (modPath s g f).svc = s.svc := rfl
@[simp] theorem modPath_fault (s : State) (g : Fin 4) (f : PathGroup → PathGroup) : (modPath s g f).fault = s.fault := rfl
@[simp] theorem modPath_canopy (s : State) (g : Fin 4) (f : PathGroup → PathGroup) : (modPath s g f).canopy = s.canopy := rfl
@[simp] theorem modPath_glade (s : State) (g : Fin 4) (f : PathGroup → PathGroup) : (modPath s g f).glade = s.glade := rfl
@[simp] theorem modPath_pins (s : State) (g : Fin 4) (f : PathGroup → PathGroup) : (modPath s g f).pins = s.pins := rfl
@[simp] theorem modPath_link (s : State) (g : Fin 4) (f : PathGroup → PathGroup) : (modPath s g f).link = s.link := rfl
@[simp] theorem modPath_power (s : State) (g : Fin 4) (f : PathGroup → PathGroup) : (modPath s g f).power = s.power := rfl
@[simp] theorem modPath_norrak (s : State) (g : Fin 4) (f : PathGroup → PathGroup) : (modPath s g f).norrak = s.norrak := rfl
@[simp] theorem modPath_can (s : State) (g : Fin 4) (f : PathGroup → PathGroup) : (modPath s g f).can = s.can := rfl
@[simp] theorem modPath_quire (s : State) (g : Fin 4) (f : PathGroup → PathGroup) : (modPath s g f).quire = s.quire := rfl
@[simp] theorem modPath_check (s : State) (g : Fin 4) (f : PathGroup → PathGroup) : (modPath s g f).check = s.check := rfl
@[simp] theorem modPath_firebreak (s : State) (g : Fin 4) (f : PathGroup → PathGroup) : (modPath s g f).firebreak = s.firebreak := rfl
@[simp] theorem modPath_tally (s : State) (g : Fin 4) (f : PathGroup → PathGroup) : (modPath s g f).tally = s.tally := rfl
@[simp] theorem modPath_life (s : State) (g : Fin 4) (f : PathGroup → PathGroup) : (modPath s g f).life = s.life := rfl

@[simp] theorem modPort_pending (s : State) (p : Fin 3) (f : Port → Port) : (modPort s p f).pending = s.pending := rfl
@[simp] theorem modPort_out (s : State) (p : Fin 3) (f : Port → Port) : (modPort s p f).out = s.out := rfl
@[simp] theorem modPort_free (s : State) (p : Fin 3) (f : Port → Port) : (modPort s p f).free = s.free := rfl
@[simp] theorem modPort_regs (s : State) (p : Fin 3) (f : Port → Port) : (modPort s p f).regs = s.regs := rfl
@[simp] theorem modPort_seqs (s : State) (p : Fin 3) (f : Port → Port) : (modPort s p f).seqs = s.seqs := rfl
@[simp] theorem modPort_latches (s : State) (p : Fin 3) (f : Port → Port) : (modPort s p f).latches = s.latches := rfl
@[simp] theorem modPort_time (s : State) (p : Fin 3) (f : Port → Port) : (modPort s p f).time = s.time := rfl
@[simp] theorem modPort_chip (s : State) (p : Fin 3) (f : Port → Port) : (modPort s p f).chip = s.chip := rfl
@[simp] theorem modPort_host (s : State) (p : Fin 3) (f : Port → Port) : (modPort s p f).host = s.host := rfl
@[simp] theorem modPort_svc (s : State) (p : Fin 3) (f : Port → Port) : (modPort s p f).svc = s.svc := rfl
@[simp] theorem modPort_fault (s : State) (p : Fin 3) (f : Port → Port) : (modPort s p f).fault = s.fault := rfl
@[simp] theorem modPort_canopy (s : State) (p : Fin 3) (f : Port → Port) : (modPort s p f).canopy = s.canopy := rfl
@[simp] theorem modPort_glade (s : State) (p : Fin 3) (f : Port → Port) : (modPort s p f).glade = s.glade := rfl
@[simp] theorem modPort_pins (s : State) (p : Fin 3) (f : Port → Port) : (modPort s p f).pins = s.pins := rfl
@[simp] theorem modPort_link (s : State) (p : Fin 3) (f : Port → Port) : (modPort s p f).link = s.link := rfl
@[simp] theorem modPort_power (s : State) (p : Fin 3) (f : Port → Port) : (modPort s p f).power = s.power := rfl
@[simp] theorem modPort_norrak (s : State) (p : Fin 3) (f : Port → Port) : (modPort s p f).norrak = s.norrak := rfl
@[simp] theorem modPort_can (s : State) (p : Fin 3) (f : Port → Port) : (modPort s p f).can = s.can := rfl
@[simp] theorem modPort_quire (s : State) (p : Fin 3) (f : Port → Port) : (modPort s p f).quire = s.quire := rfl
@[simp] theorem modPort_check (s : State) (p : Fin 3) (f : Port → Port) : (modPort s p f).check = s.check := rfl
@[simp] theorem modPort_firebreak (s : State) (p : Fin 3) (f : Port → Port) : (modPort s p f).firebreak = s.firebreak := rfl
@[simp] theorem modPort_tally (s : State) (p : Fin 3) (f : Port → Port) : (modPort s p f).tally = s.tally := rfl
@[simp] theorem modPort_life (s : State) (p : Fin 3) (f : Port → Port) : (modPort s p f).life = s.life := rfl

@[simp] theorem modFbk_pending (s : State) (n : Fin 32) (f : FbSt → FbSt) : (modFbk s n f).pending = s.pending := rfl
@[simp] theorem modFbk_out (s : State) (n : Fin 32) (f : FbSt → FbSt) : (modFbk s n f).out = s.out := rfl
@[simp] theorem modFbk_free (s : State) (n : Fin 32) (f : FbSt → FbSt) : (modFbk s n f).free = s.free := rfl
@[simp] theorem modFbk_regs (s : State) (n : Fin 32) (f : FbSt → FbSt) : (modFbk s n f).regs = s.regs := rfl
@[simp] theorem modFbk_seqs (s : State) (n : Fin 32) (f : FbSt → FbSt) : (modFbk s n f).seqs = s.seqs := rfl
@[simp] theorem modFbk_latches (s : State) (n : Fin 32) (f : FbSt → FbSt) : (modFbk s n f).latches = s.latches := rfl
@[simp] theorem modFbk_time (s : State) (n : Fin 32) (f : FbSt → FbSt) : (modFbk s n f).time = s.time := rfl
@[simp] theorem modFbk_chip (s : State) (n : Fin 32) (f : FbSt → FbSt) : (modFbk s n f).chip = s.chip := rfl
@[simp] theorem modFbk_host (s : State) (n : Fin 32) (f : FbSt → FbSt) : (modFbk s n f).host = s.host := rfl
@[simp] theorem modFbk_svc (s : State) (n : Fin 32) (f : FbSt → FbSt) : (modFbk s n f).svc = s.svc := rfl
@[simp] theorem modFbk_fault (s : State) (n : Fin 32) (f : FbSt → FbSt) : (modFbk s n f).fault = s.fault := rfl
@[simp] theorem modFbk_canopy (s : State) (n : Fin 32) (f : FbSt → FbSt) : (modFbk s n f).canopy = s.canopy := rfl
@[simp] theorem modFbk_glade (s : State) (n : Fin 32) (f : FbSt → FbSt) : (modFbk s n f).glade = s.glade := rfl
@[simp] theorem modFbk_pins (s : State) (n : Fin 32) (f : FbSt → FbSt) : (modFbk s n f).pins = s.pins := rfl
@[simp] theorem modFbk_link (s : State) (n : Fin 32) (f : FbSt → FbSt) : (modFbk s n f).link = s.link := rfl
@[simp] theorem modFbk_power (s : State) (n : Fin 32) (f : FbSt → FbSt) : (modFbk s n f).power = s.power := rfl
@[simp] theorem modFbk_norrak (s : State) (n : Fin 32) (f : FbSt → FbSt) : (modFbk s n f).norrak = s.norrak := rfl
@[simp] theorem modFbk_can (s : State) (n : Fin 32) (f : FbSt → FbSt) : (modFbk s n f).can = s.can := rfl
@[simp] theorem modFbk_quire (s : State) (n : Fin 32) (f : FbSt → FbSt) : (modFbk s n f).quire = s.quire := rfl
@[simp] theorem modFbk_check (s : State) (n : Fin 32) (f : FbSt → FbSt) : (modFbk s n f).check = s.check := rfl
@[simp] theorem modFbk_firebreak (s : State) (n : Fin 32) (f : FbSt → FbSt) : (modFbk s n f).firebreak = s.firebreak := rfl
@[simp] theorem modFbk_tally (s : State) (n : Fin 32) (f : FbSt → FbSt) : (modFbk s n f).tally = s.tally := rfl
@[simp] theorem modFbk_life (s : State) (n : Fin 32) (f : FbSt → FbSt) : (modFbk s n f).life = s.life := rfl

@[simp] theorem modPin_pending (s : State) (k : Fin 4) (f : Pin → Pin) : (modPin s k f).pending = s.pending := rfl
@[simp] theorem modPin_out (s : State) (k : Fin 4) (f : Pin → Pin) : (modPin s k f).out = s.out := rfl
@[simp] theorem modPin_free (s : State) (k : Fin 4) (f : Pin → Pin) : (modPin s k f).free = s.free := rfl
@[simp] theorem modPin_regs (s : State) (k : Fin 4) (f : Pin → Pin) : (modPin s k f).regs = s.regs := rfl
@[simp] theorem modPin_seqs (s : State) (k : Fin 4) (f : Pin → Pin) : (modPin s k f).seqs = s.seqs := rfl
@[simp] theorem modPin_latches (s : State) (k : Fin 4) (f : Pin → Pin) : (modPin s k f).latches = s.latches := rfl
@[simp] theorem modPin_time (s : State) (k : Fin 4) (f : Pin → Pin) : (modPin s k f).time = s.time := rfl
@[simp] theorem modPin_chip (s : State) (k : Fin 4) (f : Pin → Pin) : (modPin s k f).chip = s.chip := rfl
@[simp] theorem modPin_host (s : State) (k : Fin 4) (f : Pin → Pin) : (modPin s k f).host = s.host := rfl
@[simp] theorem modPin_svc (s : State) (k : Fin 4) (f : Pin → Pin) : (modPin s k f).svc = s.svc := rfl
@[simp] theorem modPin_fault (s : State) (k : Fin 4) (f : Pin → Pin) : (modPin s k f).fault = s.fault := rfl
@[simp] theorem modPin_canopy (s : State) (k : Fin 4) (f : Pin → Pin) : (modPin s k f).canopy = s.canopy := rfl
@[simp] theorem modPin_glade (s : State) (k : Fin 4) (f : Pin → Pin) : (modPin s k f).glade = s.glade := rfl
@[simp] theorem modPin_axis (s : State) (k : Fin 4) (f : Pin → Pin) : (modPin s k f).axis = s.axis := rfl
@[simp] theorem modPin_link (s : State) (k : Fin 4) (f : Pin → Pin) : (modPin s k f).link = s.link := rfl
@[simp] theorem modPin_power (s : State) (k : Fin 4) (f : Pin → Pin) : (modPin s k f).power = s.power := rfl
@[simp] theorem modPin_norrak (s : State) (k : Fin 4) (f : Pin → Pin) : (modPin s k f).norrak = s.norrak := rfl
@[simp] theorem modPin_can (s : State) (k : Fin 4) (f : Pin → Pin) : (modPin s k f).can = s.can := rfl
@[simp] theorem modPin_quire (s : State) (k : Fin 4) (f : Pin → Pin) : (modPin s k f).quire = s.quire := rfl
@[simp] theorem modPin_check (s : State) (k : Fin 4) (f : Pin → Pin) : (modPin s k f).check = s.check := rfl
@[simp] theorem modPin_firebreak (s : State) (k : Fin 4) (f : Pin → Pin) : (modPin s k f).firebreak = s.firebreak := rfl
@[simp] theorem modPin_tally (s : State) (k : Fin 4) (f : Pin → Pin) : (modPin s k f).tally = s.tally := rfl
@[simp] theorem modPin_life (s : State) (k : Fin 4) (f : Pin → Pin) : (modPin s k f).life = s.life := rfl

@[simp] theorem modCmp_pending (s : State) (u : Fin 16) (f : Compare → Compare) : (modCmp s u f).pending = s.pending := rfl
@[simp] theorem modCmp_out (s : State) (u : Fin 16) (f : Compare → Compare) : (modCmp s u f).out = s.out := rfl
@[simp] theorem modCmp_free (s : State) (u : Fin 16) (f : Compare → Compare) : (modCmp s u f).free = s.free := rfl
@[simp] theorem modCmp_regs (s : State) (u : Fin 16) (f : Compare → Compare) : (modCmp s u f).regs = s.regs := rfl
@[simp] theorem modCmp_seqs (s : State) (u : Fin 16) (f : Compare → Compare) : (modCmp s u f).seqs = s.seqs := rfl
@[simp] theorem modCmp_latches (s : State) (u : Fin 16) (f : Compare → Compare) : (modCmp s u f).latches = s.latches := rfl
@[simp] theorem modCmp_time (s : State) (u : Fin 16) (f : Compare → Compare) : (modCmp s u f).time = s.time := rfl
@[simp] theorem modCmp_chip (s : State) (u : Fin 16) (f : Compare → Compare) : (modCmp s u f).chip = s.chip := rfl
@[simp] theorem modCmp_host (s : State) (u : Fin 16) (f : Compare → Compare) : (modCmp s u f).host = s.host := rfl
@[simp] theorem modCmp_svc (s : State) (u : Fin 16) (f : Compare → Compare) : (modCmp s u f).svc = s.svc := rfl
@[simp] theorem modCmp_fault (s : State) (u : Fin 16) (f : Compare → Compare) : (modCmp s u f).fault = s.fault := rfl
@[simp] theorem modCmp_canopy (s : State) (u : Fin 16) (f : Compare → Compare) : (modCmp s u f).canopy = s.canopy := rfl
@[simp] theorem modCmp_glade (s : State) (u : Fin 16) (f : Compare → Compare) : (modCmp s u f).glade = s.glade := rfl
@[simp] theorem modCmp_axis (s : State) (u : Fin 16) (f : Compare → Compare) : (modCmp s u f).axis = s.axis := rfl
@[simp] theorem modCmp_link (s : State) (u : Fin 16) (f : Compare → Compare) : (modCmp s u f).link = s.link := rfl
@[simp] theorem modCmp_power (s : State) (u : Fin 16) (f : Compare → Compare) : (modCmp s u f).power = s.power := rfl
@[simp] theorem modCmp_norrak (s : State) (u : Fin 16) (f : Compare → Compare) : (modCmp s u f).norrak = s.norrak := rfl
@[simp] theorem modCmp_can (s : State) (u : Fin 16) (f : Compare → Compare) : (modCmp s u f).can = s.can := rfl
@[simp] theorem modCmp_quire (s : State) (u : Fin 16) (f : Compare → Compare) : (modCmp s u f).quire = s.quire := rfl
@[simp] theorem modCmp_check (s : State) (u : Fin 16) (f : Compare → Compare) : (modCmp s u f).check = s.check := rfl
@[simp] theorem modCmp_firebreak (s : State) (u : Fin 16) (f : Compare → Compare) : (modCmp s u f).firebreak = s.firebreak := rfl
@[simp] theorem modCmp_tally (s : State) (u : Fin 16) (f : Compare → Compare) : (modCmp s u f).tally = s.tally := rfl
@[simp] theorem modCmp_life (s : State) (u : Fin 16) (f : Compare → Compare) : (modCmp s u f).life = s.life := rfl

@[simp] theorem modLat_pending (s : State) (u : Fin 16) (f : Latch → Latch) : (modLat s u f).pending = s.pending := rfl
@[simp] theorem modLat_out (s : State) (u : Fin 16) (f : Latch → Latch) : (modLat s u f).out = s.out := rfl
@[simp] theorem modLat_free (s : State) (u : Fin 16) (f : Latch → Latch) : (modLat s u f).free = s.free := rfl
@[simp] theorem modLat_regs (s : State) (u : Fin 16) (f : Latch → Latch) : (modLat s u f).regs = s.regs := rfl
@[simp] theorem modLat_seqs (s : State) (u : Fin 16) (f : Latch → Latch) : (modLat s u f).seqs = s.seqs := rfl
@[simp] theorem modLat_latches (s : State) (u : Fin 16) (f : Latch → Latch) : (modLat s u f).latches = s.latches := rfl
@[simp] theorem modLat_time (s : State) (u : Fin 16) (f : Latch → Latch) : (modLat s u f).time = s.time := rfl
@[simp] theorem modLat_chip (s : State) (u : Fin 16) (f : Latch → Latch) : (modLat s u f).chip = s.chip := rfl
@[simp] theorem modLat_host (s : State) (u : Fin 16) (f : Latch → Latch) : (modLat s u f).host = s.host := rfl
@[simp] theorem modLat_svc (s : State) (u : Fin 16) (f : Latch → Latch) : (modLat s u f).svc = s.svc := rfl
@[simp] theorem modLat_fault (s : State) (u : Fin 16) (f : Latch → Latch) : (modLat s u f).fault = s.fault := rfl
@[simp] theorem modLat_canopy (s : State) (u : Fin 16) (f : Latch → Latch) : (modLat s u f).canopy = s.canopy := rfl
@[simp] theorem modLat_glade (s : State) (u : Fin 16) (f : Latch → Latch) : (modLat s u f).glade = s.glade := rfl
@[simp] theorem modLat_axis (s : State) (u : Fin 16) (f : Latch → Latch) : (modLat s u f).axis = s.axis := rfl
@[simp] theorem modLat_link (s : State) (u : Fin 16) (f : Latch → Latch) : (modLat s u f).link = s.link := rfl
@[simp] theorem modLat_power (s : State) (u : Fin 16) (f : Latch → Latch) : (modLat s u f).power = s.power := rfl
@[simp] theorem modLat_norrak (s : State) (u : Fin 16) (f : Latch → Latch) : (modLat s u f).norrak = s.norrak := rfl
@[simp] theorem modLat_can (s : State) (u : Fin 16) (f : Latch → Latch) : (modLat s u f).can = s.can := rfl
@[simp] theorem modLat_quire (s : State) (u : Fin 16) (f : Latch → Latch) : (modLat s u f).quire = s.quire := rfl
@[simp] theorem modLat_check (s : State) (u : Fin 16) (f : Latch → Latch) : (modLat s u f).check = s.check := rfl
@[simp] theorem modLat_firebreak (s : State) (u : Fin 16) (f : Latch → Latch) : (modLat s u f).firebreak = s.firebreak := rfl
@[simp] theorem modLat_tally (s : State) (u : Fin 16) (f : Latch → Latch) : (modLat s u f).tally = s.tally := rfl
@[simp] theorem modLat_life (s : State) (u : Fin 16) (f : Latch → Latch) : (modLat s u f).life = s.life := rfl

@[simp] theorem modLtc_pending (s : State) (n : Fin 4) (f : Lattice → Lattice) : (modLtc s n f).pending = s.pending := rfl
@[simp] theorem modLtc_out (s : State) (n : Fin 4) (f : Lattice → Lattice) : (modLtc s n f).out = s.out := rfl
@[simp] theorem modLtc_free (s : State) (n : Fin 4) (f : Lattice → Lattice) : (modLtc s n f).free = s.free := rfl
@[simp] theorem modLtc_regs (s : State) (n : Fin 4) (f : Lattice → Lattice) : (modLtc s n f).regs = s.regs := rfl
@[simp] theorem modLtc_seqs (s : State) (n : Fin 4) (f : Lattice → Lattice) : (modLtc s n f).seqs = s.seqs := rfl
@[simp] theorem modLtc_latches (s : State) (n : Fin 4) (f : Lattice → Lattice) : (modLtc s n f).latches = s.latches := rfl
@[simp] theorem modLtc_time (s : State) (n : Fin 4) (f : Lattice → Lattice) : (modLtc s n f).time = s.time := rfl
@[simp] theorem modLtc_chip (s : State) (n : Fin 4) (f : Lattice → Lattice) : (modLtc s n f).chip = s.chip := rfl
@[simp] theorem modLtc_host (s : State) (n : Fin 4) (f : Lattice → Lattice) : (modLtc s n f).host = s.host := rfl
@[simp] theorem modLtc_svc (s : State) (n : Fin 4) (f : Lattice → Lattice) : (modLtc s n f).svc = s.svc := rfl
@[simp] theorem modLtc_fault (s : State) (n : Fin 4) (f : Lattice → Lattice) : (modLtc s n f).fault = s.fault := rfl
@[simp] theorem modLtc_canopy (s : State) (n : Fin 4) (f : Lattice → Lattice) : (modLtc s n f).canopy = s.canopy := rfl
@[simp] theorem modLtc_glade (s : State) (n : Fin 4) (f : Lattice → Lattice) : (modLtc s n f).glade = s.glade := rfl
@[simp] theorem modLtc_axis (s : State) (n : Fin 4) (f : Lattice → Lattice) : (modLtc s n f).axis = s.axis := rfl
@[simp] theorem modLtc_link (s : State) (n : Fin 4) (f : Lattice → Lattice) : (modLtc s n f).link = s.link := rfl
@[simp] theorem modLtc_power (s : State) (n : Fin 4) (f : Lattice → Lattice) : (modLtc s n f).power = s.power := rfl
@[simp] theorem modLtc_norrak (s : State) (n : Fin 4) (f : Lattice → Lattice) : (modLtc s n f).norrak = s.norrak := rfl
@[simp] theorem modLtc_can (s : State) (n : Fin 4) (f : Lattice → Lattice) : (modLtc s n f).can = s.can := rfl
@[simp] theorem modLtc_quire (s : State) (n : Fin 4) (f : Lattice → Lattice) : (modLtc s n f).quire = s.quire := rfl
@[simp] theorem modLtc_check (s : State) (n : Fin 4) (f : Lattice → Lattice) : (modLtc s n f).check = s.check := rfl
@[simp] theorem modLtc_firebreak (s : State) (n : Fin 4) (f : Lattice → Lattice) : (modLtc s n f).firebreak = s.firebreak := rfl
@[simp] theorem modLtc_tally (s : State) (n : Fin 4) (f : Lattice → Lattice) : (modLtc s n f).tally = s.tally := rfl
@[simp] theorem modLtc_life (s : State) (n : Fin 4) (f : Lattice → Lattice) : (modLtc s n f).life = s.life := rfl

@[simp] theorem modOut_pending (s : State) (n : Fin 4) (j : Fin 16) (f : LtcOut → LtcOut) : (modOut n j f s).pending = s.pending := rfl
@[simp] theorem modOut_out (s : State) (n : Fin 4) (j : Fin 16) (f : LtcOut → LtcOut) : (modOut n j f s).out = s.out := rfl
@[simp] theorem modOut_free (s : State) (n : Fin 4) (j : Fin 16) (f : LtcOut → LtcOut) : (modOut n j f s).free = s.free := rfl
@[simp] theorem modOut_regs (s : State) (n : Fin 4) (j : Fin 16) (f : LtcOut → LtcOut) : (modOut n j f s).regs = s.regs := rfl
@[simp] theorem modOut_seqs (s : State) (n : Fin 4) (j : Fin 16) (f : LtcOut → LtcOut) : (modOut n j f s).seqs = s.seqs := rfl
@[simp] theorem modOut_latches (s : State) (n : Fin 4) (j : Fin 16) (f : LtcOut → LtcOut) : (modOut n j f s).latches = s.latches := rfl
@[simp] theorem modOut_time (s : State) (n : Fin 4) (j : Fin 16) (f : LtcOut → LtcOut) : (modOut n j f s).time = s.time := rfl
@[simp] theorem modOut_chip (s : State) (n : Fin 4) (j : Fin 16) (f : LtcOut → LtcOut) : (modOut n j f s).chip = s.chip := rfl
@[simp] theorem modOut_host (s : State) (n : Fin 4) (j : Fin 16) (f : LtcOut → LtcOut) : (modOut n j f s).host = s.host := rfl
@[simp] theorem modOut_svc (s : State) (n : Fin 4) (j : Fin 16) (f : LtcOut → LtcOut) : (modOut n j f s).svc = s.svc := rfl
@[simp] theorem modOut_fault (s : State) (n : Fin 4) (j : Fin 16) (f : LtcOut → LtcOut) : (modOut n j f s).fault = s.fault := rfl
@[simp] theorem modOut_canopy (s : State) (n : Fin 4) (j : Fin 16) (f : LtcOut → LtcOut) : (modOut n j f s).canopy = s.canopy := rfl
@[simp] theorem modOut_glade (s : State) (n : Fin 4) (j : Fin 16) (f : LtcOut → LtcOut) : (modOut n j f s).glade = s.glade := rfl
@[simp] theorem modOut_axis (s : State) (n : Fin 4) (j : Fin 16) (f : LtcOut → LtcOut) : (modOut n j f s).axis = s.axis := rfl
@[simp] theorem modOut_link (s : State) (n : Fin 4) (j : Fin 16) (f : LtcOut → LtcOut) : (modOut n j f s).link = s.link := rfl
@[simp] theorem modOut_power (s : State) (n : Fin 4) (j : Fin 16) (f : LtcOut → LtcOut) : (modOut n j f s).power = s.power := rfl
@[simp] theorem modOut_norrak (s : State) (n : Fin 4) (j : Fin 16) (f : LtcOut → LtcOut) : (modOut n j f s).norrak = s.norrak := rfl
@[simp] theorem modOut_can (s : State) (n : Fin 4) (j : Fin 16) (f : LtcOut → LtcOut) : (modOut n j f s).can = s.can := rfl
@[simp] theorem modOut_quire (s : State) (n : Fin 4) (j : Fin 16) (f : LtcOut → LtcOut) : (modOut n j f s).quire = s.quire := rfl
@[simp] theorem modOut_check (s : State) (n : Fin 4) (j : Fin 16) (f : LtcOut → LtcOut) : (modOut n j f s).check = s.check := rfl
@[simp] theorem modOut_firebreak (s : State) (n : Fin 4) (j : Fin 16) (f : LtcOut → LtcOut) : (modOut n j f s).firebreak = s.firebreak := rfl
@[simp] theorem modOut_tally (s : State) (n : Fin 4) (j : Fin 16) (f : LtcOut → LtcOut) : (modOut n j f s).tally = s.tally := rfl
@[simp] theorem modOut_life (s : State) (n : Fin 4) (j : Fin 16) (f : LtcOut → LtcOut) : (modOut n j f s).life = s.life := rfl

@[simp] theorem modEp_pending (s : State) (e : Fin 12) (f : Endpoint → Endpoint) : (modEp s e f).pending = s.pending := rfl
@[simp] theorem modEp_out (s : State) (e : Fin 12) (f : Endpoint → Endpoint) : (modEp s e f).out = s.out := rfl
@[simp] theorem modEp_free (s : State) (e : Fin 12) (f : Endpoint → Endpoint) : (modEp s e f).free = s.free := rfl
@[simp] theorem modEp_regs (s : State) (e : Fin 12) (f : Endpoint → Endpoint) : (modEp s e f).regs = s.regs := rfl
@[simp] theorem modEp_seqs (s : State) (e : Fin 12) (f : Endpoint → Endpoint) : (modEp s e f).seqs = s.seqs := rfl
@[simp] theorem modEp_latches (s : State) (e : Fin 12) (f : Endpoint → Endpoint) : (modEp s e f).latches = s.latches := rfl
@[simp] theorem modEp_time (s : State) (e : Fin 12) (f : Endpoint → Endpoint) : (modEp s e f).time = s.time := rfl
@[simp] theorem modEp_chip (s : State) (e : Fin 12) (f : Endpoint → Endpoint) : (modEp s e f).chip = s.chip := rfl
@[simp] theorem modEp_host (s : State) (e : Fin 12) (f : Endpoint → Endpoint) : (modEp s e f).host = s.host := rfl
@[simp] theorem modEp_svc (s : State) (e : Fin 12) (f : Endpoint → Endpoint) : (modEp s e f).svc = s.svc := rfl
@[simp] theorem modEp_fault (s : State) (e : Fin 12) (f : Endpoint → Endpoint) : (modEp s e f).fault = s.fault := rfl
@[simp] theorem modEp_canopy (s : State) (e : Fin 12) (f : Endpoint → Endpoint) : (modEp s e f).canopy = s.canopy := rfl
@[simp] theorem modEp_glade (s : State) (e : Fin 12) (f : Endpoint → Endpoint) : (modEp s e f).glade = s.glade := rfl
@[simp] theorem modEp_axis (s : State) (e : Fin 12) (f : Endpoint → Endpoint) : (modEp s e f).axis = s.axis := rfl
@[simp] theorem modEp_pins (s : State) (e : Fin 12) (f : Endpoint → Endpoint) : (modEp s e f).pins = s.pins := rfl
@[simp] theorem modEp_power (s : State) (e : Fin 12) (f : Endpoint → Endpoint) : (modEp s e f).power = s.power := rfl
@[simp] theorem modEp_norrak (s : State) (e : Fin 12) (f : Endpoint → Endpoint) : (modEp s e f).norrak = s.norrak := rfl
@[simp] theorem modEp_can (s : State) (e : Fin 12) (f : Endpoint → Endpoint) : (modEp s e f).can = s.can := rfl
@[simp] theorem modEp_quire (s : State) (e : Fin 12) (f : Endpoint → Endpoint) : (modEp s e f).quire = s.quire := rfl
@[simp] theorem modEp_check (s : State) (e : Fin 12) (f : Endpoint → Endpoint) : (modEp s e f).check = s.check := rfl
@[simp] theorem modEp_firebreak (s : State) (e : Fin 12) (f : Endpoint → Endpoint) : (modEp s e f).firebreak = s.firebreak := rfl
@[simp] theorem modEp_tally (s : State) (e : Fin 12) (f : Endpoint → Endpoint) : (modEp s e f).tally = s.tally := rfl
@[simp] theorem modEp_life (s : State) (e : Fin 12) (f : Endpoint → Endpoint) : (modEp s e f).life = s.life := rfl

@[simp] theorem modLink_pending (s : State) (k : Fin 4) (f : Link → Link) : (modLink s k f).pending = s.pending := rfl
@[simp] theorem modLink_out (s : State) (k : Fin 4) (f : Link → Link) : (modLink s k f).out = s.out := rfl
@[simp] theorem modLink_free (s : State) (k : Fin 4) (f : Link → Link) : (modLink s k f).free = s.free := rfl
@[simp] theorem modLink_regs (s : State) (k : Fin 4) (f : Link → Link) : (modLink s k f).regs = s.regs := rfl
@[simp] theorem modLink_seqs (s : State) (k : Fin 4) (f : Link → Link) : (modLink s k f).seqs = s.seqs := rfl
@[simp] theorem modLink_latches (s : State) (k : Fin 4) (f : Link → Link) : (modLink s k f).latches = s.latches := rfl
@[simp] theorem modLink_time (s : State) (k : Fin 4) (f : Link → Link) : (modLink s k f).time = s.time := rfl
@[simp] theorem modLink_chip (s : State) (k : Fin 4) (f : Link → Link) : (modLink s k f).chip = s.chip := rfl
@[simp] theorem modLink_host (s : State) (k : Fin 4) (f : Link → Link) : (modLink s k f).host = s.host := rfl
@[simp] theorem modLink_svc (s : State) (k : Fin 4) (f : Link → Link) : (modLink s k f).svc = s.svc := rfl
@[simp] theorem modLink_fault (s : State) (k : Fin 4) (f : Link → Link) : (modLink s k f).fault = s.fault := rfl
@[simp] theorem modLink_canopy (s : State) (k : Fin 4) (f : Link → Link) : (modLink s k f).canopy = s.canopy := rfl
@[simp] theorem modLink_glade (s : State) (k : Fin 4) (f : Link → Link) : (modLink s k f).glade = s.glade := rfl
@[simp] theorem modLink_axis (s : State) (k : Fin 4) (f : Link → Link) : (modLink s k f).axis = s.axis := rfl
@[simp] theorem modLink_pins (s : State) (k : Fin 4) (f : Link → Link) : (modLink s k f).pins = s.pins := rfl
@[simp] theorem modLink_power (s : State) (k : Fin 4) (f : Link → Link) : (modLink s k f).power = s.power := rfl
@[simp] theorem modLink_norrak (s : State) (k : Fin 4) (f : Link → Link) : (modLink s k f).norrak = s.norrak := rfl
@[simp] theorem modLink_can (s : State) (k : Fin 4) (f : Link → Link) : (modLink s k f).can = s.can := rfl
@[simp] theorem modLink_quire (s : State) (k : Fin 4) (f : Link → Link) : (modLink s k f).quire = s.quire := rfl
@[simp] theorem modLink_check (s : State) (k : Fin 4) (f : Link → Link) : (modLink s k f).check = s.check := rfl
@[simp] theorem modLink_firebreak (s : State) (k : Fin 4) (f : Link → Link) : (modLink s k f).firebreak = s.firebreak := rfl
@[simp] theorem modLink_tally (s : State) (k : Fin 4) (f : Link → Link) : (modLink s k f).tally = s.tally := rfl
@[simp] theorem modLink_life (s : State) (k : Fin 4) (f : Link → Link) : (modLink s k f).life = s.life := rfl

@[simp] theorem modRec_pending (s : State) (r : Fin 8) (f : IdRecord → IdRecord) : (modRec s r f).pending = s.pending := rfl
@[simp] theorem modRec_out (s : State) (r : Fin 8) (f : IdRecord → IdRecord) : (modRec s r f).out = s.out := rfl
@[simp] theorem modRec_free (s : State) (r : Fin 8) (f : IdRecord → IdRecord) : (modRec s r f).free = s.free := rfl
@[simp] theorem modRec_regs (s : State) (r : Fin 8) (f : IdRecord → IdRecord) : (modRec s r f).regs = s.regs := rfl
@[simp] theorem modRec_seqs (s : State) (r : Fin 8) (f : IdRecord → IdRecord) : (modRec s r f).seqs = s.seqs := rfl
@[simp] theorem modRec_latches (s : State) (r : Fin 8) (f : IdRecord → IdRecord) : (modRec s r f).latches = s.latches := rfl
@[simp] theorem modRec_time (s : State) (r : Fin 8) (f : IdRecord → IdRecord) : (modRec s r f).time = s.time := rfl
@[simp] theorem modRec_chip (s : State) (r : Fin 8) (f : IdRecord → IdRecord) : (modRec s r f).chip = s.chip := rfl
@[simp] theorem modRec_host (s : State) (r : Fin 8) (f : IdRecord → IdRecord) : (modRec s r f).host = s.host := rfl
@[simp] theorem modRec_svc (s : State) (r : Fin 8) (f : IdRecord → IdRecord) : (modRec s r f).svc = s.svc := rfl
@[simp] theorem modRec_fault (s : State) (r : Fin 8) (f : IdRecord → IdRecord) : (modRec s r f).fault = s.fault := rfl
@[simp] theorem modRec_canopy (s : State) (r : Fin 8) (f : IdRecord → IdRecord) : (modRec s r f).canopy = s.canopy := rfl
@[simp] theorem modRec_glade (s : State) (r : Fin 8) (f : IdRecord → IdRecord) : (modRec s r f).glade = s.glade := rfl
@[simp] theorem modRec_axis (s : State) (r : Fin 8) (f : IdRecord → IdRecord) : (modRec s r f).axis = s.axis := rfl
@[simp] theorem modRec_pins (s : State) (r : Fin 8) (f : IdRecord → IdRecord) : (modRec s r f).pins = s.pins := rfl
@[simp] theorem modRec_power (s : State) (r : Fin 8) (f : IdRecord → IdRecord) : (modRec s r f).power = s.power := rfl
@[simp] theorem modRec_norrak (s : State) (r : Fin 8) (f : IdRecord → IdRecord) : (modRec s r f).norrak = s.norrak := rfl
@[simp] theorem modRec_can (s : State) (r : Fin 8) (f : IdRecord → IdRecord) : (modRec s r f).can = s.can := rfl
@[simp] theorem modRec_quire (s : State) (r : Fin 8) (f : IdRecord → IdRecord) : (modRec s r f).quire = s.quire := rfl
@[simp] theorem modRec_check (s : State) (r : Fin 8) (f : IdRecord → IdRecord) : (modRec s r f).check = s.check := rfl
@[simp] theorem modRec_firebreak (s : State) (r : Fin 8) (f : IdRecord → IdRecord) : (modRec s r f).firebreak = s.firebreak := rfl
@[simp] theorem modRec_tally (s : State) (r : Fin 8) (f : IdRecord → IdRecord) : (modRec s r f).tally = s.tally := rfl
@[simp] theorem modRec_life (s : State) (r : Fin 8) (f : IdRecord → IdRecord) : (modRec s r f).life = s.life := rfl

@[simp] theorem modXfer_pending (s : State) (k : Fin 4) (id : Nat) (f : Xfer → Xfer) : (modXfer k id f s).pending = s.pending := rfl
@[simp] theorem modXfer_out (s : State) (k : Fin 4) (id : Nat) (f : Xfer → Xfer) : (modXfer k id f s).out = s.out := rfl
@[simp] theorem modXfer_free (s : State) (k : Fin 4) (id : Nat) (f : Xfer → Xfer) : (modXfer k id f s).free = s.free := rfl
@[simp] theorem modXfer_regs (s : State) (k : Fin 4) (id : Nat) (f : Xfer → Xfer) : (modXfer k id f s).regs = s.regs := rfl
@[simp] theorem modXfer_seqs (s : State) (k : Fin 4) (id : Nat) (f : Xfer → Xfer) : (modXfer k id f s).seqs = s.seqs := rfl
@[simp] theorem modXfer_latches (s : State) (k : Fin 4) (id : Nat) (f : Xfer → Xfer) : (modXfer k id f s).latches = s.latches := rfl
@[simp] theorem modXfer_time (s : State) (k : Fin 4) (id : Nat) (f : Xfer → Xfer) : (modXfer k id f s).time = s.time := rfl
@[simp] theorem modXfer_chip (s : State) (k : Fin 4) (id : Nat) (f : Xfer → Xfer) : (modXfer k id f s).chip = s.chip := rfl
@[simp] theorem modXfer_host (s : State) (k : Fin 4) (id : Nat) (f : Xfer → Xfer) : (modXfer k id f s).host = s.host := rfl
@[simp] theorem modXfer_svc (s : State) (k : Fin 4) (id : Nat) (f : Xfer → Xfer) : (modXfer k id f s).svc = s.svc := rfl
@[simp] theorem modXfer_fault (s : State) (k : Fin 4) (id : Nat) (f : Xfer → Xfer) : (modXfer k id f s).fault = s.fault := rfl
@[simp] theorem modXfer_canopy (s : State) (k : Fin 4) (id : Nat) (f : Xfer → Xfer) : (modXfer k id f s).canopy = s.canopy := rfl
@[simp] theorem modXfer_glade (s : State) (k : Fin 4) (id : Nat) (f : Xfer → Xfer) : (modXfer k id f s).glade = s.glade := rfl
@[simp] theorem modXfer_axis (s : State) (k : Fin 4) (id : Nat) (f : Xfer → Xfer) : (modXfer k id f s).axis = s.axis := rfl
@[simp] theorem modXfer_pins (s : State) (k : Fin 4) (id : Nat) (f : Xfer → Xfer) : (modXfer k id f s).pins = s.pins := rfl
@[simp] theorem modXfer_power (s : State) (k : Fin 4) (id : Nat) (f : Xfer → Xfer) : (modXfer k id f s).power = s.power := rfl
@[simp] theorem modXfer_norrak (s : State) (k : Fin 4) (id : Nat) (f : Xfer → Xfer) : (modXfer k id f s).norrak = s.norrak := rfl
@[simp] theorem modXfer_can (s : State) (k : Fin 4) (id : Nat) (f : Xfer → Xfer) : (modXfer k id f s).can = s.can := rfl
@[simp] theorem modXfer_quire (s : State) (k : Fin 4) (id : Nat) (f : Xfer → Xfer) : (modXfer k id f s).quire = s.quire := rfl
@[simp] theorem modXfer_check (s : State) (k : Fin 4) (id : Nat) (f : Xfer → Xfer) : (modXfer k id f s).check = s.check := rfl
@[simp] theorem modXfer_firebreak (s : State) (k : Fin 4) (id : Nat) (f : Xfer → Xfer) : (modXfer k id f s).firebreak = s.firebreak := rfl
@[simp] theorem modXfer_tally (s : State) (k : Fin 4) (id : Nat) (f : Xfer → Xfer) : (modXfer k id f s).tally = s.tally := rfl
@[simp] theorem modXfer_life (s : State) (k : Fin 4) (id : Nat) (f : Xfer → Xfer) : (modXfer k id f s).life = s.life := rfl

@[simp] theorem modPower_pending (s : State) (f : PowerSt → PowerSt) : (modPower s f).pending = s.pending := rfl
@[simp] theorem modPower_out (s : State) (f : PowerSt → PowerSt) : (modPower s f).out = s.out := rfl
@[simp] theorem modPower_free (s : State) (f : PowerSt → PowerSt) : (modPower s f).free = s.free := rfl
@[simp] theorem modPower_regs (s : State) (f : PowerSt → PowerSt) : (modPower s f).regs = s.regs := rfl
@[simp] theorem modPower_seqs (s : State) (f : PowerSt → PowerSt) : (modPower s f).seqs = s.seqs := rfl
@[simp] theorem modPower_latches (s : State) (f : PowerSt → PowerSt) : (modPower s f).latches = s.latches := rfl
@[simp] theorem modPower_time (s : State) (f : PowerSt → PowerSt) : (modPower s f).time = s.time := rfl
@[simp] theorem modPower_chip (s : State) (f : PowerSt → PowerSt) : (modPower s f).chip = s.chip := rfl
@[simp] theorem modPower_host (s : State) (f : PowerSt → PowerSt) : (modPower s f).host = s.host := rfl
@[simp] theorem modPower_svc (s : State) (f : PowerSt → PowerSt) : (modPower s f).svc = s.svc := rfl
@[simp] theorem modPower_fault (s : State) (f : PowerSt → PowerSt) : (modPower s f).fault = s.fault := rfl
@[simp] theorem modPower_canopy (s : State) (f : PowerSt → PowerSt) : (modPower s f).canopy = s.canopy := rfl
@[simp] theorem modPower_glade (s : State) (f : PowerSt → PowerSt) : (modPower s f).glade = s.glade := rfl
@[simp] theorem modPower_axis (s : State) (f : PowerSt → PowerSt) : (modPower s f).axis = s.axis := rfl
@[simp] theorem modPower_pins (s : State) (f : PowerSt → PowerSt) : (modPower s f).pins = s.pins := rfl
@[simp] theorem modPower_link (s : State) (f : PowerSt → PowerSt) : (modPower s f).link = s.link := rfl
@[simp] theorem modPower_norrak (s : State) (f : PowerSt → PowerSt) : (modPower s f).norrak = s.norrak := rfl
@[simp] theorem modPower_can (s : State) (f : PowerSt → PowerSt) : (modPower s f).can = s.can := rfl
@[simp] theorem modPower_quire (s : State) (f : PowerSt → PowerSt) : (modPower s f).quire = s.quire := rfl
@[simp] theorem modPower_check (s : State) (f : PowerSt → PowerSt) : (modPower s f).check = s.check := rfl
@[simp] theorem modPower_firebreak (s : State) (f : PowerSt → PowerSt) : (modPower s f).firebreak = s.firebreak := rfl
@[simp] theorem modPower_tally (s : State) (f : PowerSt → PowerSt) : (modPower s f).tally = s.tally := rfl
@[simp] theorem modPower_life (s : State) (f : PowerSt → PowerSt) : (modPower s f).life = s.life := rfl

@[simp] theorem modCh_pending (s : State) (c : Fin 3) (f : Channel → Channel) : (modCh s c f).pending = s.pending := rfl
@[simp] theorem modCh_out (s : State) (c : Fin 3) (f : Channel → Channel) : (modCh s c f).out = s.out := rfl
@[simp] theorem modCh_free (s : State) (c : Fin 3) (f : Channel → Channel) : (modCh s c f).free = s.free := rfl
@[simp] theorem modCh_regs (s : State) (c : Fin 3) (f : Channel → Channel) : (modCh s c f).regs = s.regs := rfl
@[simp] theorem modCh_seqs (s : State) (c : Fin 3) (f : Channel → Channel) : (modCh s c f).seqs = s.seqs := rfl
@[simp] theorem modCh_latches (s : State) (c : Fin 3) (f : Channel → Channel) : (modCh s c f).latches = s.latches := rfl
@[simp] theorem modCh_time (s : State) (c : Fin 3) (f : Channel → Channel) : (modCh s c f).time = s.time := rfl
@[simp] theorem modCh_chip (s : State) (c : Fin 3) (f : Channel → Channel) : (modCh s c f).chip = s.chip := rfl
@[simp] theorem modCh_host (s : State) (c : Fin 3) (f : Channel → Channel) : (modCh s c f).host = s.host := rfl
@[simp] theorem modCh_svc (s : State) (c : Fin 3) (f : Channel → Channel) : (modCh s c f).svc = s.svc := rfl
@[simp] theorem modCh_fault (s : State) (c : Fin 3) (f : Channel → Channel) : (modCh s c f).fault = s.fault := rfl
@[simp] theorem modCh_canopy (s : State) (c : Fin 3) (f : Channel → Channel) : (modCh s c f).canopy = s.canopy := rfl
@[simp] theorem modCh_glade (s : State) (c : Fin 3) (f : Channel → Channel) : (modCh s c f).glade = s.glade := rfl
@[simp] theorem modCh_axis (s : State) (c : Fin 3) (f : Channel → Channel) : (modCh s c f).axis = s.axis := rfl
@[simp] theorem modCh_pins (s : State) (c : Fin 3) (f : Channel → Channel) : (modCh s c f).pins = s.pins := rfl
@[simp] theorem modCh_link (s : State) (c : Fin 3) (f : Channel → Channel) : (modCh s c f).link = s.link := rfl
@[simp] theorem modCh_norrak (s : State) (c : Fin 3) (f : Channel → Channel) : (modCh s c f).norrak = s.norrak := rfl
@[simp] theorem modCh_can (s : State) (c : Fin 3) (f : Channel → Channel) : (modCh s c f).can = s.can := rfl
@[simp] theorem modCh_quire (s : State) (c : Fin 3) (f : Channel → Channel) : (modCh s c f).quire = s.quire := rfl
@[simp] theorem modCh_check (s : State) (c : Fin 3) (f : Channel → Channel) : (modCh s c f).check = s.check := rfl
@[simp] theorem modCh_firebreak (s : State) (c : Fin 3) (f : Channel → Channel) : (modCh s c f).firebreak = s.firebreak := rfl
@[simp] theorem modCh_tally (s : State) (c : Fin 3) (f : Channel → Channel) : (modCh s c f).tally = s.tally := rfl
@[simp] theorem modCh_life (s : State) (c : Fin 3) (f : Channel → Channel) : (modCh s c f).life = s.life := rfl

@[simp] theorem modTrip_pending (s : State) (t : Fin 2) (f : TripSt → TripSt) : (modTrip s t f).pending = s.pending := rfl
@[simp] theorem modTrip_out (s : State) (t : Fin 2) (f : TripSt → TripSt) : (modTrip s t f).out = s.out := rfl
@[simp] theorem modTrip_free (s : State) (t : Fin 2) (f : TripSt → TripSt) : (modTrip s t f).free = s.free := rfl
@[simp] theorem modTrip_regs (s : State) (t : Fin 2) (f : TripSt → TripSt) : (modTrip s t f).regs = s.regs := rfl
@[simp] theorem modTrip_seqs (s : State) (t : Fin 2) (f : TripSt → TripSt) : (modTrip s t f).seqs = s.seqs := rfl
@[simp] theorem modTrip_latches (s : State) (t : Fin 2) (f : TripSt → TripSt) : (modTrip s t f).latches = s.latches := rfl
@[simp] theorem modTrip_time (s : State) (t : Fin 2) (f : TripSt → TripSt) : (modTrip s t f).time = s.time := rfl
@[simp] theorem modTrip_chip (s : State) (t : Fin 2) (f : TripSt → TripSt) : (modTrip s t f).chip = s.chip := rfl
@[simp] theorem modTrip_host (s : State) (t : Fin 2) (f : TripSt → TripSt) : (modTrip s t f).host = s.host := rfl
@[simp] theorem modTrip_svc (s : State) (t : Fin 2) (f : TripSt → TripSt) : (modTrip s t f).svc = s.svc := rfl
@[simp] theorem modTrip_fault (s : State) (t : Fin 2) (f : TripSt → TripSt) : (modTrip s t f).fault = s.fault := rfl
@[simp] theorem modTrip_canopy (s : State) (t : Fin 2) (f : TripSt → TripSt) : (modTrip s t f).canopy = s.canopy := rfl
@[simp] theorem modTrip_glade (s : State) (t : Fin 2) (f : TripSt → TripSt) : (modTrip s t f).glade = s.glade := rfl
@[simp] theorem modTrip_axis (s : State) (t : Fin 2) (f : TripSt → TripSt) : (modTrip s t f).axis = s.axis := rfl
@[simp] theorem modTrip_pins (s : State) (t : Fin 2) (f : TripSt → TripSt) : (modTrip s t f).pins = s.pins := rfl
@[simp] theorem modTrip_link (s : State) (t : Fin 2) (f : TripSt → TripSt) : (modTrip s t f).link = s.link := rfl
@[simp] theorem modTrip_norrak (s : State) (t : Fin 2) (f : TripSt → TripSt) : (modTrip s t f).norrak = s.norrak := rfl
@[simp] theorem modTrip_can (s : State) (t : Fin 2) (f : TripSt → TripSt) : (modTrip s t f).can = s.can := rfl
@[simp] theorem modTrip_quire (s : State) (t : Fin 2) (f : TripSt → TripSt) : (modTrip s t f).quire = s.quire := rfl
@[simp] theorem modTrip_check (s : State) (t : Fin 2) (f : TripSt → TripSt) : (modTrip s t f).check = s.check := rfl
@[simp] theorem modTrip_firebreak (s : State) (t : Fin 2) (f : TripSt → TripSt) : (modTrip s t f).firebreak = s.firebreak := rfl
@[simp] theorem modTrip_tally (s : State) (t : Fin 2) (f : TripSt → TripSt) : (modTrip s t f).tally = s.tally := rfl
@[simp] theorem modTrip_life (s : State) (t : Fin 2) (f : TripSt → TripSt) : (modTrip s t f).life = s.life := rfl

@[simp] theorem modNk_pending (s : State) (f : NorrakSt → NorrakSt) : (modNk s f).pending = s.pending := rfl
@[simp] theorem modNk_out (s : State) (f : NorrakSt → NorrakSt) : (modNk s f).out = s.out := rfl
@[simp] theorem modNk_free (s : State) (f : NorrakSt → NorrakSt) : (modNk s f).free = s.free := rfl
@[simp] theorem modNk_regs (s : State) (f : NorrakSt → NorrakSt) : (modNk s f).regs = s.regs := rfl
@[simp] theorem modNk_seqs (s : State) (f : NorrakSt → NorrakSt) : (modNk s f).seqs = s.seqs := rfl
@[simp] theorem modNk_latches (s : State) (f : NorrakSt → NorrakSt) : (modNk s f).latches = s.latches := rfl
@[simp] theorem modNk_time (s : State) (f : NorrakSt → NorrakSt) : (modNk s f).time = s.time := rfl
@[simp] theorem modNk_chip (s : State) (f : NorrakSt → NorrakSt) : (modNk s f).chip = s.chip := rfl
@[simp] theorem modNk_host (s : State) (f : NorrakSt → NorrakSt) : (modNk s f).host = s.host := rfl
@[simp] theorem modNk_svc (s : State) (f : NorrakSt → NorrakSt) : (modNk s f).svc = s.svc := rfl
@[simp] theorem modNk_fault (s : State) (f : NorrakSt → NorrakSt) : (modNk s f).fault = s.fault := rfl
@[simp] theorem modNk_canopy (s : State) (f : NorrakSt → NorrakSt) : (modNk s f).canopy = s.canopy := rfl
@[simp] theorem modNk_glade (s : State) (f : NorrakSt → NorrakSt) : (modNk s f).glade = s.glade := rfl
@[simp] theorem modNk_axis (s : State) (f : NorrakSt → NorrakSt) : (modNk s f).axis = s.axis := rfl
@[simp] theorem modNk_pins (s : State) (f : NorrakSt → NorrakSt) : (modNk s f).pins = s.pins := rfl
@[simp] theorem modNk_link (s : State) (f : NorrakSt → NorrakSt) : (modNk s f).link = s.link := rfl
@[simp] theorem modNk_power (s : State) (f : NorrakSt → NorrakSt) : (modNk s f).power = s.power := rfl
@[simp] theorem modNk_can (s : State) (f : NorrakSt → NorrakSt) : (modNk s f).can = s.can := rfl
@[simp] theorem modNk_quire (s : State) (f : NorrakSt → NorrakSt) : (modNk s f).quire = s.quire := rfl
@[simp] theorem modNk_check (s : State) (f : NorrakSt → NorrakSt) : (modNk s f).check = s.check := rfl
@[simp] theorem modNk_firebreak (s : State) (f : NorrakSt → NorrakSt) : (modNk s f).firebreak = s.firebreak := rfl
@[simp] theorem modNk_tally (s : State) (f : NorrakSt → NorrakSt) : (modNk s f).tally = s.tally := rfl
@[simp] theorem modNk_life (s : State) (f : NorrakSt → NorrakSt) : (modNk s f).life = s.life := rfl

@[simp] theorem modNkLink_pending (s : State) (l : Fin 2) (f : NkLink → NkLink) : (modNkLink s l f).pending = s.pending := rfl
@[simp] theorem modNkLink_out (s : State) (l : Fin 2) (f : NkLink → NkLink) : (modNkLink s l f).out = s.out := rfl
@[simp] theorem modNkLink_free (s : State) (l : Fin 2) (f : NkLink → NkLink) : (modNkLink s l f).free = s.free := rfl
@[simp] theorem modNkLink_regs (s : State) (l : Fin 2) (f : NkLink → NkLink) : (modNkLink s l f).regs = s.regs := rfl
@[simp] theorem modNkLink_seqs (s : State) (l : Fin 2) (f : NkLink → NkLink) : (modNkLink s l f).seqs = s.seqs := rfl
@[simp] theorem modNkLink_latches (s : State) (l : Fin 2) (f : NkLink → NkLink) : (modNkLink s l f).latches = s.latches := rfl
@[simp] theorem modNkLink_time (s : State) (l : Fin 2) (f : NkLink → NkLink) : (modNkLink s l f).time = s.time := rfl
@[simp] theorem modNkLink_chip (s : State) (l : Fin 2) (f : NkLink → NkLink) : (modNkLink s l f).chip = s.chip := rfl
@[simp] theorem modNkLink_host (s : State) (l : Fin 2) (f : NkLink → NkLink) : (modNkLink s l f).host = s.host := rfl
@[simp] theorem modNkLink_svc (s : State) (l : Fin 2) (f : NkLink → NkLink) : (modNkLink s l f).svc = s.svc := rfl
@[simp] theorem modNkLink_fault (s : State) (l : Fin 2) (f : NkLink → NkLink) : (modNkLink s l f).fault = s.fault := rfl
@[simp] theorem modNkLink_canopy (s : State) (l : Fin 2) (f : NkLink → NkLink) : (modNkLink s l f).canopy = s.canopy := rfl
@[simp] theorem modNkLink_glade (s : State) (l : Fin 2) (f : NkLink → NkLink) : (modNkLink s l f).glade = s.glade := rfl
@[simp] theorem modNkLink_axis (s : State) (l : Fin 2) (f : NkLink → NkLink) : (modNkLink s l f).axis = s.axis := rfl
@[simp] theorem modNkLink_pins (s : State) (l : Fin 2) (f : NkLink → NkLink) : (modNkLink s l f).pins = s.pins := rfl
@[simp] theorem modNkLink_link (s : State) (l : Fin 2) (f : NkLink → NkLink) : (modNkLink s l f).link = s.link := rfl
@[simp] theorem modNkLink_power (s : State) (l : Fin 2) (f : NkLink → NkLink) : (modNkLink s l f).power = s.power := rfl
@[simp] theorem modNkLink_can (s : State) (l : Fin 2) (f : NkLink → NkLink) : (modNkLink s l f).can = s.can := rfl
@[simp] theorem modNkLink_quire (s : State) (l : Fin 2) (f : NkLink → NkLink) : (modNkLink s l f).quire = s.quire := rfl
@[simp] theorem modNkLink_check (s : State) (l : Fin 2) (f : NkLink → NkLink) : (modNkLink s l f).check = s.check := rfl
@[simp] theorem modNkLink_firebreak (s : State) (l : Fin 2) (f : NkLink → NkLink) : (modNkLink s l f).firebreak = s.firebreak := rfl
@[simp] theorem modNkLink_tally (s : State) (l : Fin 2) (f : NkLink → NkLink) : (modNkLink s l f).tally = s.tally := rfl
@[simp] theorem modNkLink_life (s : State) (l : Fin 2) (f : NkLink → NkLink) : (modNkLink s l f).life = s.life := rfl

@[simp] theorem modVc_pending (s : State) (l : Fin 2) (v : Fin 4) (f : NkVc → NkVc) : (modVc s l v f).pending = s.pending := rfl
@[simp] theorem modVc_out (s : State) (l : Fin 2) (v : Fin 4) (f : NkVc → NkVc) : (modVc s l v f).out = s.out := rfl
@[simp] theorem modVc_free (s : State) (l : Fin 2) (v : Fin 4) (f : NkVc → NkVc) : (modVc s l v f).free = s.free := rfl
@[simp] theorem modVc_regs (s : State) (l : Fin 2) (v : Fin 4) (f : NkVc → NkVc) : (modVc s l v f).regs = s.regs := rfl
@[simp] theorem modVc_seqs (s : State) (l : Fin 2) (v : Fin 4) (f : NkVc → NkVc) : (modVc s l v f).seqs = s.seqs := rfl
@[simp] theorem modVc_latches (s : State) (l : Fin 2) (v : Fin 4) (f : NkVc → NkVc) : (modVc s l v f).latches = s.latches := rfl
@[simp] theorem modVc_time (s : State) (l : Fin 2) (v : Fin 4) (f : NkVc → NkVc) : (modVc s l v f).time = s.time := rfl
@[simp] theorem modVc_chip (s : State) (l : Fin 2) (v : Fin 4) (f : NkVc → NkVc) : (modVc s l v f).chip = s.chip := rfl
@[simp] theorem modVc_host (s : State) (l : Fin 2) (v : Fin 4) (f : NkVc → NkVc) : (modVc s l v f).host = s.host := rfl
@[simp] theorem modVc_svc (s : State) (l : Fin 2) (v : Fin 4) (f : NkVc → NkVc) : (modVc s l v f).svc = s.svc := rfl
@[simp] theorem modVc_fault (s : State) (l : Fin 2) (v : Fin 4) (f : NkVc → NkVc) : (modVc s l v f).fault = s.fault := rfl
@[simp] theorem modVc_canopy (s : State) (l : Fin 2) (v : Fin 4) (f : NkVc → NkVc) : (modVc s l v f).canopy = s.canopy := rfl
@[simp] theorem modVc_glade (s : State) (l : Fin 2) (v : Fin 4) (f : NkVc → NkVc) : (modVc s l v f).glade = s.glade := rfl
@[simp] theorem modVc_axis (s : State) (l : Fin 2) (v : Fin 4) (f : NkVc → NkVc) : (modVc s l v f).axis = s.axis := rfl
@[simp] theorem modVc_pins (s : State) (l : Fin 2) (v : Fin 4) (f : NkVc → NkVc) : (modVc s l v f).pins = s.pins := rfl
@[simp] theorem modVc_link (s : State) (l : Fin 2) (v : Fin 4) (f : NkVc → NkVc) : (modVc s l v f).link = s.link := rfl
@[simp] theorem modVc_power (s : State) (l : Fin 2) (v : Fin 4) (f : NkVc → NkVc) : (modVc s l v f).power = s.power := rfl
@[simp] theorem modVc_can (s : State) (l : Fin 2) (v : Fin 4) (f : NkVc → NkVc) : (modVc s l v f).can = s.can := rfl
@[simp] theorem modVc_quire (s : State) (l : Fin 2) (v : Fin 4) (f : NkVc → NkVc) : (modVc s l v f).quire = s.quire := rfl
@[simp] theorem modVc_check (s : State) (l : Fin 2) (v : Fin 4) (f : NkVc → NkVc) : (modVc s l v f).check = s.check := rfl
@[simp] theorem modVc_firebreak (s : State) (l : Fin 2) (v : Fin 4) (f : NkVc → NkVc) : (modVc s l v f).firebreak = s.firebreak := rfl
@[simp] theorem modVc_tally (s : State) (l : Fin 2) (v : Fin 4) (f : NkVc → NkVc) : (modVc s l v f).tally = s.tally := rfl
@[simp] theorem modVc_life (s : State) (l : Fin 2) (v : Fin 4) (f : NkVc → NkVc) : (modVc s l v f).life = s.life := rfl

@[simp] theorem modCan_pending (s : State) (c : Fin 2) (f : Can → Can) : (modCan s c f).pending = s.pending := rfl
@[simp] theorem modCan_out (s : State) (c : Fin 2) (f : Can → Can) : (modCan s c f).out = s.out := rfl
@[simp] theorem modCan_free (s : State) (c : Fin 2) (f : Can → Can) : (modCan s c f).free = s.free := rfl
@[simp] theorem modCan_regs (s : State) (c : Fin 2) (f : Can → Can) : (modCan s c f).regs = s.regs := rfl
@[simp] theorem modCan_seqs (s : State) (c : Fin 2) (f : Can → Can) : (modCan s c f).seqs = s.seqs := rfl
@[simp] theorem modCan_latches (s : State) (c : Fin 2) (f : Can → Can) : (modCan s c f).latches = s.latches := rfl
@[simp] theorem modCan_time (s : State) (c : Fin 2) (f : Can → Can) : (modCan s c f).time = s.time := rfl
@[simp] theorem modCan_chip (s : State) (c : Fin 2) (f : Can → Can) : (modCan s c f).chip = s.chip := rfl
@[simp] theorem modCan_host (s : State) (c : Fin 2) (f : Can → Can) : (modCan s c f).host = s.host := rfl
@[simp] theorem modCan_svc (s : State) (c : Fin 2) (f : Can → Can) : (modCan s c f).svc = s.svc := rfl
@[simp] theorem modCan_fault (s : State) (c : Fin 2) (f : Can → Can) : (modCan s c f).fault = s.fault := rfl
@[simp] theorem modCan_canopy (s : State) (c : Fin 2) (f : Can → Can) : (modCan s c f).canopy = s.canopy := rfl
@[simp] theorem modCan_glade (s : State) (c : Fin 2) (f : Can → Can) : (modCan s c f).glade = s.glade := rfl
@[simp] theorem modCan_axis (s : State) (c : Fin 2) (f : Can → Can) : (modCan s c f).axis = s.axis := rfl
@[simp] theorem modCan_pins (s : State) (c : Fin 2) (f : Can → Can) : (modCan s c f).pins = s.pins := rfl
@[simp] theorem modCan_link (s : State) (c : Fin 2) (f : Can → Can) : (modCan s c f).link = s.link := rfl
@[simp] theorem modCan_power (s : State) (c : Fin 2) (f : Can → Can) : (modCan s c f).power = s.power := rfl
@[simp] theorem modCan_norrak (s : State) (c : Fin 2) (f : Can → Can) : (modCan s c f).norrak = s.norrak := rfl
@[simp] theorem modCan_quire (s : State) (c : Fin 2) (f : Can → Can) : (modCan s c f).quire = s.quire := rfl
@[simp] theorem modCan_check (s : State) (c : Fin 2) (f : Can → Can) : (modCan s c f).check = s.check := rfl
@[simp] theorem modCan_firebreak (s : State) (c : Fin 2) (f : Can → Can) : (modCan s c f).firebreak = s.firebreak := rfl
@[simp] theorem modCan_tally (s : State) (c : Fin 2) (f : Can → Can) : (modCan s c f).tally = s.tally := rfl
@[simp] theorem modCan_life (s : State) (c : Fin 2) (f : Can → Can) : (modCan s c f).life = s.life := rfl

@[simp] theorem modQuire_pending (s : State) (f : QuireSt → QuireSt) : (modQuire s f).pending = s.pending := rfl
@[simp] theorem modQuire_out (s : State) (f : QuireSt → QuireSt) : (modQuire s f).out = s.out := rfl
@[simp] theorem modQuire_free (s : State) (f : QuireSt → QuireSt) : (modQuire s f).free = s.free := rfl
@[simp] theorem modQuire_regs (s : State) (f : QuireSt → QuireSt) : (modQuire s f).regs = s.regs := rfl
@[simp] theorem modQuire_seqs (s : State) (f : QuireSt → QuireSt) : (modQuire s f).seqs = s.seqs := rfl
@[simp] theorem modQuire_latches (s : State) (f : QuireSt → QuireSt) : (modQuire s f).latches = s.latches := rfl
@[simp] theorem modQuire_time (s : State) (f : QuireSt → QuireSt) : (modQuire s f).time = s.time := rfl
@[simp] theorem modQuire_chip (s : State) (f : QuireSt → QuireSt) : (modQuire s f).chip = s.chip := rfl
@[simp] theorem modQuire_host (s : State) (f : QuireSt → QuireSt) : (modQuire s f).host = s.host := rfl
@[simp] theorem modQuire_svc (s : State) (f : QuireSt → QuireSt) : (modQuire s f).svc = s.svc := rfl
@[simp] theorem modQuire_fault (s : State) (f : QuireSt → QuireSt) : (modQuire s f).fault = s.fault := rfl
@[simp] theorem modQuire_canopy (s : State) (f : QuireSt → QuireSt) : (modQuire s f).canopy = s.canopy := rfl
@[simp] theorem modQuire_glade (s : State) (f : QuireSt → QuireSt) : (modQuire s f).glade = s.glade := rfl
@[simp] theorem modQuire_axis (s : State) (f : QuireSt → QuireSt) : (modQuire s f).axis = s.axis := rfl
@[simp] theorem modQuire_pins (s : State) (f : QuireSt → QuireSt) : (modQuire s f).pins = s.pins := rfl
@[simp] theorem modQuire_link (s : State) (f : QuireSt → QuireSt) : (modQuire s f).link = s.link := rfl
@[simp] theorem modQuire_power (s : State) (f : QuireSt → QuireSt) : (modQuire s f).power = s.power := rfl
@[simp] theorem modQuire_norrak (s : State) (f : QuireSt → QuireSt) : (modQuire s f).norrak = s.norrak := rfl
@[simp] theorem modQuire_can (s : State) (f : QuireSt → QuireSt) : (modQuire s f).can = s.can := rfl
@[simp] theorem modQuire_check (s : State) (f : QuireSt → QuireSt) : (modQuire s f).check = s.check := rfl
@[simp] theorem modQuire_firebreak (s : State) (f : QuireSt → QuireSt) : (modQuire s f).firebreak = s.firebreak := rfl
@[simp] theorem modQuire_tally (s : State) (f : QuireSt → QuireSt) : (modQuire s f).tally = s.tally := rfl
@[simp] theorem modQuire_life (s : State) (f : QuireSt → QuireSt) : (modQuire s f).life = s.life := rfl

@[simp] theorem modCheck_pending (s : State) (u : Fin 8) (f : CheckUnit → CheckUnit) : (modCheck s u f).pending = s.pending := rfl
@[simp] theorem modCheck_out (s : State) (u : Fin 8) (f : CheckUnit → CheckUnit) : (modCheck s u f).out = s.out := rfl
@[simp] theorem modCheck_free (s : State) (u : Fin 8) (f : CheckUnit → CheckUnit) : (modCheck s u f).free = s.free := rfl
@[simp] theorem modCheck_regs (s : State) (u : Fin 8) (f : CheckUnit → CheckUnit) : (modCheck s u f).regs = s.regs := rfl
@[simp] theorem modCheck_seqs (s : State) (u : Fin 8) (f : CheckUnit → CheckUnit) : (modCheck s u f).seqs = s.seqs := rfl
@[simp] theorem modCheck_latches (s : State) (u : Fin 8) (f : CheckUnit → CheckUnit) : (modCheck s u f).latches = s.latches := rfl
@[simp] theorem modCheck_time (s : State) (u : Fin 8) (f : CheckUnit → CheckUnit) : (modCheck s u f).time = s.time := rfl
@[simp] theorem modCheck_chip (s : State) (u : Fin 8) (f : CheckUnit → CheckUnit) : (modCheck s u f).chip = s.chip := rfl
@[simp] theorem modCheck_host (s : State) (u : Fin 8) (f : CheckUnit → CheckUnit) : (modCheck s u f).host = s.host := rfl
@[simp] theorem modCheck_svc (s : State) (u : Fin 8) (f : CheckUnit → CheckUnit) : (modCheck s u f).svc = s.svc := rfl
@[simp] theorem modCheck_fault (s : State) (u : Fin 8) (f : CheckUnit → CheckUnit) : (modCheck s u f).fault = s.fault := rfl
@[simp] theorem modCheck_canopy (s : State) (u : Fin 8) (f : CheckUnit → CheckUnit) : (modCheck s u f).canopy = s.canopy := rfl
@[simp] theorem modCheck_glade (s : State) (u : Fin 8) (f : CheckUnit → CheckUnit) : (modCheck s u f).glade = s.glade := rfl
@[simp] theorem modCheck_axis (s : State) (u : Fin 8) (f : CheckUnit → CheckUnit) : (modCheck s u f).axis = s.axis := rfl
@[simp] theorem modCheck_pins (s : State) (u : Fin 8) (f : CheckUnit → CheckUnit) : (modCheck s u f).pins = s.pins := rfl
@[simp] theorem modCheck_link (s : State) (u : Fin 8) (f : CheckUnit → CheckUnit) : (modCheck s u f).link = s.link := rfl
@[simp] theorem modCheck_power (s : State) (u : Fin 8) (f : CheckUnit → CheckUnit) : (modCheck s u f).power = s.power := rfl
@[simp] theorem modCheck_norrak (s : State) (u : Fin 8) (f : CheckUnit → CheckUnit) : (modCheck s u f).norrak = s.norrak := rfl
@[simp] theorem modCheck_can (s : State) (u : Fin 8) (f : CheckUnit → CheckUnit) : (modCheck s u f).can = s.can := rfl
@[simp] theorem modCheck_quire (s : State) (u : Fin 8) (f : CheckUnit → CheckUnit) : (modCheck s u f).quire = s.quire := rfl
@[simp] theorem modCheck_firebreak (s : State) (u : Fin 8) (f : CheckUnit → CheckUnit) : (modCheck s u f).firebreak = s.firebreak := rfl
@[simp] theorem modCheck_tally (s : State) (u : Fin 8) (f : CheckUnit → CheckUnit) : (modCheck s u f).tally = s.tally := rfl
@[simp] theorem modCheck_life (s : State) (u : Fin 8) (f : CheckUnit → CheckUnit) : (modCheck s u f).life = s.life := rfl

@[simp] theorem modFb_pending (s : State) (f : FirebreakSt → FirebreakSt) : (modFb s f).pending = s.pending := rfl
@[simp] theorem modFb_out (s : State) (f : FirebreakSt → FirebreakSt) : (modFb s f).out = s.out := rfl
@[simp] theorem modFb_free (s : State) (f : FirebreakSt → FirebreakSt) : (modFb s f).free = s.free := rfl
@[simp] theorem modFb_regs (s : State) (f : FirebreakSt → FirebreakSt) : (modFb s f).regs = s.regs := rfl
@[simp] theorem modFb_seqs (s : State) (f : FirebreakSt → FirebreakSt) : (modFb s f).seqs = s.seqs := rfl
@[simp] theorem modFb_latches (s : State) (f : FirebreakSt → FirebreakSt) : (modFb s f).latches = s.latches := rfl
@[simp] theorem modFb_time (s : State) (f : FirebreakSt → FirebreakSt) : (modFb s f).time = s.time := rfl
@[simp] theorem modFb_chip (s : State) (f : FirebreakSt → FirebreakSt) : (modFb s f).chip = s.chip := rfl
@[simp] theorem modFb_host (s : State) (f : FirebreakSt → FirebreakSt) : (modFb s f).host = s.host := rfl
@[simp] theorem modFb_svc (s : State) (f : FirebreakSt → FirebreakSt) : (modFb s f).svc = s.svc := rfl
@[simp] theorem modFb_fault (s : State) (f : FirebreakSt → FirebreakSt) : (modFb s f).fault = s.fault := rfl
@[simp] theorem modFb_canopy (s : State) (f : FirebreakSt → FirebreakSt) : (modFb s f).canopy = s.canopy := rfl
@[simp] theorem modFb_glade (s : State) (f : FirebreakSt → FirebreakSt) : (modFb s f).glade = s.glade := rfl
@[simp] theorem modFb_axis (s : State) (f : FirebreakSt → FirebreakSt) : (modFb s f).axis = s.axis := rfl
@[simp] theorem modFb_pins (s : State) (f : FirebreakSt → FirebreakSt) : (modFb s f).pins = s.pins := rfl
@[simp] theorem modFb_link (s : State) (f : FirebreakSt → FirebreakSt) : (modFb s f).link = s.link := rfl
@[simp] theorem modFb_power (s : State) (f : FirebreakSt → FirebreakSt) : (modFb s f).power = s.power := rfl
@[simp] theorem modFb_norrak (s : State) (f : FirebreakSt → FirebreakSt) : (modFb s f).norrak = s.norrak := rfl
@[simp] theorem modFb_can (s : State) (f : FirebreakSt → FirebreakSt) : (modFb s f).can = s.can := rfl
@[simp] theorem modFb_quire (s : State) (f : FirebreakSt → FirebreakSt) : (modFb s f).quire = s.quire := rfl
@[simp] theorem modFb_check (s : State) (f : FirebreakSt → FirebreakSt) : (modFb s f).check = s.check := rfl
@[simp] theorem modFb_tally (s : State) (f : FirebreakSt → FirebreakSt) : (modFb s f).tally = s.tally := rfl
@[simp] theorem modFb_life (s : State) (f : FirebreakSt → FirebreakSt) : (modFb s f).life = s.life := rfl

@[simp] theorem modFbGroup_pending (s : State) (g : Fin 8) (f : FbGroup → FbGroup) : (modFbGroup s g f).pending = s.pending := rfl
@[simp] theorem modFbGroup_out (s : State) (g : Fin 8) (f : FbGroup → FbGroup) : (modFbGroup s g f).out = s.out := rfl
@[simp] theorem modFbGroup_free (s : State) (g : Fin 8) (f : FbGroup → FbGroup) : (modFbGroup s g f).free = s.free := rfl
@[simp] theorem modFbGroup_regs (s : State) (g : Fin 8) (f : FbGroup → FbGroup) : (modFbGroup s g f).regs = s.regs := rfl
@[simp] theorem modFbGroup_seqs (s : State) (g : Fin 8) (f : FbGroup → FbGroup) : (modFbGroup s g f).seqs = s.seqs := rfl
@[simp] theorem modFbGroup_latches (s : State) (g : Fin 8) (f : FbGroup → FbGroup) : (modFbGroup s g f).latches = s.latches := rfl
@[simp] theorem modFbGroup_time (s : State) (g : Fin 8) (f : FbGroup → FbGroup) : (modFbGroup s g f).time = s.time := rfl
@[simp] theorem modFbGroup_chip (s : State) (g : Fin 8) (f : FbGroup → FbGroup) : (modFbGroup s g f).chip = s.chip := rfl
@[simp] theorem modFbGroup_host (s : State) (g : Fin 8) (f : FbGroup → FbGroup) : (modFbGroup s g f).host = s.host := rfl
@[simp] theorem modFbGroup_svc (s : State) (g : Fin 8) (f : FbGroup → FbGroup) : (modFbGroup s g f).svc = s.svc := rfl
@[simp] theorem modFbGroup_fault (s : State) (g : Fin 8) (f : FbGroup → FbGroup) : (modFbGroup s g f).fault = s.fault := rfl
@[simp] theorem modFbGroup_canopy (s : State) (g : Fin 8) (f : FbGroup → FbGroup) : (modFbGroup s g f).canopy = s.canopy := rfl
@[simp] theorem modFbGroup_glade (s : State) (g : Fin 8) (f : FbGroup → FbGroup) : (modFbGroup s g f).glade = s.glade := rfl
@[simp] theorem modFbGroup_axis (s : State) (g : Fin 8) (f : FbGroup → FbGroup) : (modFbGroup s g f).axis = s.axis := rfl
@[simp] theorem modFbGroup_pins (s : State) (g : Fin 8) (f : FbGroup → FbGroup) : (modFbGroup s g f).pins = s.pins := rfl
@[simp] theorem modFbGroup_link (s : State) (g : Fin 8) (f : FbGroup → FbGroup) : (modFbGroup s g f).link = s.link := rfl
@[simp] theorem modFbGroup_power (s : State) (g : Fin 8) (f : FbGroup → FbGroup) : (modFbGroup s g f).power = s.power := rfl
@[simp] theorem modFbGroup_norrak (s : State) (g : Fin 8) (f : FbGroup → FbGroup) : (modFbGroup s g f).norrak = s.norrak := rfl
@[simp] theorem modFbGroup_can (s : State) (g : Fin 8) (f : FbGroup → FbGroup) : (modFbGroup s g f).can = s.can := rfl
@[simp] theorem modFbGroup_quire (s : State) (g : Fin 8) (f : FbGroup → FbGroup) : (modFbGroup s g f).quire = s.quire := rfl
@[simp] theorem modFbGroup_check (s : State) (g : Fin 8) (f : FbGroup → FbGroup) : (modFbGroup s g f).check = s.check := rfl
@[simp] theorem modFbGroup_tally (s : State) (g : Fin 8) (f : FbGroup → FbGroup) : (modFbGroup s g f).tally = s.tally := rfl
@[simp] theorem modFbGroup_life (s : State) (g : Fin 8) (f : FbGroup → FbGroup) : (modFbGroup s g f).life = s.life := rfl

@[simp] theorem modSinCh_pending (s : State) (ch : Fin 4) (f : SinCh → SinCh) : (modSinCh s ch f).pending = s.pending := rfl
@[simp] theorem modSinCh_out (s : State) (ch : Fin 4) (f : SinCh → SinCh) : (modSinCh s ch f).out = s.out := rfl
@[simp] theorem modSinCh_free (s : State) (ch : Fin 4) (f : SinCh → SinCh) : (modSinCh s ch f).free = s.free := rfl
@[simp] theorem modSinCh_regs (s : State) (ch : Fin 4) (f : SinCh → SinCh) : (modSinCh s ch f).regs = s.regs := rfl
@[simp] theorem modSinCh_seqs (s : State) (ch : Fin 4) (f : SinCh → SinCh) : (modSinCh s ch f).seqs = s.seqs := rfl
@[simp] theorem modSinCh_latches (s : State) (ch : Fin 4) (f : SinCh → SinCh) : (modSinCh s ch f).latches = s.latches := rfl
@[simp] theorem modSinCh_time (s : State) (ch : Fin 4) (f : SinCh → SinCh) : (modSinCh s ch f).time = s.time := rfl
@[simp] theorem modSinCh_chip (s : State) (ch : Fin 4) (f : SinCh → SinCh) : (modSinCh s ch f).chip = s.chip := rfl
@[simp] theorem modSinCh_host (s : State) (ch : Fin 4) (f : SinCh → SinCh) : (modSinCh s ch f).host = s.host := rfl
@[simp] theorem modSinCh_svc (s : State) (ch : Fin 4) (f : SinCh → SinCh) : (modSinCh s ch f).svc = s.svc := rfl
@[simp] theorem modSinCh_fault (s : State) (ch : Fin 4) (f : SinCh → SinCh) : (modSinCh s ch f).fault = s.fault := rfl
@[simp] theorem modSinCh_canopy (s : State) (ch : Fin 4) (f : SinCh → SinCh) : (modSinCh s ch f).canopy = s.canopy := rfl
@[simp] theorem modSinCh_glade (s : State) (ch : Fin 4) (f : SinCh → SinCh) : (modSinCh s ch f).glade = s.glade := rfl
@[simp] theorem modSinCh_axis (s : State) (ch : Fin 4) (f : SinCh → SinCh) : (modSinCh s ch f).axis = s.axis := rfl
@[simp] theorem modSinCh_pins (s : State) (ch : Fin 4) (f : SinCh → SinCh) : (modSinCh s ch f).pins = s.pins := rfl
@[simp] theorem modSinCh_link (s : State) (ch : Fin 4) (f : SinCh → SinCh) : (modSinCh s ch f).link = s.link := rfl
@[simp] theorem modSinCh_power (s : State) (ch : Fin 4) (f : SinCh → SinCh) : (modSinCh s ch f).power = s.power := rfl
@[simp] theorem modSinCh_norrak (s : State) (ch : Fin 4) (f : SinCh → SinCh) : (modSinCh s ch f).norrak = s.norrak := rfl
@[simp] theorem modSinCh_can (s : State) (ch : Fin 4) (f : SinCh → SinCh) : (modSinCh s ch f).can = s.can := rfl
@[simp] theorem modSinCh_quire (s : State) (ch : Fin 4) (f : SinCh → SinCh) : (modSinCh s ch f).quire = s.quire := rfl
@[simp] theorem modSinCh_check (s : State) (ch : Fin 4) (f : SinCh → SinCh) : (modSinCh s ch f).check = s.check := rfl
@[simp] theorem modSinCh_tally (s : State) (ch : Fin 4) (f : SinCh → SinCh) : (modSinCh s ch f).tally = s.tally := rfl
@[simp] theorem modSinCh_life (s : State) (ch : Fin 4) (f : SinCh → SinCh) : (modSinCh s ch f).life = s.life := rfl

@[simp] theorem modTallies_pending (s : State) (f : TallySt → TallySt) : (modTallies s f).pending = s.pending := rfl
@[simp] theorem modTallies_out (s : State) (f : TallySt → TallySt) : (modTallies s f).out = s.out := rfl
@[simp] theorem modTallies_free (s : State) (f : TallySt → TallySt) : (modTallies s f).free = s.free := rfl
@[simp] theorem modTallies_regs (s : State) (f : TallySt → TallySt) : (modTallies s f).regs = s.regs := rfl
@[simp] theorem modTallies_seqs (s : State) (f : TallySt → TallySt) : (modTallies s f).seqs = s.seqs := rfl
@[simp] theorem modTallies_latches (s : State) (f : TallySt → TallySt) : (modTallies s f).latches = s.latches := rfl
@[simp] theorem modTallies_time (s : State) (f : TallySt → TallySt) : (modTallies s f).time = s.time := rfl
@[simp] theorem modTallies_chip (s : State) (f : TallySt → TallySt) : (modTallies s f).chip = s.chip := rfl
@[simp] theorem modTallies_host (s : State) (f : TallySt → TallySt) : (modTallies s f).host = s.host := rfl
@[simp] theorem modTallies_svc (s : State) (f : TallySt → TallySt) : (modTallies s f).svc = s.svc := rfl
@[simp] theorem modTallies_fault (s : State) (f : TallySt → TallySt) : (modTallies s f).fault = s.fault := rfl
@[simp] theorem modTallies_canopy (s : State) (f : TallySt → TallySt) : (modTallies s f).canopy = s.canopy := rfl
@[simp] theorem modTallies_glade (s : State) (f : TallySt → TallySt) : (modTallies s f).glade = s.glade := rfl
@[simp] theorem modTallies_axis (s : State) (f : TallySt → TallySt) : (modTallies s f).axis = s.axis := rfl
@[simp] theorem modTallies_pins (s : State) (f : TallySt → TallySt) : (modTallies s f).pins = s.pins := rfl
@[simp] theorem modTallies_link (s : State) (f : TallySt → TallySt) : (modTallies s f).link = s.link := rfl
@[simp] theorem modTallies_power (s : State) (f : TallySt → TallySt) : (modTallies s f).power = s.power := rfl
@[simp] theorem modTallies_norrak (s : State) (f : TallySt → TallySt) : (modTallies s f).norrak = s.norrak := rfl
@[simp] theorem modTallies_can (s : State) (f : TallySt → TallySt) : (modTallies s f).can = s.can := rfl
@[simp] theorem modTallies_quire (s : State) (f : TallySt → TallySt) : (modTallies s f).quire = s.quire := rfl
@[simp] theorem modTallies_check (s : State) (f : TallySt → TallySt) : (modTallies s f).check = s.check := rfl
@[simp] theorem modTallies_firebreak (s : State) (f : TallySt → TallySt) : (modTallies s f).firebreak = s.firebreak := rfl
@[simp] theorem modTallies_life (s : State) (f : TallySt → TallySt) : (modTallies s f).life = s.life := rfl

@[simp] theorem setReg_pending (s : State) (o x : Nat) : (setReg s o x).pending = s.pending := rfl
@[simp] theorem setReg_out (s : State) (o x : Nat) : (setReg s o x).out = s.out := rfl
@[simp] theorem setReg_free (s : State) (o x : Nat) : (setReg s o x).free = s.free := rfl
@[simp] theorem setReg_seqs (s : State) (o x : Nat) : (setReg s o x).seqs = s.seqs := rfl
@[simp] theorem setReg_latches (s : State) (o x : Nat) : (setReg s o x).latches = s.latches := rfl
@[simp] theorem setReg_time (s : State) (o x : Nat) : (setReg s o x).time = s.time := rfl
@[simp] theorem setReg_chip (s : State) (o x : Nat) : (setReg s o x).chip = s.chip := rfl
@[simp] theorem setReg_host (s : State) (o x : Nat) : (setReg s o x).host = s.host := rfl
@[simp] theorem setReg_svc (s : State) (o x : Nat) : (setReg s o x).svc = s.svc := rfl
@[simp] theorem setReg_fault (s : State) (o x : Nat) : (setReg s o x).fault = s.fault := rfl
@[simp] theorem setReg_canopy (s : State) (o x : Nat) : (setReg s o x).canopy = s.canopy := rfl
@[simp] theorem setReg_glade (s : State) (o x : Nat) : (setReg s o x).glade = s.glade := rfl
@[simp] theorem setReg_axis (s : State) (o x : Nat) : (setReg s o x).axis = s.axis := rfl
@[simp] theorem setReg_pins (s : State) (o x : Nat) : (setReg s o x).pins = s.pins := rfl
@[simp] theorem setReg_link (s : State) (o x : Nat) : (setReg s o x).link = s.link := rfl
@[simp] theorem setReg_power (s : State) (o x : Nat) : (setReg s o x).power = s.power := rfl
@[simp] theorem setReg_norrak (s : State) (o x : Nat) : (setReg s o x).norrak = s.norrak := rfl
@[simp] theorem setReg_can (s : State) (o x : Nat) : (setReg s o x).can = s.can := rfl
@[simp] theorem setReg_quire (s : State) (o x : Nat) : (setReg s o x).quire = s.quire := rfl
@[simp] theorem setReg_check (s : State) (o x : Nat) : (setReg s o x).check = s.check := rfl
@[simp] theorem setReg_firebreak (s : State) (o x : Nat) : (setReg s o x).firebreak = s.firebreak := rfl
@[simp] theorem setReg_tally (s : State) (o x : Nat) : (setReg s o x).tally = s.tally := rfl
@[simp] theorem setReg_life (s : State) (o x : Nat) : (setReg s o x).life = s.life := rfl

@[simp] theorem writeRw_pending (s : State) (o x : Nat) : (writeRw s o x).pending = s.pending := rfl
@[simp] theorem writeRw_out (s : State) (o x : Nat) : (writeRw s o x).out = s.out := rfl
@[simp] theorem writeRw_free (s : State) (o x : Nat) : (writeRw s o x).free = s.free := rfl
@[simp] theorem writeRw_seqs (s : State) (o x : Nat) : (writeRw s o x).seqs = s.seqs := rfl
@[simp] theorem writeRw_latches (s : State) (o x : Nat) : (writeRw s o x).latches = s.latches := rfl
@[simp] theorem writeRw_time (s : State) (o x : Nat) : (writeRw s o x).time = s.time := rfl
@[simp] theorem writeRw_chip (s : State) (o x : Nat) : (writeRw s o x).chip = s.chip := rfl
@[simp] theorem writeRw_host (s : State) (o x : Nat) : (writeRw s o x).host = s.host := rfl
@[simp] theorem writeRw_svc (s : State) (o x : Nat) : (writeRw s o x).svc = s.svc := rfl
@[simp] theorem writeRw_fault (s : State) (o x : Nat) : (writeRw s o x).fault = s.fault := rfl
@[simp] theorem writeRw_canopy (s : State) (o x : Nat) : (writeRw s o x).canopy = s.canopy := rfl
@[simp] theorem writeRw_glade (s : State) (o x : Nat) : (writeRw s o x).glade = s.glade := rfl
@[simp] theorem writeRw_axis (s : State) (o x : Nat) : (writeRw s o x).axis = s.axis := rfl
@[simp] theorem writeRw_pins (s : State) (o x : Nat) : (writeRw s o x).pins = s.pins := rfl
@[simp] theorem writeRw_link (s : State) (o x : Nat) : (writeRw s o x).link = s.link := rfl
@[simp] theorem writeRw_power (s : State) (o x : Nat) : (writeRw s o x).power = s.power := rfl
@[simp] theorem writeRw_norrak (s : State) (o x : Nat) : (writeRw s o x).norrak = s.norrak := rfl
@[simp] theorem writeRw_can (s : State) (o x : Nat) : (writeRw s o x).can = s.can := rfl
@[simp] theorem writeRw_quire (s : State) (o x : Nat) : (writeRw s o x).quire = s.quire := rfl
@[simp] theorem writeRw_check (s : State) (o x : Nat) : (writeRw s o x).check = s.check := rfl
@[simp] theorem writeRw_firebreak (s : State) (o x : Nat) : (writeRw s o x).firebreak = s.firebreak := rfl
@[simp] theorem writeRw_tally (s : State) (o x : Nat) : (writeRw s o x).tally = s.tally := rfl
@[simp] theorem writeRw_life (s : State) (o x : Nat) : (writeRw s o x).life = s.life := rfl

@[simp] theorem modSlot_same (s : State) (n : Fin 32) (f : Slot → Slot) : (modSlot s n f).axis.slots[n] = f s.axis.slots[n] :=
  upd_same s.axis.slots n f

theorem modSlot_other (s : State) (n m : Fin 32) (f : Slot → Slot) (h : m ≠ n) : (modSlot s n f).axis.slots[m] = s.axis.slots[m] :=
  upd_other s.axis.slots n m f h

@[simp] theorem modGroup_same (s : State) (n : Fin 8) (f : Group → Group) : (modGroup s n f).axis.groups[n] = f s.axis.groups[n] :=
  upd_same s.axis.groups n f

theorem modGroup_other (s : State) (n m : Fin 8) (f : Group → Group) (h : m ≠ n) : (modGroup s n f).axis.groups[m] = s.axis.groups[m] :=
  upd_other s.axis.groups n m f h

@[simp] theorem modPath_same (s : State) (n : Fin 4) (f : PathGroup → PathGroup) : (modPath s n f).axis.paths[n] = f s.axis.paths[n] :=
  upd_same s.axis.paths n f

theorem modPath_other (s : State) (n m : Fin 4) (f : PathGroup → PathGroup) (h : m ≠ n) : (modPath s n f).axis.paths[m] = s.axis.paths[m] :=
  upd_other s.axis.paths n m f h

@[simp] theorem modPort_same (s : State) (n : Fin 3) (f : Port → Port) : (modPort s n f).axis.ports[n] = f s.axis.ports[n] :=
  upd_same s.axis.ports n f

theorem modPort_other (s : State) (n m : Fin 3) (f : Port → Port) (h : m ≠ n) : (modPort s n f).axis.ports[m] = s.axis.ports[m] :=
  upd_other s.axis.ports n m f h

@[simp] theorem modPin_same (s : State) (n : Fin 4) (f : Pin → Pin) : (modPin s n f).pins.pins[n] = f s.pins.pins[n] :=
  upd_same s.pins.pins n f

theorem modPin_other (s : State) (n m : Fin 4) (f : Pin → Pin) (h : m ≠ n) : (modPin s n f).pins.pins[m] = s.pins.pins[m] :=
  upd_other s.pins.pins n m f h

@[simp] theorem modCmp_same (s : State) (n : Fin 16) (f : Compare → Compare) : (modCmp s n f).pins.cmp[n] = f s.pins.cmp[n] :=
  upd_same s.pins.cmp n f

theorem modCmp_other (s : State) (n m : Fin 16) (f : Compare → Compare) (h : m ≠ n) : (modCmp s n f).pins.cmp[m] = s.pins.cmp[m] :=
  upd_other s.pins.cmp n m f h

@[simp] theorem modLat_same (s : State) (n : Fin 16) (f : Latch → Latch) : (modLat s n f).pins.lat[n] = f s.pins.lat[n] :=
  upd_same s.pins.lat n f

theorem modLat_other (s : State) (n m : Fin 16) (f : Latch → Latch) (h : m ≠ n) : (modLat s n f).pins.lat[m] = s.pins.lat[m] :=
  upd_other s.pins.lat n m f h

@[simp] theorem modLtc_same (s : State) (n : Fin 4) (f : Lattice → Lattice) : (modLtc s n f).pins.ltc[n] = f s.pins.ltc[n] :=
  upd_same s.pins.ltc n f

theorem modLtc_other (s : State) (n m : Fin 4) (f : Lattice → Lattice) (h : m ≠ n) : (modLtc s n f).pins.ltc[m] = s.pins.ltc[m] :=
  upd_other s.pins.ltc n m f h

@[simp] theorem modEp_same (s : State) (n : Fin 12) (f : Endpoint → Endpoint) : (modEp s n f).link.eps[n] = f s.link.eps[n] :=
  upd_same s.link.eps n f

theorem modEp_other (s : State) (n m : Fin 12) (f : Endpoint → Endpoint) (h : m ≠ n) : (modEp s n f).link.eps[m] = s.link.eps[m] :=
  upd_other s.link.eps n m f h

@[simp] theorem modLink_same (s : State) (n : Fin 4) (f : Link → Link) : (modLink s n f).link.links[n] = f s.link.links[n] :=
  upd_same s.link.links n f

theorem modLink_other (s : State) (n m : Fin 4) (f : Link → Link) (h : m ≠ n) : (modLink s n f).link.links[m] = s.link.links[m] :=
  upd_other s.link.links n m f h

@[simp] theorem modRec_same (s : State) (n : Fin 8) (f : IdRecord → IdRecord) : (modRec s n f).link.recs[n] = f s.link.recs[n] :=
  upd_same s.link.recs n f

theorem modRec_other (s : State) (n m : Fin 8) (f : IdRecord → IdRecord) (h : m ≠ n) : (modRec s n f).link.recs[m] = s.link.recs[m] :=
  upd_other s.link.recs n m f h

@[simp] theorem modCh_same (s : State) (n : Fin 3) (f : Channel → Channel) : (modCh s n f).power.ch[n] = f s.power.ch[n] :=
  upd_same s.power.ch n f

theorem modCh_other (s : State) (n m : Fin 3) (f : Channel → Channel) (h : m ≠ n) : (modCh s n f).power.ch[m] = s.power.ch[m] :=
  upd_other s.power.ch n m f h

@[simp] theorem modTrip_same (s : State) (n : Fin 2) (f : TripSt → TripSt) : (modTrip s n f).power.trips[n] = f s.power.trips[n] :=
  upd_same s.power.trips n f

theorem modTrip_other (s : State) (n m : Fin 2) (f : TripSt → TripSt) (h : m ≠ n) : (modTrip s n f).power.trips[m] = s.power.trips[m] :=
  upd_other s.power.trips n m f h

@[simp] theorem modLane_same (s : State) (n : Fin 9) (f : Lane → Lane) : (modLane s n f).canopy.lanes[n] = f s.canopy.lanes[n] :=
  upd_same s.canopy.lanes n f

theorem modLane_other (s : State) (n m : Fin 9) (f : Lane → Lane) (h : m ≠ n) : (modLane s n f).canopy.lanes[m] = s.canopy.lanes[m] :=
  upd_other s.canopy.lanes n m f h

@[simp] theorem modNkLink_same (s : State) (n : Fin 2) (f : NkLink → NkLink) : (modNkLink s n f).norrak.links[n] = f s.norrak.links[n] :=
  upd_same s.norrak.links n f

theorem modNkLink_other (s : State) (n m : Fin 2) (f : NkLink → NkLink) (h : m ≠ n) : (modNkLink s n f).norrak.links[m] = s.norrak.links[m] :=
  upd_other s.norrak.links n m f h

@[simp] theorem modFbGroup_same (s : State) (n : Fin 8) (f : FbGroup → FbGroup) : (modFbGroup s n f).firebreak.groups[n] = f s.firebreak.groups[n] :=
  upd_same s.firebreak.groups n f

theorem modFbGroup_other (s : State) (n m : Fin 8) (f : FbGroup → FbGroup) (h : m ≠ n) : (modFbGroup s n f).firebreak.groups[m] = s.firebreak.groups[m] :=
  upd_other s.firebreak.groups n m f h

@[simp] theorem modSinCh_same (s : State) (n : Fin 4) (f : SinCh → SinCh) : (modSinCh s n f).firebreak.chans[n] = f s.firebreak.chans[n] :=
  upd_same s.firebreak.chans n f

theorem modSinCh_other (s : State) (n m : Fin 4) (f : SinCh → SinCh) (h : m ≠ n) : (modSinCh s n f).firebreak.chans[m] = s.firebreak.chans[m] :=
  upd_other s.firebreak.chans n m f h

@[simp] theorem modPlacer_same (s : State) (n : Fin 12) (f : Placer → Placer) : (modPlacer s n f).time.placers[n] = f s.time.placers[n] :=
  upd_same s.time.placers n f

theorem modPlacer_other (s : State) (n m : Fin 12) (f : Placer → Placer) (h : m ≠ n) : (modPlacer s n f).time.placers[m] = s.time.placers[m] :=
  upd_other s.time.placers n m f h

@[simp] theorem modSq_same (s : State) (n : Fin 8) (f : SubRing → SubRing) : (modSq s n f).host.sq[n] = f s.host.sq[n] :=
  upd_same s.host.sq n f

theorem modSq_other (s : State) (n m : Fin 8) (f : SubRing → SubRing) (h : m ≠ n) : (modSq s n f).host.sq[m] = s.host.sq[m] :=
  upd_other s.host.sq n m f h

@[simp] theorem modWr_host (s : State) (r : OutRing) (f : WrRing → WrRing) : (modWr s r f).host = putWr s.host r f := by rw [modWr]
@[simp] theorem modSq_host (s : State) (n : Fin 8) (f : SubRing → SubRing) :
    (modSq s n f).host = { s.host with sq := upd s.host.sq n f } := by rw [modSq]

/-- R114: the upd_seq of a ring's STATUS steps where its fields have changed. -/
theorem modWr_seqs (s : State) (r : OutRing) (f : WrRing → WrRing) :
    (modWr s r f).seqs = seqStep s.seqs (outBase r + 0xC) (wrStatus s r) (wrStatus { s with host := putWr s.host r f } r) := by rw [modWr]
theorem modSq_seqs (s : State) (n : Fin 8) (f : SubRing → SubRing) :
    (modSq s n f).seqs = seqStep s.seqs (sqBase n + 0xC) (sqStatus s n)
      (sqStatus { s with host := { s.host with sq := upd s.host.sq n f } } n) := by rw [modSq]

end Sys2Proof.Machine
end

