-- ==== Sys2Proof/Laws/Run.lean ====
section
/-!
SUPPORT. What the runners around every command's effect answer.
-/

namespace Sys2Proof.Machine

/-- Out of reset, a command answers the close of its effect on the state once the time has passed. -/
theorem run_next (dt : Nat) (s : State) (eff : State → State) (h : s.life.inReset = false) :
    run dt s eff = .next (closing (begin dt s) (eff (begin dt s))) := by
  simp [run, after, h]

/-- Held in reset, only the time passes. -/
theorem run_held (dt : Nat) (s : State) (eff : State → State) (h : s.life.inReset = true) : run dt s eff = .next (begin dt s) := by
  simp [run, after, h]

/-- A lane operation with a defined operand answers as every command does. -/
theorem runOr_next (dt : Nat) (s : State) (bad : State → Bool) (why : Fault) (eff : State → State) (h : s.life.inReset = false)
    (ok : bad (begin dt s) = false) : runOr dt s bad why eff = .next (closing (begin dt s) (eff (begin dt s))) := by
  simp [runOr, after, h, ok]

/-- One with an undefined operand stops. -/
theorem runOr_stops (dt : Nat) (s : State) (bad : State → Bool) (why : Fault) (eff : State → State) (h : s.life.inReset = false)
    (ill : bad (begin dt s) = true) : runOr dt s bad why eff = .fault why := by
  simp [runOr, h, ill]

theorem runReset_next (dt : Nat) (s : State) (eff : State → State) : runReset dt s eff = .next (eff (begin dt s)) := rfl

/-- A command that resets the HOST region answers the close of its effect, without the upd_seq fields of that region. -/
theorem runHost_next (dt : Nat) (s : State) (did : State → Bool) (eff : State → State) (h : s.life.inReset = false)
    (d : did (begin dt s) = true) : runHost dt s did eff = .next (dropHostSeqs (closing (begin dt s) (eff (begin dt s)))) := by
  simp [runHost, afterHostCmd, after, h, d]

/-- A command's effect through an open path is its effect through PCIe. -/
theorem pathGate_open (path : Path) (eff : State → State) (s : State) (h : pathOpen path s = true) : pathGate path eff s = eff s := by
  cases path with
  | pcie => rfl
  | svc =>
    simp only [pathOpen, Bool.or_eq_true, Bool.and_eq_true, Bool.not_eq_true'] at h
    rcases h with h | h
    · exact absurd h (by decide)
    · simp [pathGate, svcGate, h.1, h.2]

/-! ### What the passing of time leaves as it is -/

@[simp] theorem begin_now (dt : Nat) (s : State) : (begin dt s).time.now = s.time.now + dt := rfl
@[simp] theorem begin_out (dt : Nat) (s : State) : (begin dt s).out = [] := rfl
@[simp] theorem begin_pending (dt : Nat) (s : State) : (begin dt s).pending = s.pending := rfl
@[simp] theorem begin_regs (dt : Nat) (s : State) : (begin dt s).regs = s.regs := rfl
@[simp] theorem begin_chip (dt : Nat) (s : State) : (begin dt s).chip = s.chip := rfl
@[simp] theorem begin_host (dt : Nat) (s : State) : (begin dt s).host = s.host := rfl
@[simp] theorem begin_svc (dt : Nat) (s : State) : (begin dt s).svc = s.svc := rfl
@[simp] theorem begin_fault (dt : Nat) (s : State) : (begin dt s).fault = s.fault := rfl
@[simp] theorem begin_canopy (dt : Nat) (s : State) : (begin dt s).canopy = s.canopy := rfl
@[simp] theorem begin_glade (dt : Nat) (s : State) : (begin dt s).glade = s.glade := rfl
@[simp] theorem begin_axis (dt : Nat) (s : State) : (begin dt s).axis = s.axis := rfl
@[simp] theorem begin_pins (dt : Nat) (s : State) : (begin dt s).pins = s.pins := rfl
@[simp] theorem begin_link (dt : Nat) (s : State) : (begin dt s).link = s.link := rfl
@[simp] theorem begin_power (dt : Nat) (s : State) : (begin dt s).power = s.power := rfl
@[simp] theorem begin_norrak (dt : Nat) (s : State) : (begin dt s).norrak = s.norrak := rfl
@[simp] theorem begin_can (dt : Nat) (s : State) : (begin dt s).can = s.can := rfl
@[simp] theorem begin_quire (dt : Nat) (s : State) : (begin dt s).quire = s.quire := rfl
@[simp] theorem begin_check (dt : Nat) (s : State) : (begin dt s).check = s.check := rfl
@[simp] theorem begin_life (dt : Nat) (s : State) : (begin dt s).life = s.life := rfl

/-! ### The upd_seq fields are all that a close touches by itself (R114) -/

@[simp] theorem bumpSeqs_pending (a b : State) : (bumpSeqs a b).pending = b.pending := by rw [bumpSeqs]
@[simp] theorem bumpSeqs_out (a b : State) : (bumpSeqs a b).out = b.out := by rw [bumpSeqs]
@[simp] theorem bumpSeqs_free (a b : State) : (bumpSeqs a b).free = b.free := by rw [bumpSeqs]
@[simp] theorem bumpSeqs_regs (a b : State) : (bumpSeqs a b).regs = b.regs := by rw [bumpSeqs]
@[simp] theorem bumpSeqs_latches (a b : State) : (bumpSeqs a b).latches = b.latches := by rw [bumpSeqs]
@[simp] theorem bumpSeqs_time (a b : State) : (bumpSeqs a b).time = b.time := by rw [bumpSeqs]
@[simp] theorem bumpSeqs_chip (a b : State) : (bumpSeqs a b).chip = b.chip := by rw [bumpSeqs]
@[simp] theorem bumpSeqs_host (a b : State) : (bumpSeqs a b).host = b.host := by rw [bumpSeqs]
@[simp] theorem bumpSeqs_svc (a b : State) : (bumpSeqs a b).svc = b.svc := by rw [bumpSeqs]
@[simp] theorem bumpSeqs_fault (a b : State) : (bumpSeqs a b).fault = b.fault := by rw [bumpSeqs]
@[simp] theorem bumpSeqs_canopy (a b : State) : (bumpSeqs a b).canopy = b.canopy := by rw [bumpSeqs]
@[simp] theorem bumpSeqs_glade (a b : State) : (bumpSeqs a b).glade = b.glade := by rw [bumpSeqs]
@[simp] theorem bumpSeqs_axis (a b : State) : (bumpSeqs a b).axis = b.axis := by rw [bumpSeqs]
@[simp] theorem bumpSeqs_pins (a b : State) : (bumpSeqs a b).pins = b.pins := by rw [bumpSeqs]
@[simp] theorem bumpSeqs_link (a b : State) : (bumpSeqs a b).link = b.link := by rw [bumpSeqs]
@[simp] theorem bumpSeqs_power (a b : State) : (bumpSeqs a b).power = b.power := by rw [bumpSeqs]
@[simp] theorem bumpSeqs_norrak (a b : State) : (bumpSeqs a b).norrak = b.norrak := by rw [bumpSeqs]
@[simp] theorem bumpSeqs_can (a b : State) : (bumpSeqs a b).can = b.can := by rw [bumpSeqs]
@[simp] theorem bumpSeqs_quire (a b : State) : (bumpSeqs a b).quire = b.quire := by rw [bumpSeqs]
@[simp] theorem bumpSeqs_check (a b : State) : (bumpSeqs a b).check = b.check := by rw [bumpSeqs]
@[simp] theorem bumpSeqs_firebreak (a b : State) : (bumpSeqs a b).firebreak = b.firebreak := by rw [bumpSeqs]
@[simp] theorem bumpSeqs_tally (a b : State) : (bumpSeqs a b).tally = b.tally := by rw [bumpSeqs]
@[simp] theorem bumpSeqs_life (a b : State) : (bumpSeqs a b).life = b.life := by rw [bumpSeqs]

/-- R115: select asserted changes nothing but frame_active and upd_seq. -/
@[simp] theorem frameBegin_svc (s : State) : (frameBegin s).svc = { s.svc with frameActive := true } := by rw [frameBegin, bumpSeqs_svc]
@[simp] theorem frameEnd_svc (s : State) : (frameEnd s).svc = { s.svc with frameActive := false } := by rw [frameEnd, bumpSeqs_svc]
@[simp] theorem frameBegin_pending (s : State) : (frameBegin s).pending = s.pending := by rw [frameBegin, bumpSeqs_pending]
@[simp] theorem frameBegin_out (s : State) : (frameBegin s).out = s.out := by rw [frameBegin, bumpSeqs_out]
@[simp] theorem frameBegin_free (s : State) : (frameBegin s).free = s.free := by rw [frameBegin, bumpSeqs_free]
@[simp] theorem frameBegin_regs (s : State) : (frameBegin s).regs = s.regs := by rw [frameBegin, bumpSeqs_regs]
@[simp] theorem frameBegin_latches (s : State) : (frameBegin s).latches = s.latches := by rw [frameBegin, bumpSeqs_latches]
@[simp] theorem frameBegin_time (s : State) : (frameBegin s).time = s.time := by rw [frameBegin, bumpSeqs_time]
@[simp] theorem frameBegin_chip (s : State) : (frameBegin s).chip = s.chip := by rw [frameBegin, bumpSeqs_chip]
@[simp] theorem frameBegin_host (s : State) : (frameBegin s).host = s.host := by rw [frameBegin, bumpSeqs_host]
@[simp] theorem frameBegin_fault (s : State) : (frameBegin s).fault = s.fault := by rw [frameBegin, bumpSeqs_fault]
@[simp] theorem frameBegin_canopy (s : State) : (frameBegin s).canopy = s.canopy := by rw [frameBegin, bumpSeqs_canopy]
@[simp] theorem frameBegin_glade (s : State) : (frameBegin s).glade = s.glade := by rw [frameBegin, bumpSeqs_glade]
@[simp] theorem frameBegin_axis (s : State) : (frameBegin s).axis = s.axis := by rw [frameBegin, bumpSeqs_axis]
@[simp] theorem frameBegin_pins (s : State) : (frameBegin s).pins = s.pins := by rw [frameBegin, bumpSeqs_pins]
@[simp] theorem frameBegin_link (s : State) : (frameBegin s).link = s.link := by rw [frameBegin, bumpSeqs_link]
@[simp] theorem frameBegin_power (s : State) : (frameBegin s).power = s.power := by rw [frameBegin, bumpSeqs_power]
@[simp] theorem frameBegin_norrak (s : State) : (frameBegin s).norrak = s.norrak := by rw [frameBegin, bumpSeqs_norrak]
@[simp] theorem frameBegin_can (s : State) : (frameBegin s).can = s.can := by rw [frameBegin, bumpSeqs_can]
@[simp] theorem frameBegin_quire (s : State) : (frameBegin s).quire = s.quire := by rw [frameBegin, bumpSeqs_quire]
@[simp] theorem frameBegin_check (s : State) : (frameBegin s).check = s.check := by rw [frameBegin, bumpSeqs_check]
@[simp] theorem frameBegin_firebreak (s : State) : (frameBegin s).firebreak = s.firebreak := by rw [frameBegin, bumpSeqs_firebreak]
@[simp] theorem frameBegin_tally (s : State) : (frameBegin s).tally = s.tally := by rw [frameBegin, bumpSeqs_tally]
@[simp] theorem frameBegin_life (s : State) : (frameBegin s).life = s.life := by rw [frameBegin, bumpSeqs_life]
@[simp] theorem frameBegin_svcUp (s : State) : svcUp (frameBegin s) = svcUp s := by simp only [svcUp, frameBegin_svc, frameBegin_chip]

end Sys2Proof.Machine
end

