-- ==== Sys2Proof/Laws/Accept.lean ====
section
/-!
SUPPORT. A descriptor that the service port takes and whose checks pass: it takes effect at once, or waits for its instant.
-/

namespace Sys2Proof.Machine

/-- R383: what serves the requests of a tunnel. -/
def tunnelServer (ident : BitVec 16) (ds : List RawDesc) (s : State) : State := serveTunnel s.norrak.position ident ds s

theorem isImmediate_svcFlight (r : RawDesc) (s : State) (f : InFlight) :
    isImmediate f (svcFlight r s).2 = isImmediate f (svcHeld r s).2 := rfl

theorem accept_svc (r : RawDesc) (s : State) (h : passes r s = true) :
    accept .svc none [r] { s with svc := { s.svc with frames := s.svc.frames + 1, reserved := s.svc.reserved + 1 } }
      = enact tunnelServer false (applyOf (svcHeld r s).2 .svc r) (svcHeld r s).1 (svcHeld r s).2 := by
  simp only [passes, Bool.and_eq_true, Option.isNone_iff_eq_none] at h
  show (match headerCheck .svc r (svcHeld r s).2 with
    | some (st, d) => reject (svcHeld r s).1.id st d (svcHeld r s).2
    | none => match bodyCheck (svcHeld r s).1 (svcHeld r s).2 with
      | some (st, d) => reject (svcHeld r s).1.id st d (svcHeld r s).2
      | none => enact tunnelServer false (applyOf (svcHeld r s).2 .svc r) (svcHeld r s).1 (svcHeld r s).2) = _
  rw [h.1]
  dsimp only
  rw [h.2]

theorem svcSubmit_takes (r : RawDesc) (s : State) (h : svcTakes r s = true) :
    svcSubmitEff r s = drain (accept .svc none [r]
      { s with svc := { s.svc with frames := s.svc.frames + 1, reserved := s.svc.reserved + 1 } }) := by
  simp only [svcTakes, svcUp, Bool.and_eq_true, Bool.not_eq_true', decide_eq_true_eq] at h
  obtain ⟨⟨⟨⟨⟨⟨a, b⟩, c⟩, d⟩, e⟩, g⟩, i⟩ := h
  have e' : ¬ (512 ≤ flightCount s ∨ heldCount s ≠ 0 ∨ 8 ≤ s.svc.cpls.length + s.svc.reserved) := by omega
  unfold svcSubmitEff
  rw [if_neg (by simp [a, b])]
  change (if (!s.chip.fullService || svcRefuses s r) = true then _
    else if 512 ≤ flightCount s ∨ heldCount s ≠ 0 ∨ 8 ≤ s.svc.cpls.length + s.svc.reserved then _ else _) = _
  rw [if_neg (by simp [c, d]), if_neg e']

/-- R82, R89: a checked descriptor that acts at acceptance. -/
theorem svcSubmit_acts (r : RawDesc) (s : State) (h : svcTakes r s = true) (p : passes r s = true)
    (im : isImmediate (svcFlight r s).1 (svcFlight r s).2 = true) (op : (svcFlight r s).1.opcode ≠ 0x70#8) :
    svcSubmitEff r s = drain (opNow tunnelServer (svcFlight r s).1 (svcFlight r s).2) := by
  rw [svcSubmit_takes r s h, accept_svc r s p]
  have im' : isImmediate (svcHeld r s).1 (svcHeld r s).2 = true := im
  have op' : (svcHeld r s).1.opcode.toNat ≠ 0x70 := fun e => op (BitVec.eq_of_toNat_eq e)
  have tap : tapRead (svcHeld r s).1 (svcHeld r s).2 = (svcHeld r s).2 := rfl
  unfold enact
  rw [if_pos im', tap]
  dsimp only
  split
  · rename_i e
    exact absurd e op'
  · rfl

theorem dueOf_svcFlight (r : RawDesc) (s : State) (f : InFlight) (g : Bool) (a : Option Stamp) :
    dueOf f g a (svcFlight r s).2 = dueOf f g a (svcHeld r s).2 := rfl

theorem modFlight_twice (s : State) (id : Nat) (a b : When) :
    modFlight (modFlight s id (fun x => { x with due := a })) id (fun x => { x with due := b }) = modFlight s id (fun x => { x with due := b }) := by
  simp only [modFlight, modHost, List.map_map]
  congr 2
  apply List.map_congr_left
  intro x _
  simp only [Function.comp]
  split_ifs <;> rfl

/-- R60, R89: a checked descriptor that waits for its instant. -/
theorem svcSubmit_waits (r : RawDesc) (s : State) (h : svcTakes r s = true) (p : passes r s = true)
    (im : isImmediate (svcFlight r s).1 (svcFlight r s).2 = false) :
    svcSubmitEff r s = drain (modFlight (svcFlight r s).2 (svcFlight r s).1.id
      (fun x => { x with due := dueOf (svcFlight r s).1 false (applyOf (svcFlight r s).2 .svc r) (svcFlight r s).2 })) := by
  rw [svcSubmit_takes r s h, accept_svc r s p]
  have im' : isImmediate (svcHeld r s).1 (svcHeld r s).2 = false := im
  unfold enact
  rw [if_neg (by simp [im'])]
  rw [svcFlight]
  dsimp only
  rw [modFlight_twice]
  rfl

/-! ### In a frame of its own (R115, R123) -/

theorem svcTakes_up (r : RawDesc) (s : State) (h : svcTakes r s = true) : svcUp s = true := by
  simp only [svcTakes, Bool.and_eq_true] at h
  exact h.1.1.1.1.1

theorem svcDescEff_takes (r : RawDesc) (s : State) (h : svcTakes r (frameBegin s) = true) :
    svcDescEff r s = frameEnd (svcSubmitEff r (frameBegin s)) := by
  rw [svcDescEff, if_pos (by simpa using svcTakes_up r _ h)]

/-- R82, R89, R123: a checked descriptor that acts at acceptance, in its frame. -/
theorem svcDescEff_acts (r : RawDesc) (s b : State) (hb : b = frameBegin s) (h : svcTakes r b = true) (p : passes r b = true)
    (im : isImmediate (svcFlight r b).1 (svcFlight r b).2 = true) (op : (svcFlight r b).1.opcode ≠ 0x70#8) :
    svcDescEff r s = svcDone (opNow tunnelServer (svcFlight r b).1 (svcFlight r b).2) := by
  subst hb
  rw [svcDescEff_takes r s h, svcSubmit_acts r _ h p im op, svcDone]

/-- R60, R89, R123: a checked descriptor that waits for its instant, in its frame. -/
theorem svcDescEff_waits (r : RawDesc) (s b : State) (hb : b = frameBegin s) (h : svcTakes r b = true) (p : passes r b = true)
    (im : isImmediate (svcFlight r b).1 (svcFlight r b).2 = false) :
    svcDescEff r s = svcDone (modFlight (svcFlight r b).2 (svcFlight r b).1.id
      (fun x => { x with due := dueOf (svcFlight r b).1 false (applyOf (svcFlight r b).2 .svc r) (svcFlight r b).2 })) := by
  subst hb
  rw [svcDescEff_takes r s h, svcSubmit_waits r _ h p im, svcDone]

end Sys2Proof.Machine
end

