-- ==== Sys2Proof/Laws/Faults.lean ====
section
/-!
SUPPORT. What the parts of raising a happening change: each leaves everything but the FAULT region, and of that region the causes and
FAULT_N, as they are.
-/

namespace Sys2Proof.Machine

/-- What the parts of raising a happening keep: all but the FAULT region, and of that the causes and FAULT_N. -/
def OnlyFault (s t : State) : Prop :=
  ∃ f : FaultSt, t = { s with fault := f } ∧ f.causes = s.fault.causes ∧ f.chipGroups = s.fault.chipGroups ∧ f.faultLow = s.fault.faultLow

theorem OnlyFault.refl (s : State) : OnlyFault s s := ⟨s.fault, rfl, rfl, rfl, rfl⟩

theorem OnlyFault.trans {s t u : State} (h : OnlyFault s t) (k : OnlyFault t u) : OnlyFault s u := by
  obtain ⟨f, rfl, a, b, c⟩ := h
  obtain ⟨g, rfl, d, e, i⟩ := k
  exact ⟨g, rfl, d.trans a, e.trans b, i.trans c⟩

theorem loseToken_fault (s : State) (k : Nat) : OnlyFault s (loseToken s k) := ⟨_, rfl, rfl, rfl, rfl⟩

theorem displace_fault (s : State) (t : Token) : OnlyFault s (displace t s) := by
  unfold displace
  split
  · exact ⟨_, rfl, rfl, rfl, rfl⟩
  · exact OnlyFault.trans (t := { s with fault := { s.fault with buffer := s.fault.buffer.erase t } }) ⟨_, rfl, rfl, rfl, rfl⟩
      (loseToken_fault _ t.source)

theorem bufferToken_fault (s : State) (t : Token) : OnlyFault s (bufferToken s t) := by
  unfold bufferToken
  split
  · exact ⟨_, rfl, rfl, rfl, rfl⟩
  · split
    · exact loseToken_fault s t.source
    · split
      · rename_i old _
        exact OnlyFault.trans (displace_fault s old) ⟨_, rfl, rfl, rfl, rfl⟩
      · exact loseToken_fault s t.source

theorem genToken_fault (s : State) (k : Nat) (v : Sev) (p : List Byte) (x : Option Stamp) : OnlyFault s (genToken s k v p x) := by
  unfold genToken
  split
  · exact OnlyFault.trans (t := (makeToken s k v p x).1) ⟨_, rfl, rfl, rfl, rfl⟩ (bufferToken_fault _ _)
  · exact OnlyFault.refl s

theorem modLedger_fault (s : State) (L : Fin 7) (f : Ledger → Ledger) : OnlyFault s (modLedger s L f) := ⟨_, rfl, rfl, rfl, rfl⟩

theorem modEntry_fault (s : State) (r : EntryRef) (f : Entry → Entry) : OnlyFault s (modEntry s r f) := by
  unfold modEntry
  split
  · exact ⟨_, rfl, rfl, rfl, rfl⟩
  · exact OnlyFault.refl s

theorem rateLimit_fault (s : State) (a b c : Nat) : OnlyFault s (rateLimit s a b c).1 := by
  unfold rateLimit
  split
  · dsimp only
    split <;> exact ⟨_, rfl, rfl, rfl, rfl⟩
  · exact ⟨_, rfl, rfl, rfl, rfl⟩

end Sys2Proof.Machine
end

