-- ==== Sys2Proof/Laws/Stores.lean ====
section
/-!
SUPPORT. The addressed stores: every write keeps the canonical form, a read of the address written gives the value, and a read
of any other address gives what it gave before.
-/

namespace Sys2Proof.Machine

theorem cellWfFrom_mono (d : Nat → Nat) {m n : Nat} (h : m ≤ n) {cs : List (Nat × Nat)} (w : cellWfFrom d n cs = true) :
    cellWfFrom d m cs = true := by
  cases cs with
  | nil => rfl
  | cons c cs =>
    obtain ⟨k, v⟩ := c
    simp only [cellWfFrom, Bool.and_eq_true, decide_eq_true_eq] at w ⊢
    exact ⟨⟨by omega, w.1.2⟩, w.2⟩

/-- Below the addresses that a store lists, it reads as what is not listed. -/
theorem cellGet_below (d : Nat → Nat) {n a : Nat} (h : a < n) {cs : List (Nat × Nat)} (w : cellWfFrom d n cs = true) :
    cellGet d cs a = d a := by
  cases cs with
  | nil => rfl
  | cons c cs =>
    obtain ⟨k, v⟩ := c
    simp only [cellWfFrom, Bool.and_eq_true, decide_eq_true_eq] at w
    have : a ≠ k := by omega
    have : a < k := by omega
    simp [cellGet, *]

theorem cellPut_wfFrom (d : Nat → Nat) (a x : Nat) : ∀ (cs : List (Nat × Nat)) (n : Nat), n ≤ a → cellWfFrom d n cs = true →
    cellWfFrom d n (cellPut d cs a x) = true
  | [], n, h, _ => by
    unfold cellPut
    split <;> simp_all [cellWfFrom]
  | (k, v) :: cs, n, h, w => by
    simp only [cellWfFrom, Bool.and_eq_true, decide_eq_true_eq] at w
    unfold cellPut
    split_ifs with h1 h2 h3 h4
    · exact cellWfFrom_mono d (by omega) w.2
    · subst h1
      simp only [cellWfFrom, Bool.and_eq_true, decide_eq_true_eq]
      exact ⟨⟨h, h2⟩, w.2⟩
    · simp only [cellWfFrom, Bool.and_eq_true, decide_eq_true_eq]
      exact ⟨⟨w.1.1, w.1.2⟩, w.2⟩
    · simp only [cellWfFrom, Bool.and_eq_true, decide_eq_true_eq]
      exact ⟨⟨h, h4⟩, ⟨by omega, w.1.2⟩, w.2⟩
    · simp only [cellWfFrom, Bool.and_eq_true, decide_eq_true_eq]
      exact ⟨⟨w.1.1, w.1.2⟩, cellPut_wfFrom d a x cs (k + 1) (by omega) w.2⟩

/-- Every write of a store keeps its canonical form. -/
theorem cellPut_wf (d : Nat → Nat) (m : Memory) (a x : Nat) (w : Memory.wf d m = true) : Memory.wf d (cellPut d m a x) = true :=
  cellPut_wfFrom d a x m 0 (Nat.zero_le a) w

theorem cellGet_cellPutFrom (d : Nat → Nat) (a b x : Nat) : ∀ (cs : List (Nat × Nat)) (n : Nat), cellWfFrom d n cs = true →
    cellGet d (cellPut d cs a x) b = if b = a then x else cellGet d cs b
  | [], _, _ => by
    unfold cellPut
    split_ifs with h1 h2 h3
    · subst h2; simp [cellGet, h1]
    · simp [cellGet]
    · simp [cellGet, h3]
    · simp only [cellGet, h3, if_false]
      split_ifs <;> rfl
  | (k, v) :: cs, n, w => by
    simp only [cellWfFrom, Bool.and_eq_true, decide_eq_true_eq] at w
    unfold cellPut
    split_ifs with h1 h2 h3 h4 h5 h6 h7 h8
    · subst h3; subst h1; rw [cellGet_below d (Nat.lt_succ_self b) w.2, h2]
    · subst h1
      by_cases hb : b < a
      · rw [cellGet_below d (by omega : b < a + 1) w.2]
        simp [cellGet, h3, hb]
      · simp [cellGet, h3, hb]
    · simp [cellGet, h4]
    · subst h1; simp [cellGet, h4]
    · subst h7; simp [cellGet, h1, h5, h6]
    · rfl
    · simp [cellGet, h8]
    · simp only [cellGet, h8, if_false]
      by_cases hb : b < a
      · have h9 : b ≠ k := by omega
        have h10 : b < k := by omega
        simp [hb, h9, h10]
      · simp [hb]
    · rename_i hb
      subst hb
      simp only [cellGet, h1, h5, if_false]
      rw [cellGet_cellPutFrom d b b x cs (k + 1) w.2, if_pos rfl]
    · rename_i hb
      simp only [cellGet]
      rw [cellGet_cellPutFrom d a b x cs (k + 1) w.2, if_neg hb]

/-- A read after a write: the value at its address, and everything else as it was. -/
theorem cellGet_cellPut (d : Nat → Nat) (m : Memory) (a b x : Nat) (w : Memory.wf d m = true) :
    cellGet d (cellPut d m a x) b = if b = a then x else cellGet d m b :=
  cellGet_cellPutFrom d a b x m 0 w

/-- The writes of consecutive addresses keep the canonical form. -/
theorem cellPuts_wf (d : Nat → Nat) : ∀ (xs : List Nat) (m : Memory) (a : Nat), Memory.wf d m = true →
    Memory.wf d (cellPuts d m a xs) = true
  | [], _, _, w => w
  | x :: xs, m, a, w => cellPuts_wf d xs (cellPut d m a x) (a + 1) (cellPut_wf d m a x w)

/-- Reads after writes of consecutive addresses: the values of those addresses, and everything else as it was. -/
theorem cellGet_cellPuts (d : Nat → Nat) : ∀ (xs : List Nat) (m : Memory) (a b : Nat), Memory.wf d m = true →
    cellGet d (cellPuts d m a xs) b = if a ≤ b then (xs[b - a]?).getD (cellGet d m b) else cellGet d m b
  | [], m, a, b, _ => by simp [cellPuts]
  | x :: xs, m, a, b, w => by
    unfold cellPuts
    rw [cellGet_cellPuts d xs _ (a + 1) b (cellPut_wf d m a x w), cellGet_cellPut d m a b x w]
    by_cases h1 : b = a
    · subst h1; simp
    · by_cases h2 : a ≤ b
      · have h3 : a + 1 ≤ b := by omega
        have h4 : b - a = (b - (a + 1)) + 1 := by omega
        simp [h1, h2, h3, h4]
      · have h3 : ¬ a + 1 ≤ b := by omega
        simp [h1, h2, h3]

theorem cellWfFrom_filter (d : Nat → Nat) (p : Nat × Nat → Bool) : ∀ (cs : List (Nat × Nat)) (n : Nat), cellWfFrom d n cs = true →
    cellWfFrom d n (cs.filter p) = true
  | [], _, _ => rfl
  | (k, v) :: cs, n, w => by
    simp only [cellWfFrom, Bool.and_eq_true, decide_eq_true_eq] at w
    rw [List.filter_cons]
    split
    · simp only [cellWfFrom, Bool.and_eq_true, decide_eq_true_eq]
      exact ⟨⟨w.1.1, w.1.2⟩, cellWfFrom_filter d p cs (k + 1) w.2⟩
    · exact cellWfFrom_mono d (by omega) (cellWfFrom_filter d p cs (k + 1) w.2)

/-- Removing entries keeps the canonical form. -/
theorem filter_wf (d : Nat → Nat) (p : Nat × Nat → Bool) (m : Memory) (w : Memory.wf d m = true) : Memory.wf d (m.filter p) = true :=
  cellWfFrom_filter d p m 0 w

/-- A write of a register: what registers read as after it. -/
theorem reg_setReg (s : State) (o v p : Nat) (w : Memory.wf regDefault s.regs = true) :
    reg (setReg s o v) p = if p = o then v else reg s p :=
  cellGet_cellPut regDefault s.regs o p v w

/-- A write of a register keeps the canonical form of the set-up fields. -/
theorem setReg_wf (s : State) (o v : Nat) (w : Memory.wf regDefault s.regs = true) : Memory.wf regDefault (setReg s o v).regs = true :=
  cellPut_wf regDefault s.regs o v w

/-! ### Tables -/

@[simp] theorem tabGet_tabPut_same {α : Type} (a : Nat) (x : α) : ∀ t : List (Nat × α), tabGet (tabPut t a x) a = some x
  | [] => by simp [tabPut, tabGet]
  | (k, v) :: t => by
    unfold tabPut
    split_ifs with h1 h2
    · simp [tabGet]
    · simp [tabGet]
    · simp [tabGet, h1, tabGet_tabPut_same a x t]

theorem tabGet_tabPut_other {α : Type} (a b : Nat) (x : α) (h : b ≠ a) : ∀ t : List (Nat × α), tabGet (tabPut t a x) b = tabGet t b
  | [] => by simp [tabPut, tabGet, h]
  | (k, v) :: t => by
    unfold tabPut
    split_ifs with h1 h2
    · subst h1; simp [tabGet, h]
    · simp [tabGet, h]
    · simp [tabGet, tabGet_tabPut_other a b x h t]

end Sys2Proof.Machine
end

