-- ==== Sys2Proof/Tests/Slice0.lean ====
section
/-!
SUPPORT. Tests: the smoke test of the well-formedness checks, facts of reset, small tests of single commands after the spec's worked
examples, and, for every statement that has hypotheses, a theorem that names a state and operands which meet them (witness_<statement>).
-/

open Sys2Proof Sys2Proof.Machine

set_option Elab.async false

namespace Sys2Proof.Tests

/-- The state after reset, changed by `f`. -/
abbrev st (f : State → State) : State := f State.reset

/-- `s` is not held in reset, and once no time has passed it meets `p`. -/
abbrev Meets (s : State) (p : State → Prop) : Prop := s.life.inReset = false ∧ p (begin 0 s)

/-- The command answers a next state. -/
def runs (o : Host.Outcome State Fault Refusal) : Bool := match o with | .next _ => true | _ => false

/-- The next state of an outcome, or the state after reset. -/
def after! (o : Host.Outcome State Fault Refusal) : State := match o with | .next s => s | _ => State.reset

/-! ### Witnesses: the machine as a whole, bring-up -/

theorem witness_Step_runs_front_command :
    step { State.reset with pending := [.heartbeat 40] } = exec (.heartbeat 40) State.reset := rfl
theorem witness_Step_idles_on_empty_queue : State.reset.pending = [] := rfl
theorem witness_FaultN_follows_its_conditions : faultNSound State.reset = true ∧
    runs (step { State.reset with pending := [.referenceLock 40] }) = true := by decide +kernel
theorem witness_UpdSeq_stays_sound : seqsSound State.reset = true ∧
    runs (step { State.reset with pending := [.referenceLock 40] }) = true := by decide +kernel
theorem witness_UpdSeq_counts_changes :
    Meets State.reset (fun u => seqsSound u = true ∧ 0x2004 ∈ seqKeys ∧
      covered u 0x2004 ≠ covered { u with time := { u.time with refLocked := true } } 0x2004) := by decide +kernel
theorem witness_Quiet_close_changes_nothing : quiet { State.reset with chip := { State.reset.chip with powerGood := true } } = true := by
  decide +kernel
theorem witness_Time_passes_between_commands :
    State.reset.life.inReset = false ∧ (st fun s => { s with life := { s.life with inReset := true } }).life.inReset = true := by decide +kernel

abbrev understory (s : State) : State := { s with chip := { s.chip with understory := true }, life := { s.life with clearing := false } }
abbrev service (s : State) : State := { understory s with
  chip := { s.chip with understory := true, fullService := true }, life := { s.life with clearing := false, bistDone := true } }

theorem witness_Bring_up_stages_complete :
    Meets State.reset (fun u => u.life.clearing = true)
    ∧ Meets (st fun s => { s with life := { s.life with clearing := false } }) (fun u => u.chip.understory = false ∧ u.life.clearing = false)
    ∧ Meets (st understory) (fun u => u.chip.understory = true ∧ u.life.bistDone = false
        ∧ 6 ≤ inService (bistIsolate true 0x100#9 [] { u with life := { u.life with bistDone := true } })) := by decide +kernel
theorem witness_Chip_reset_resets_all_but_what_is_stored :
    (begin 0 (st fun s => { s with life := { s.life with inReset := true } })).life.inReset = true
    ∧ (begin 0 (st fun s => { s with life := { s.life with powerFailed := true } })).life.powerFailed = true := by decide +kernel
theorem witness_Reset_is_held_and_released :
    (begin 0 (st fun s => { s with life := { s.life with inReset := true, resetNLow := true } })).life.resetNLow = true
    ∧ State.reset.chip.powerGood = true
    ∧ (begin 0 (st fun s => { s with life := { s.life with powerFailed := true } })).life.powerFailed = true := by decide +kernel
theorem witness_Supply_temperature_and_clock_limits :
    Meets State.reset (fun u => u.life.tj ≤ 115 ∧ 115 < (116#8).toInt ∧ u.life.tj ≤ 125 ∧ 125 < (126#8).toInt ∧ (215#8).toInt < -40
      ∧ u.chip.powerGood = true ∧ 600 ≤ u.life.vin ∧ (599#16).toNat < 600 ∧ u.life.powerFailed = false ∧ (559#16).toNat < 560)
    ∧ 196608 < 100 * (((67503#32).toNat : Int) - 65536).natAbs ∧ 100 * (((67502#32).toNat : Int) - 65536).natAbs ≤ 196608 := by
  decide +kernel
theorem witness_Snapshots_are_taken_and_complete :
    Meets State.reset (fun u => pathOpen .pcie u = true ∧ u.chip.auditBusy = false ∧ u.time.xsnapBusy = false)
    ∧ (∀ b ∈ [false, true], Meets (st fun s => { s with
          chip := { s.chip with auditBusy := true, copied := { s.chip.copied with void := b } }, time := { s.time with xsnapBusy := true } })
        (fun u => pathOpen .pcie u = true ∧ u.chip.auditBusy = true ∧ u.chip.copied.void = b ∧ u.time.xsnapBusy = true)) := by decide +kernel

/-! ### Witnesses: time (02) -/

/-- A register holds `v`, from the state after reset on. -/
abbrev withReg (o v : Nat) (s : State) : State := setReg s o v

/-- D1 follows its master, may be stepped, with the state given. -/
abbrev d1 (r : Domain) (s : State) : State := withReg 0x2100 (reg s 0x2100 ||| 3) { s with time := { s.time with d1 := r } }

theorem witness_Master_updates_discipline_a_domain :
    Meets (st (d1 {})) (fun u => disciplined u .d1 = true ∧ (domRec u.time .d1).state = .unset)
    ∧ (∀ x ∈ [(16001, true), (16000, false)], Meets (st (d1 { state := .free })) (fun u => disciplined u .d1 = true
        ∧ (domRec u.time .d1).state ≠ .unset ∧ runningSlew u .d1 = none ∧ diff64 (BitVec.ofInt 64 x.1) (domNow u .d1) = x.1
        ∧ mayStep (setDom u .d1 (fun r => { r with phaseErr := satS 16 x.1 |> max (-32767) })) .d1 x.1 = x.2
        ∧ (newFreq (setDom u .d1 (fun r => { r with phaseErr := satS 16 x.1 |> max (-32767) })) .d1 x.1 + ppm (cfgPpm u .d1)).natAbs ≤ rateClamp)) := by
  decide +kernel
theorem witness_Holdover_and_slews_end_as_stated :
    Meets (st fun s => d1 { state := .locked } { s with time := { s.time with now := 16 * 16000000 } }) (fun u => disciplined u .d1 = true
        ∧ (domRec u.time .d1).state = .locked
        ∧ (domRec u.time .d1).seen + max 1 (regF u (domBase 1) 7 4) * updInterval u .d1 ≤ u.time.now)
    ∧ Meets (withReg 0x2100 0x10000 { State.reset with time := { State.reset.time with now := 100 * msLsb, d1 := { state := .holdover } } })
        (fun u => (domRec u.time .d1).holdReported = false ∧ regF u (domBase 1) 31 16 ≠ 0
          ∧ (domRec u.time .d1).holdSince + regF u (domBase 1) 31 16 * 100 * msLsb ≤ u.time.now)
    ∧ Meets (st (d1 { slewing := true })) (fun u => (domRec u.time .d1).slewing = true ∧ (domRec u.time .d1).slewLeft = 0
        ∧ runningSlew u .d1 = none) := by decide +kernel
theorem witness_Discipline_writes_start_and_end_following :
    Meets State.reset (fun u => pathOpen .pcie u = true ∧ disciplined u .d1 = disciplined (writeRw u (domBase 1) 0) .d1
        ∧ disciplined u .d1 = false ∧ disciplined (writeRw u (domBase 1) 1) .d1 = true
        ∧ (domRec (writeRw u (domBase 1) 1).time .d1).slewing = false)
    ∧ Meets (st (d1 {})) (fun u => disciplined u .d1 = true ∧ disciplined (writeRw u (domBase 1) 0) .d1 = false) := by decide +kernel
theorem witness_Placers_drive_due_edges :
    let e (late : Bool) : Edge := { target := 1000, dom := .d0, level := true, owner := .pin, late := late }
    let at' (t : Nat) (late : Bool) (l : Option Nat) := { State.reset with time := { State.reset.time with
      now := t, placers := upd State.reset.time.placers 6 (fun _ =>
        { queue := [e late], lastEdge := l, lastAt := l.map (fun x => ⟨.d0, BitVec.ofNat 64 x⟩) }) } }
    (∀ x ∈ [(1000, false, none, false), (1000, true, none, false), (1000, false, some 680, false), (1000, false, some 684, true), (1004, false, some 684, true)],
      Meets (at' x.1 x.2.1 x.2.2.1) (fun u => u.time.placers[(6 : Fin 12)].queue = [e x.2.1] ∧ edgeDue u (e x.2.1) ≤ u.time.now
        ∧ (e x.2.1).level ≠ u.time.placers[(6 : Fin 12)].level ∧ heldBack u 6 (e x.2.1) = x.2.2.2))
    ∧ minWidth State.reset (6 : Fin 12) = 320 := by
  decide +kernel
theorem witness_Pps_pulses_queue_two_edges :
    Meets (withReg 0x2200 1 { State.reset with time := { State.reset.time with now := 16000000039 } }) (fun u =>
      domOf (regF u 0x2200 2 1) = .d0 ∧ (domNow u .d0).toNat % ppsPeriod u = 39 ∧ regB u 0x2200 0 = true ∧ unset u .d0 = false) := by
  decide +kernel

/-- A descriptor in flight whose update point is any. -/
abbrev flying (op : Byte) (p : BitVec 384) : InFlight :=
  { id := 0, src := .svc, opcode := op, flags := 0, tag := 0, target := ⟨0, 0⟩, payload := p, buf := ⟨[], true⟩, accepted := 0
    accStamp := ⟨.d0, 0⟩, descDom := .d0, due := .update none 0 }

theorem witness_Timed_settings_take_effect_in_order :
    Meets (st fun s => modHost s (fun h => { h with flight := [flying 0x90 1, flying 0x91 1] })) (fun u =>
      timeReady 0x90 .d1 u = [flying 0x90 1] ∧ timeReady 0x91 .d1 u = [flying 0x91 1]
      ∧ (flying 0x90 1).group = none ∧ timeTarget (flying 0x91 1) = .d1 ∧ disciplined u .d1 = false ∧ disciplined (d1 {} u) .d1 = true) := by
  decide +kernel

/-! ### Witnesses: rings and doorbells (03), registers and the service port (04) -/

/-- Ring enables: SQ0, CQ0, EVQ and STR0, of 16 entries. -/
abbrev rings (s : State) : State := withReg 0x1108 0x9 (withReg 0x1208 0x9 (withReg 0x1308 0x9 (withReg 0x1388 0x9 s)))
abbrev cpl0 (fl : Byte) : Cpl :=
  { id := 0, src := .sq 0, tag := 1, flags := fl, status := 0, accStamp := ⟨.d0, 0⟩, descDom := .d0, opcode := 2, cq := some 0 }

theorem witness_Submission_doorbells_publish_entries :
    Meets State.reset (fun u => ringOn u (sqBase 0) = false)
    ∧ Meets (st rings) (fun u => ringOn u (sqBase 0) = true ∧ u.host.sq[(0 : Fin 8)].error = false ∧ ringSize u (sqBase 0) = 16
        ∧ 65536 ≤ (65536#32).toNat ∧ ringSize u (sqBase 0) ≤ (16#32).toNat ∧ (15#32).toNat < ringSize u (sqBase 0)
        ∧ ((15#32).toNat + ringSize u (sqBase 0) - u.host.sq[(0 : Fin 8)].tail) % ringSize u (sqBase 0) ≤ ringSize u (sqBase 0) - outstanding u 0)
    ∧ Meets (modSq (st rings) 0 (fun q => { q with tail := 10, published := 10 })) (fun u =>
        ((0#32).toNat + ringSize u (sqBase 0) - u.host.sq[(0 : Fin 8)].tail) % ringSize u (sqBase 0) ≤ ringSize u (sqBase 0) - outstanding u 0
        ∧ ringSize u (sqBase 0) - outstanding u 0 < ((1#32).toNat + ringSize u (sqBase 0) - u.host.sq[(0 : Fin 8)].tail) % ringSize u (sqBase 0)) := by
  decide +kernel
theorem witness_Head_doorbells_return_entries :
    ∀ r ∈ [OutRing.cq 0, .evq, .str 0], Meets (modWr (st rings) r (fun x => { x with tail := 2, used := 2 })) (fun u =>
      ringOn u (outBase r) = true ∧ (wrRing u r).error = false ∧ (2#32).toNat < ringSize u (outBase r)
      ∧ ((2#32).toNat + ringSize u (outBase r) - (wrRing u r).head) % ringSize u (outBase r) ≤ (wrRing u r).used) := by decide +kernel
theorem witness_Heartbeats_and_coalescing_timers :
    Meets State.reset (fun u => u.host.hbLost = false)
    ∧ Meets (modHost State.reset (fun h => { h with hbLost := true })) (fun u => u.host.hbLost = true)
    ∧ (∀ a ∈ [0, 1, 2], Meets (withReg 0x1008 (1 + a * 0x10000) { State.reset with time := { State.reset.time with now := msLsb } })
        (fun u => regF u 0x1008 15 0 ≠ 0 ∧ u.host.hbLost = false ∧ u.host.hbFrom + regF u 0x1008 15 0 * msLsb ≤ u.time.now
          ∧ regF u 0x1008 17 16 = a))
    ∧ Meets (modWr (withReg 0x1208 0x1000009 { State.reset with time := { State.reset.time with now := usLsb } }) (.cq 0)
          (fun x => { x with oldest := some 0 }))
        (fun u => coalUs u (outBase (.cq 0)) ≠ 0 ∧ 0 + coalUs u (outBase (.cq 0)) * usLsb ≤ u.time.now ∧ (wrRing u (.cq 0)).oldest = some 0)
    ∧ Meets (withReg 0x1308 0x1000009 { State.reset with
          time := { State.reset.time with now := usLsb }, fault := { State.reset.fault with unsig := [(0, 1, 0)] } })
        (fun u => coalUs u (outBase .evq) ≠ 0 ∧ 0 + coalUs u (outBase .evq) * usLsb ≤ u.time.now ∧ u.fault.unsig = [(0, 1, 0)]) := by
  decide +kernel
theorem witness_Entries_are_fetched_and_completions_written :
    Meets (modHost (st rings) (fun h => { h with done := [cpl0 8] })) (fun u => pickDue u = some (cpl0 8) ∧ suppressed (cpl0 8) = true)
    ∧ Meets (modHost (st rings) (fun h => { h with done := [cpl0 0] })) (fun u => pickDue u = some (cpl0 0) ∧ suppressed (cpl0 0) = false
        ∧ ringOn u (cqBase 0) = true ∧ u.host.cq[(0 : Fin 8)].error = false ∧ (cpl0 0).toCq0 = false
        ∧ u.host.done.any (fun x => x.held && !x.toCq0 && x.cq == some 0) = false)
    ∧ Meets (modHost (withReg 0x1208 0x20009 (st rings)) (fun h => { h with done := [{ cpl0 0 with held := true }, { cpl0 0 with held := true, order := 1 }] })) (fun u =>
        bestBy (fun (a b : Cpl) => decide (a.order < b.order)) (u.host.done.filter (heldReady u)) = some { cpl0 0 with held := true }
        ∧ heldRing { cpl0 0 with held := true } = some 0
        ∧ heldCount (modHost (writeCpl 0 { cpl0 0 with held := true } u) (fun h => { h with heldWritten := h.heldWritten + 1 })) ≠ 0)
    ∧ Meets (modSq (st rings) 0 (fun q => { q with tail := 1, published := 1, asked := 1 })) (fun u => ringOn u (sqBase 0) = true
        ∧ u.host.sq[(0 : Fin 8)].error = false ∧ u.host.sq[(0 : Fin 8)].asked ≠ 0) := by decide +kernel
theorem witness_Link_and_ptm_state :
    Meets State.reset (fun u => u.host.linkUp = false ∧ pathOpen .pcie u = true)
    ∧ Meets (modHost State.reset (fun h => { h with linkUp := true })) (fun u => u.host.linkUp = true)
    ∧ Meets (withReg 0x1000 2 State.reset) (fun u => ptmDue u = true)
    ∧ Meets (modHost (withReg 0x1000 2 State.reset) (fun h => { h with lastPtm := some 0 })) (fun u => ptmDue u = false) := by decide +kernel
theorem witness_Host_resets_apply_the_orphan_policy :
    Meets { State.reset with time := { State.reset.time with now := 2 * msLsb }, host := { State.reset.host with downAt := some 0 } }
      (fun u => u.host.downAt = some 0 ∧ 0 + 2 * msLsb ≤ u.time.now) := by decide +kernel
theorem witness_Register_fields_hold_what_is_written : Memory.wf regDefault State.reset.regs = true := by decide +kernel
theorem witness_Register_writes_complete :
    Meets State.reset (fun u => pathOpen .pcie u = true ∧ (0x2100#16).toNat % 4 = 0 ∧ 7#4 ≠ 15 ∧ regB u (ringBase (.sq 0) + 8) 0 = false
      ∧ (9#32).toNat % 2 = 1)
    ∧ Meets (st rings) (fun u => pathOpen .pcie u = true ∧ regB u (ringBase (.sq 0) + 8) 0 = true ∧ (8#32).toNat % 2 = 0) := by
  decide +kernel

/-- The service port is in service; the chip is in full service. -/
abbrev served (s : State) : State := { service s with svc := { s.svc with strap := true } }

theorem witness_Snapshot_reads_latch_their_path :
    Meets (st served) (fun u => svcUp u = true ∧ (0x2008#16).toNat % 4 = 0 ∧ rsHigh (0x2008#16).toNat = some 0x200C ∧ (0x2008#16).toNat ≠ 0x3084) := by
  decide +kernel
theorem witness_Service_frames_complete :
    Meets (st served) (fun u => svcUp u = true ∧ ¬ (frameSpace 0x000FF8#24 = 1 ∧ frameOff 0x000FF8#24 = 0 ∧ ([] : List Word).length = 16)
      ∧ frameSpace 0x000FF8#24 = 0 ∧ frameOff 0x000FF8#24 % 0x1000 + 4 * 2 ≤ 0x1000)
    ∧ (5 : Fin 32) ≠ 0 ∧ frameSpace 0x002200#24 = 0 ∧ onRelease 0x002200#24 0 = false := by decide +kernel
theorem witness_Service_replies_and_completions :
    Meets (st served) (fun u => svcUp u = true ∧ 2 ≤ frameSpace 0x020000#24)
    ∧ Meets (st fun s => { served s with svc := { s.svc with strap := true, cpls := [0#256] } }) (fun u => svcUp u = true ∧ u.svc.cpls = [0#256])
  := by decide +kernel

/-! ### Witnesses: descriptors (03) and what they do -/

/-- A payload from (offset, value) pairs. -/
abbrev pay (xs : List (Nat × Nat)) : BitVec 384 := BitVec.ofNat 384 (xs.foldl (fun a x => a + x.2 * 2 ^ (8 * (x.1 - 16))) 0)

/-- A descriptor at once, of a target class and index. -/
abbrev dsc (cls idx : Nat) (p : BitVec 384) : Desc :=
  { flags := 0, tag := 7, target := BitVec.ofNat 32 (256 * cls + idx), apply := 0, payload := p, buf := ⟨[], true⟩ }

/-- Bindings: a virtual slot, a step slot, a servo slot on port 1. -/
abbrev bindVirt : Binding := bindingOf (pay [(16, 3), (22, 2), (46, 255), (47, 255)])
abbrev bindStep : Binding := bindingOf (pay [(16, 1), (22, 2), (37, 1), (38, 0x18), (46, 255), (47, 255)])
abbrev bindServo : Binding := bindingOf (pay [(16, 0), (21, 0), (22, 2), (23, 1), (36, 1), (37, 3), (38, 0x08), (39, 0x09), (40, 0x30), (46, 255), (47, 255)])

abbrev lims : Limits := { vmax := 1, amax := 1, dmax := 1, jmax := 1, stopDec := 1, stopJerk := 1 }

/-- A slot bound and in AUTO, with limits. -/
abbrev autoSlot (b : Binding) (sl : Slot) : Slot := { sl with bind := some b, mode := .auto, limits := some lims }

/-- A STEP_CONFIG payload: endpoint outputs. -/
abbrev payStep : BitVec 384 := pay [(16, 1), (24, 20), (26, 20), (28, 1), (30, 1)]

/-- Full service with the service port: slots 0 and 1 virtual, slot 2 a step slot and slot 3 a servo slot with a lease, all in AUTO; a path group of slot 0;
lattice 0 idle; TP0 an input and TP1 to TP3 outputs; Folio table 0. -/
abbrev rich : State :=
  let s := st served
  let s := modSlot (modSlot s 0 (autoSlot bindVirt)) 1 (autoSlot bindVirt)
  let s := modSlot (modSlot s 2 (autoSlot bindStep)) 3 (autoSlot bindServo)
  let s := modPath s 0 (fun g => { g with state := .idle, members := [0] })
  let s := modLtc s 1 (fun l => { l with state := .idle, cfg := some { ltcCfgOf 0 with dots := 10 } })
  let s := modSlot (modSlot s 4 (autoSlot { bindVirt with dom := .d1 })) 5 (autoSlot { bindVirt with dom := .d1 })
  let s := modSlot s 2 (fun sl => { sl with step := { sl.step with cfg := some (stepCfgOf payStep) } })
  let s := modSlot s 3 (fun sl => { sl with out := { sl.out with vel := { sl.out.vel with loadedA := true, loadedB := true } } })
  let s := modNk s (fun k => { k with pubs := [{ slot := 5, pos := 0, isLocal := true, horizonMs := 5 }] })
  let s := setReg (setReg (setReg s (pinBase 0) 2) (pinBase 1) 1) 0xC100 0x800
  { s with glade := { s.glade with
    tables := [(0, { base := 0, len := 16 })]
    leases := [(0, { base := 0, words := 4096, slot := 3, owner := .slot 3, leaves := [0x01, 0x08, 0x09, 0x30], standby := true }),
        (1, { base := 4096, words := 64, slot := 1, owner := .lattice 0, leaves := [0x28], standby := false })] } }

/-- The bytes put into the service data area, from its start. -/
abbrev withData (bs : List Byte) (s : State) : State := { s with svc := { s.svc with
  data := ((List.range (bs.length / 4)).map (fun i => (i, leAt bs (4 * i) 4))).filter (fun x => x.2 != 0) } }

/-- A valid safety record, and a valid park record without entries, each with its check value. -/
abbrev recordBody : List Byte := leBytes 2 0x4642 ++ [1, 0] ++ [0, 0] ++ leBytes 2 5 ++ [1, 1] ++ leBytes 2 10
  ++ [0, 0] ++ leBytes 2 5 ++ [1, 1] ++ leBytes 2 10 ++ [0, 0, 10, 0] ++ leBytes 2 10 ++ leBytes 2 2
  ++ (List.range 4).flatMap (fun _ => 0xFF :: List.replicate 15 0)
abbrev recordOk : List Byte := recordBody ++ leBytes 4 (recordCheck recordBody)
abbrev parkOk : List Byte := [0x4B, 0x50, 1, 0] ++ List.replicate 152 0 ++ [0xA9, 0x8E, 0xBD, 0x0C]
/-- A user leaf of three words: LEAF 0x80, NOP, END. -/
abbrev leafWords : List Byte := leBytes 4 (0x3E * 2 ^ 26 + 0x80 * 2 ^ 18 + 3 * 2 ^ 6) ++ leBytes 4 (0x01 * 2 ^ 26) ++ leBytes 4 0

/-- The service port takes the descriptor, none of its checks fails, and what it is in flight meets `p` with the state in which it acts. -/
abbrev Taken (op : Nat) (d : Desc) (s : State) (p : InFlight → State → Prop) : Prop :=
  s.life.inReset = false ∧ svcTakes (rawOf op d) (frameBegin (begin 0 s)) = true ∧ passes (rawOf op d) (frameBegin (begin 0 s)) = true
    ∧ p (svcFlight (rawOf op d) (frameBegin (begin 0 s))).1 (svcFlight (rawOf op d) (frameBegin (begin 0 s))).2

/-- For each of `timedRows`, in order, a descriptor that is accepted and waits, and whether a capture must be armed for it. -/
def timedDescs : List (Desc × Bool) :=
  [dsc 1 0 0, dsc 1 0 0, dsc 1 0 0, dsc 1 0 0, dsc 1 0 0, dsc 1 0 0, dsc 2 0 0,
    dsc 2 1 (pay [(17, 1), (18, 1), (24, 1), (28, 1), (32, 1)]), dsc 2 0 0, dsc 2 0 0, dsc 2 0 0, dsc 2 0 0, dsc 2 0 0,
    dsc 1 0 (pay [(17, 1), (28, 1)]), dsc 1 3 (pay [(17, 1), (32, 1)]), dsc 1 3 (pay [(17, 1), (20, 1), (28, 1)]),
    dsc 3 0 (pay [(20, 1), (21, 255), (24, 20)]), dsc 4 0 0, dsc 5 0 (pay [(18, 2), (22, 20), (24, 65536), (40, 5000)]),
    dsc 5 1 (pay [(17, 1)]), dsc 5 1 (pay [(17, 1)]), dsc 5 1 (pay [(17, 1)]), dsc 6 0 (pay [(16, 1), (17, 1), (20, 80000)]), dsc 6 0 0,
    dsc 1 4 (pay [(17, 5)]), dsc 1 5 0].map (fun d => (d, false))
  ++ [(dsc 11 0 (pay [(32, 1), (36, 255), (37, 255)]), false), (dsc 11 0 0, true), (dsc 11 0 0, true), (dsc 11 0 0, true)]
  ++ [dsc 0 0 (pay [(16, 2)]), dsc 0 0 (pay [(16, 2)]), dsc 1 3 (pay [(16, 8), (44, 1), (50, 1)]), dsc 1 3 (pay [(16, 1)]),
    dsc 1 0 (pay [(16, 1), (20, 1), (24, 1), (28, 1), (32, 1), (36, 1)]), dsc 1 2 payStep].map (fun d => (d, false))

abbrev armedRich : State := modQuire rich (fun q => { q with state := .armed })

theorem witness_Service_descriptors_are_accepted :
    Meets { rich with life := { rich.life with state := .commissioned } } (fun u => svcUp u = true ∧ svcRefuses u (rawOf 2 (dsc 0 0 0)) = true)
    ∧ Meets { rich with svc := { rich.svc with reserved := 8 } } (fun u => svcUp u = true ∧ u.chip.fullService = true
        ∧ svcRefuses u (rawOf 2 (dsc 0 0 0)) = false ∧ 8 ≤ u.svc.cpls.length + u.svc.reserved)
    ∧ Taken 0x13 (dsc 1 0 0) rich (fun f w => f.opcode ≠ 0x70 ∧ isImmediate f w = false) := by decide +kernel
theorem witness_Timed_descriptor_rows_wait_for_their_instant :
    timedDescs.length = timedRows.length ∧ ∀ x ∈ timedRows.zip timedDescs,
      Taken x.1.2.1 (rowDesc x.1.2.2 x.2.1) (if x.2.2 then armedRich else rich) (fun f w => isImmediate f w = false) := by decide +kernel
theorem witness_Descriptor_rows_come_from_their_source :
    (timedRows ++ immediateRows).length = 61 := by decide +kernel
theorem witness_Nops_and_fences_complete :
    Taken 2 (dsc 0 0 0) rich (fun _ _ => True) ∧ Taken 1 (withSub 17 0 (dsc 0 0 0)) rich (fun _ _ => True)
    ∧ Taken 1 (withSub 17 1 (dsc 0 0 0)) rich (fun _ _ => True) := by decide +kernel

/-- `rich` with a slot in OFF and without limits. -/
abbrev offAt (n : Fin 32) : State := modSlot rich n (fun sl => { sl with mode := .off, limits := none })

theorem witness_Slot_setup_takes_effect_at_acceptance :
    Taken 0x10 (dsc 1 9 (pay [(16, 3), (22, 2), (46, 255), (47, 255)])) rich (fun f w => w.axis.slots[slotT f].mode = .off)
    ∧ Taken 0x11 (dsc 1 3 (pay [(16, 8), (17, 1), (44, 1), (50, 1)])) (offAt 3) (fun f w => w.axis.slots[slotT f].mode = .off
        ∧ pU f.payload 17 1 ≠ 0)
    ∧ Taken 0x12 (dsc 1 3 (pay [(16, 1)])) (offAt 3) (fun f w => w.axis.slots[slotT f].mode = .off)
    ∧ Taken 0x25 (dsc 1 0 (pay [(16, 1), (20, 1), (24, 1), (28, 1), (32, 1), (36, 1)])) (offAt 0) (fun f w =>
        w.axis.slots[slotT f].mode = .off ∧ w.axis.slots[slotT f].limits = none)
    ∧ Taken 0x38 (dsc 1 2 payStep) (offAt 2) (fun f w => w.axis.slots[slotT f].mode = .off) := by decide +kernel

abbrev thinning : State := { rich with glade := { rich.glade with thin := some { desc := 0, todo := [], dest := none } } }

theorem witness_Glade_descriptors_take_effect :
    Taken 0x50 (dsc 1 9 (pay [(16, 1), (19, 255), (20, 9)])) rich (fun f w => w.glade.thin = none ∧ leaseStateCheck f w = none
        ∧ tabFree w.glade.leases 128 = some 2
        ∧ (placeLease w (pU f.payload 19 1) (leaseNeed w (bit (pU f.payload 18 1) 0) (leaseLeaves f.payload))).isSome = true)
    ∧ Taken 0x51 (dsc 1 1 (pay [(17, 1)])) rich (fun f w => w.glade.thin = none ∧ releaseStateCheck f w = none)
    ∧ Taken 0x52 (dsc 0 0 0) rich (fun f w => w.glade.thin = none ∧ thinStateCheck f w = none)
    ∧ Taken 0x50 (dsc 1 9 (pay [(16, 1), (19, 255), (20, 9)])) thinning (fun _ w => w.glade.thin.isSome = true) := by decide +kernel
theorem witness_Folio_and_program_descriptors_take_effect :
    Taken 0x58 (dsc 13 0 (pay [(16, 0x1000), (28, 2)])) rich (fun f _ => pU f.payload 28 1 = 2)
    ∧ Taken 0x58 (dsc 13 0 (pay [(16, 0x1000), (26, 1)])) rich (fun _ _ => True)
    ∧ Taken 0x59 (dsc 13 0 (pay [(16, 0x1000), (24, 15), (26, 1)])) rich (fun f w => tabGet w.glade.tables f.target.idx = some { base := 0, len := 16 }
        ∧ w.glade.folioBad.any (fun a => decide (0 + pU f.payload 24 2 ≤ a) && decide (a < 0 + pU f.payload 24 2 + pU f.payload 26 2)) = false)
    ∧ Taken 0x5C (dsc 0 0 (pay [(16, 0x1000), (24, 3), (26, 3072)])) (withData leafWords rich) (fun f _ =>
        (match findLeaves 600 ((bufWords (bufData f)).take (loadLen f)) 0 [] with | .inl l => l.length | .inr _ => 0) = 1) := by decide +kernel

abbrev linked : State := setReg rich (linkBase (epLink 0)) 1
abbrev bindPay : BitVec 384 := pay [(20, 255), (21, 255), (22, 255), (23, 255), (28, 1000), (32, 100)]
/-- Two members of the ring, the second one heard. -/
abbrev ringed : State := modNk (setReg rich 0xA000 1) (fun k => { k with
  members := [{ serial := 1, priority := 0, never := false }, { serial := 2, priority := 0, never := false, heardAt := some 0 }] })

theorem witness_Network_descriptors_take_effect :
    Taken 0x68 (dsc 7 0 (pay [(17, 2), (28, 4), (32, 0x1000)])) linked (fun _ _ => True)
    ∧ Taken 0x69 (withSub 16 0 (dsc 7 0 bindPay)) linked (fun _ _ => True)
    ∧ Taken 0x69 (withSub 16 1 (dsc 7 0 bindPay)) (modEp linked 0 (fun x => { x with bind := some (epBindOf bindPay) })) (fun _ _ => True)
    ∧ Taken 0x7A (dsc 10 1 (pay [(24, 1), (16, 0x1000), (28, 0x1000), (36, 0x1000)])) ringed (fun f w => tunnelDst f ≠ w.norrak.position) := by
  decide +kernel
/-- RING_MEMBERS with the device's own serial number (a constant of Config without a value) in its list, for the value 5. -/
theorem witness_Network_descriptors_take_effect_members (h : Config.serial = 5) :
    let d := dsc 10 0 (pay [(16, 0x1000), (24, 2)])
    let s := withData (leBytes 8 5 ++ List.replicate 8 0 ++ leBytes 8 6 ++ List.replicate 8 0) (st served)
    svcTakes (rawOf 0x78 d) (begin 0 s) = true ∧ passes (rawOf 0x78 d) (begin 0 s) = true := by
  unfold passes bodyCheck opCheck membersCheck
  rw [h]
  decide +kernel
theorem witness_Can_quire_and_check_descriptors_take_effect :
    Taken 0x70 (dsc 9 0 0) (setReg rich (canBase 0) 1) (fun f w => tabFree w.can[canT f].slots 32 = some 0)
    ∧ Taken 0x71 (dsc 9 0 0) rich (fun _ _ => True)
    ∧ Taken 0x72 (dsc 9 0 0) (modCan rich 0 (fun x => { x with state := .busOff })) (fun _ _ => True)
    ∧ Taken 0x81 (dsc 11 0 (pay [(16, 0x1000)])) rich (fun _ _ => True)
    ∧ (∀ k ∈ [0, 1, 2], Taken 0x88 (withSub 16 k (dsc 12 0 0)) rich (fun _ _ => True)) := by decide +kernel

/-- `served` with the safety record valid. -/
abbrev recorded : State := modFb (st served) (fun fb => { fb with record := recordOk, valid := true })

theorem witness_Chip_descriptors_take_effect :
    Taken 0xA0 (dsc 0 0 0) rich (fun f _ => pU f.payload 16 8 = 0)
    ∧ Taken 0xA1 (dsc 0 0 0) rich (fun _ _ => True)
    ∧ Taken 0xB0 (dsc 0 0 (pay [(16, 0x1000)])) (withData recordOk (st served)) (fun _ _ => True)
    ∧ Taken 0xB1 (dsc 0 0 0) (st served) (fun f w => (confirmRecord (pU f.payload 16 4) w).2 = false)
    ∧ Taken 0xB1 (dsc 0 0 (pay [(16, recordCheck recordBody)])) recorded (fun f w => (confirmRecord (pU f.payload 16 4) w).2 = true) := by decide +kernel
/-- LIFECYCLE_CHANGE to RETIRED names the low half of the serial number, here for the value 5. -/
theorem witness_Chip_descriptors_take_effect_lifecycle (h : Config.serial = 5) :
    let d := dsc 0 0 (pay [(16, 4), (18, 5)])
    svcTakes (rawOf 0xF0 d) (begin 0 (st served)) = true ∧ passes (rawOf 0xF0 d) (begin 0 (st served)) = true
      ∧ lifeOf (pU (svcFlight (rawOf 0xF0 d) (begin 0 (st served))).1.payload 16 1) = some .retired := by
  unfold passes bodyCheck opCheck lifeCheck lifeState
  rw [h]
  decide +kernel
/-- The check value of the park record above, part by part. -/
theorem park_crc : parkCheckValue parkOk = leAt parkOk 156 4 := by
  have h : parkOk.take 156 = [0x4B, 0x50, 1, 0] ++ List.replicate 52 0 ++ List.replicate 50 0 ++ List.replicate 50 0 := by decide +kernel
  have h1 : (([0x4B, 0x50, 1, 0] : List Byte) ++ List.replicate 52 0).foldl (crcLow 0xEDB88320) 0xFFFFFFFF = 1333553035 := by decide +kernel
  have h2 : (List.replicate 50 0).foldl (crcLow 0xEDB88320) 1333553035 = 1586245720 := by decide +kernel
  have h3 : (List.replicate 50 0).foldl (crcLow 0xEDB88320) 1586245720 = 4081217878 := by decide +kernel
  unfold parkCheckValue crc32 crc32r
  rw [h, List.foldl_append, List.foldl_append, h1, h2, h3]
  decide +kernel
/-- PARK_RECORD_WRITE of that record, submitted at the service port. -/
abbrev parkRaw : RawDesc := rawOf 0xF1 (dsc 0 0 (pay [(16, 0x1000)]))
abbrev parkSt : State := begin 0 (withData parkOk (st served))
theorem witness_Chip_descriptors_take_effect_park :
    svcTakes parkRaw parkSt = true ∧ passes parkRaw parkSt = true := by
  have h : ((svcHeld parkRaw parkSt).1.buf.data.take 160) = parkOk := by decide +kernel
  refine ⟨by decide +kernel, ?_⟩
  have hc : parkWriteCheck (svcHeld parkRaw parkSt).1 (svcHeld parkRaw parkSt).2 = none := by
    unfold parkWriteCheck
    rw [h]; dsimp only; rw [park_crc]
    decide +kernel
  unfold passes bodyCheck opCheck
  rw [hc]
  decide +kernel

/-! ### Witnesses: lanes and jobs (05), the Glade (06) -/

/-- A job of slot 3 whose first leaf is of the vendor and whose second is the user leaf 0x80. -/
abbrev job3 : Job :=
  { owner := .slot 3, sched := .outer, ts := ⟨.d0, 0⟩, tApply := ⟨.d0, 0⟩, deadline := ⟨.d0, 0⟩, sample := 0, leaves := [0x08, 0x80]
    ins := { vals := [(5, true)] } }
/-- Its run on lane 0, with p0 at 16 and p1 beyond the space. -/
abbrev run3 : LaneRun := { job := job3, p := #v[{ base := 16 }, { base := 64 }, {}, {}], staged := [(17, 9)] }
abbrev laneOp0 : LaneOp := { lane := 0, err := 0, fetch := .clean, hit := none }
/-- Slot 3 holds 64 words that serve the user leaf; table 0 has the entries 1 and 2. -/
abbrev laneSt : State :=
  let s := modLane (st served) 0 (fun l => { l with run := some run3 })
  { s with glade := { s.glade with
    tables := [(0, { base := 0, len := 2 })], folio := [(0, 1), (1, 2)], words := [(18, 7)]
    leases := [(0, { base := 0, words := 64, slot := 3, owner := .slot 3, leaves := [0x80], standby := false })] } }

/-- A lane that runs a vendor leaf may fetch any word: the premise of the statements about lane instructions is met, whatever the instruction. -/
theorem witness_Lane_instructions (w : Nat) : laneSt.life.inReset = false ∧ LaneRuns (begin 0 laneSt) laneOp0 run3 w := ⟨rfl, rfl, rfl, rfl⟩
theorem witness_Lane_instructions_compute :
    (23#5).toNat ≤ 23 ∧ (7#4).toNat < 8 ∧ (48#6).toNat ≤ 48 ∧ (32#6).toNat ≤ 32 ∧ run3.job.ins.vals[(0#4).toNat]? = some (5, true) := by
  decide +kernel
theorem witness_Lane_instructions_address_memory :
    Meets laneSt (fun u =>
      (∃ x, relAddr (spaceOf u (.slot 3)) (genAddr run3.p[(0 : Fin 4)] 0) = some (16, x) ∧ x.2.leaves = [0x80])
      ∧ relAddr (spaceOf u (.slot 3)) (genAddr run3.p[(1 : Fin 4)] 0) = none
      ∧ u.glade.bad.contains 16 = false ∧ (∀ x ∈ run3.staged, x.1 ≠ genAddr run3.p[(0 : Fin 4)] 0)
      ∧ run3.staged.find? (fun y => y.1 == genAddr run3.p[(0 : Fin 4)] 1) = some (17, 9)
      ∧ (tabGet u.glade.tables 0).map (fun t => t.len) = some 2 ∧ vOf run3 0 < 2 ∧ u.glade.folioBad.contains 1 = false
      ∧ (∃ t, searchWords run3 run3.p[(0 : Fin 4)] none (List.range 3) u [] = ((.value 0, [0, 9, 7]), t))) ∧ run3.job.leaves.contains 0x80 = true :=
  ⟨⟨rfl, ⟨_, rfl, rfl⟩, rfl, rfl, by decide +kernel, rfl, rfl, by decide +kernel, rfl, ⟨_, rfl⟩⟩, by decide +kernel⟩
theorem witness_Lane_instructions_address_memory_best :
    FirstBest (· > ·) id [0, 9, 7] 1 9 ∧ FirstBest (· < ·) id [0, 9, 7] 0 0 ∧ FirstBest (· > ·) (fun y => |y|) [0, 9, 7] 1 9 := by
  unfold FirstBest
  refine ⟨⟨rfl, fun j y => ?_⟩, ⟨rfl, fun j y => ?_⟩, ⟨rfl, fun j y => ?_⟩⟩ <;> rcases j with _ | _ | _ | j <;> simp <;> intro h <;> subst h <;> simp
theorem witness_Lane_instructions_control :
    condHolds run3 0 (begin 0 laneSt) = true ∧ condHolds run3 1 (begin 0 laneSt) = false ∧ (7#4).toNat < 8
    ∧ 8 ≤ (8#4).toNat ∧ 23 < (24#5).toNat ∧ run3.job.leaves[run3.leaf]? = some 0x08 ∧ run3.job.leaves[run3.leaf + 1]? = some 0x80
    ∧ ({ run3 with leaf := 1 } : LaneRun).job.leaves[2]? = none := ⟨rfl, rfl, by decide⟩

/-- Slot 0, a virtual slot in AUTO whose job is forming; its samples are due. -/
abbrev slotJob : Job := { job3 with owner := .slot 0 }
abbrev formed : State := modSlot rich 0 (fun sl => { sl with
  outSched := { sl.outSched with next := some 0, forming := some slotJob, latch := [{ val := .rate 0, tApply := ⟨.d0, 0⟩ }] }
  curSched := { sl.curSched with next := some 0 } })
/-- Lattice 1 of `rich` follows slot 0 as planned; its job is forming. -/
abbrev ltcFormed : State := modLtc rich 1 (fun l => { l with sched := { l.sched with forming := some { job3 with owner := .lattice 1 } } })

theorem witness_Jobs_are_queued_granted_and_overrun :
    Meets formed (fun u => (schedOf u (.slot 0) .outer).forming = some slotJob ∧ u.axis.slots[(0 : Fin 32)].bind = some bindVirt
        ∧ reached u slotJob.ts = true ∧ inputsIn u 0 bindVirt slotJob.ts = true ∧ toD0 u slotJob.deadline ≤ u.time.now)
    ∧ Meets ltcFormed (fun u => (schedOf u (.lattice 1) .current).forming = some { job3 with owner := .lattice 1 }
        ∧ reached u slotJob.ts = true ∧ ltcReady u 1 0 = true)
    ∧ Meets (modCanopy rich (fun c => { c with queue := [slotJob] })) (fun u =>
        firstJob u (u.canopy.queue.filter (fun x => x.recompute && !jobHeld u x)) = none
        ∧ firstJob u (u.canopy.queue.filter (fun x => !x.recompute)) = some slotJob ∧ freeLane u = some 0 ∧ slotJob.recompute = false
        ∧ u.canopy.lanes[(0 : Fin 9)].state = .inService ∧ u.canopy.lanes[(0 : Fin 9)].run = none)
    ∧ Meets (modCanopy rich (fun c => { c with queue := [{ slotJob with recompute := true }] })) (fun u =>
        firstJob u (u.canopy.queue.filter (fun x => x.recompute && !jobHeld u x)) = some { slotJob with recompute := true }
        ∧ (recomputeLane u { slotJob with recompute := true }).isSome = true)
    ∧ (∀ k ∈ [(0 : Fin 9), 8], Meets rich (fun u => u.canopy.lanes[k].state = (if k = 0 then .inService else .spare)
        ∧ u.canopy.lanes[k].run = none ∧ jobWaits u k = false))
    ∧ Meets { modCanopy (st served) (fun c => { c with slacks := [(1, 100)], vcode := 30 }) with time := { State.reset.time with now := msLsb } } (fun u =>
        u.canopy.slacks.length = 1 ∧ u.canopy.windowFrom + msLsb ≤ u.time.now ∧ u.chip.fullService = true ∧ regB u 0x3008 0 = false
        ∧ u.canopy.boostEnd = none ∧ 25 ≤ regF u 0x3008 15 8 ∧ regF u 0x3008 15 8 ≤ 75 ∧ u.canopy.vcode + 4 < govMax u
        ∧ 1 < 100 * (u.canopy.slacks.filter (fun x => decide (x.1 * 100 < ((regF u 0x3008 15 8 * x.2 : Nat) : Int)))).length)
    ∧ Meets (modCanopy State.reset (fun c => { c with boostEnd := some 0 })) (fun u => u.canopy.boostEnd = some 0 ∧ 0 ≤ u.time.now) := by
  decide +kernel

abbrev thinLease : Lease := { base := 64, words := 64, slot := 9, owner := .slot 9, leaves := [0x80], standby := false }
abbrev thinSt (waited : Nat) : State := { State.reset with glade := { State.reset.glade with
  leases := [(0, thinLease)], thin := some { desc := 0, dest := none, todo := [0], waited := waited } } }

theorem witness_Glade_maintenance_runs :
    Meets (thinSt 0) (fun u => thinHead u = some (0, thinLease, { desc := 0, dest := none, todo := [0], waited := 0 }) ∧ gapNow u thinLease = true)
    ∧ 63 < thinLease.words
    ∧ Meets State.reset (fun u => (scrubTurn false 6143 u).isSome = true ∧ (scrubTurn true 16383 u).isSome = true)
    ∧ Meets { State.reset with glade := { State.reset.glade with scrubbed := [(false, 6143)] } } (fun u => scrubTurn false 6143 u = none)
    ∧ Meets (thinSt 64) (fun u => thinHead u = some (0, thinLease, { desc := 0, dest := none, todo := [0], waited := 64 }))
    ∧ Meets { State.reset with time := { State.reset.time with now := msLsb } } (fun u => u.glade.windowFrom + msLsb ≤ u.time.now
        ∧ u.glade.accesses.toList.foldl (· + ·) 0 ≤ 900000 ∧ (∀ n : Fin 8, u.glade.accesses[n] ≤ 112500))
    ∧ leaseAt (countRange 6143 1 (begin 0 State.reset)) 6143 = none := by decide +kernel

/-! ### Witnesses: slots, ports and pins (07 to 10) -/

/-- A step slot 2 of `rich` with its accumulator past the carry, a coarse configuration and the coarse source. -/
abbrev stepSt (acc : Int) : State := modSlot rich 2 (fun sl => { sl with source := .coarse
                                                                         step := { sl.step with
                                                                           acc := acc, lastCoarse := some 0, coarseIn := [(0, true)]
                                                                           cfg := some { coarse := true } } })

theorem witness_Slots_sample_apply_and_step :
    Meets formed (fun u => u.axis.slots[(0 : Fin 32)].bind = some bindVirt ∧ dueSample u 0 bindVirt .outer = some 0
      ∧ dueSample u 0 bindVirt .current = some 0 ∧ (schedOf u (.slot 0) .outer).latch = [{ val := .rate 0, tApply := ⟨.d0, 0⟩ }]
      ∧ reached u ⟨.d0, 0⟩ = true)
    ∧ (∀ a ∈ [(2 : Int) ^ 48, -1], Meets (stepSt a) (fun u => (syncStep u.time.now u.axis.slots[(2 : Fin 32)].step).acc = a
      ∧ u.axis.slots[(2 : Fin 32)].step.cfg = some { coarse := true } ∧ u.axis.slots[(2 : Fin 32)].mode = .auto
      ∧ u.axis.slots[(2 : Fin 32)].source = .coarse ∧ u.axis.slots[(2 : Fin 32)].step.coarseIn = [(0, true)]
      ∧ u.axis.slots[(2 : Fin 32)].step.lastCoarse = some 0 ∧ 0 + 0 * msLsb ≤ u.time.now)) := by
  decide +kernel
theorem witness_Ports_count_edges :
    Meets (st service) (fun u => portOn u 0 = true ∧ portWindow u 0 = 1600 ∧ u.axis.ports[(0 : Fin 3)].lastB = none
      ∧ u.axis.ports[(0 : Fin 3)].lastA = none ∧ portOn u 2 = true ∧ portWindow u 2 = 1600) := by decide +kernel
theorem witness_Ports_count_edges_z :
    (∀ z ∈ [0#3, 4#3], Meets (modPort (withReg (portBase 0) 0x400 (st service)) 0 (fun x => { x with lines := z })) (fun u => portOn u 0 = true
      ∧ regB u (portBase 0) 10 = true ∧ portWindow u 0 ≤ 1600 ∧ regB u (portBase 0) 11 = false ∧ regB u (portBase 0) 13 = false
      ∧ (u.axis.ports[(0 : Fin 3)].lines.getLsbD 2 = regB u (portBase 0) 12 ↔ z = 0) ∧ u.axis.ports[(0 : Fin 3)].zReady = true))
    ∧ Meets (modPort (st service) 2 (fun x => { x with sector := some 5 })) (fun u => hallSector 1#3 = some 0 ∧ u.axis.ports[(2 : Fin 3)].sector = some (0 + 5))
    ∧ Meets { modPort (st service) 0 (fun x => { x with last := some 0 }) with time := { State.reset.time with now := 2 ^ 40 } } (fun u =>
        portOn u 0 = true ∧ u.axis.ports[(0 : Fin 3)].last = some 0 ∧ 0 + portTimeout u 0 ≤ u.time.now) := by decide +kernel

/-- TP0 is an input whose last edge was at the instant 0; `now` is the time. -/
abbrev pinSt (now : Nat) (p : Pin) : State := modPin { withReg (pinBase 0) 0x10002 State.reset with time := { State.reset.time with now := now } } 0 (fun _ => p)
abbrev arm0 : CmpArm :=
  { slot := 0, measured := false, mode := 0, dir := 0, outPin := none, outEp := none, action := 0, lateFire := false, record := true
    activeLow := false, widthNs := 20, channel := 0, a := 0, b := 0, period := 0, count := 0, accepted := 0 }
abbrev pinned : State := modLtc (modCmp (modSlot rich 0 (fun sl => { sl with outSched := { sl.outSched with next := some 0 } })) 0
  (fun c => { c with arm := some arm0 })) 1 (fun l => { l with state := .armed, poly := some { from_ := 0, len := 1, cubic := {}, coast := false } })
abbrev latchIn : InFlight := { flying 0x41 0 with target := ⟨4, 0⟩ }

theorem witness_Pins_and_windows :
    Meets (pinSt 0 {}) (fun u => u.pins.pins[(0 : Fin 4)].level ≠ true ∧ pinMode u 0 = 2 ∧ u.pins.pins[(0 : Fin 4)].merging = false)
    ∧ Meets (pinSt 639 { last := some 0, merging := true }) (fun u => u.pins.pins[(0 : Fin 4)].level ≠ true ∧ u.pins.pins[(0 : Fin 4)].merging = true
        ∧ u.pins.pins[(0 : Fin 4)].last = some 0 ∧ u.time.now < 0 + mergeLsb)
    ∧ Meets (pinSt 640 { last := some 0, merging := true }) (fun u => u.pins.pins[(0 : Fin 4)].last = some 0 ∧ 0 + mergeLsb ≤ u.time.now)
    ∧ Meets (pinSt (100 * usLsb) { last := some 0 }) (fun u => regF u (pinBase 0) 31 16 ≠ 0 ∧ u.pins.pins[(0 : Fin 4)].stuckDone = false
        ∧ u.pins.pins[(0 : Fin 4)].lastLevel = regB u (pinBase 0) 3 ∧ u.pins.pins[(0 : Fin 4)].level = u.pins.pins[(0 : Fin 4)].lastLevel
        ∧ 0 + regF u (pinBase 0) 31 16 * 100 * usLsb ≤ u.time.now)
    ∧ Meets pinned (fun u => u.pins.cmp[(0 : Fin 16)].arm = some arm0 ∧ u.axis.slots[arm0.slot].bind = some bindVirt
        ∧ (lastSample u arm0.slot).isSome = true ∧ u.pins.cmp[(0 : Fin 16)].window = none ∧ windowReady u arm0.slot bindVirt arm0.measured 0 = true
        ∧ u.pins.ltc[(1 : Fin 4)].cfg.isSome = true ∧ u.pins.ltc[(1 : Fin 4)].poly.isSome = true ∧ ltcArmed u.pins.ltc[(1 : Fin 4)] = true
        ∧ u.pins.ltc[(1 : Fin 4)].undecided = false ∧ isolated u (.compare 0) = false ∧ isolated u (.lattice 1) = false)
    ∧ Meets (modHost rich (fun h => { h with flight := [latchIn] })) (fun u =>
        readyAt u 0 (fun f => f.opcode == 0x41 && latchT f == (0 : Fin 16)) = [latchIn] ∧ latchIn.group = none ∧ flightOf u 0 = some latchIn
        ∧ firstFail (latchState latchIn u) = none) := by decide +kernel

/-! ### Witnesses: links, power outputs and the ring (11 to 13) -/

/-- Link 0 on, endpoint 0 bound and changed by `f`, at the time `now`. -/
abbrev epSt (now : Nat) (f : Endpoint → Endpoint) : State :=
  modEp { withReg (linkBase 0) 0x701 (st service) with time := { State.reset.time with now := now } } 0
    (fun x => f { x with bind := some (epBindOf bindPay) })
/-- A reply of 16 bytes: a STATUS block of zeros, with its CRC. -/
abbrev replyBody : List Byte := [0, 1] ++ List.replicate 12 0
abbrev replyData : List Byte := replyBody ++ sigCrc (0xC2 :: replyBody)
abbrev xferP (ph : Nat) : Xfer :=
  { desc := 0, ep := 0, mode := 0, op := 2, cmd := 0, addrBits := 0, addrLanes := 0, dummy := 0, dataLanes := 0, addr := 0, len := 4
    bufAddr := 0, data := [], phase := ph }
abbrev xferA : Xfer := { xferP 2 with mode := 1, op := 1 }
abbrev arspBody : List Byte := [0, 0, 0, 0]
abbrev arspData : List Byte := arspBody ++ sigCrc (0xC5 :: arspBody)
/-- An Endpaper of kind 1 of zeros, with a check value. -/
abbrev paper (c : Nat) : List Byte := [0x50, 0x45, 1, 1] ++ List.replicate 50 0 ++ List.replicate 100 0 ++ List.replicate 100 0 ++ leBytes 2 c

theorem witness_Links_exchange_signatures :
    Meets (epSt 16000000 (fun x => { x with state := .cyclic, cmdT := some ⟨.d0, 0⟩ })) (fun u => (cmdInstant u 0).isSome = true
        ∧ (mates u 0).filter (fun x => u.link.eps[x].state == .cyclic) = [0] ∧ linkOn u (epLink 0) = true
        ∧ ∀ x ∈ cmdInstant u 0, toD0 u ⟨x.dom, x.t + BitVec.ofNat 64 (runPlan u 0).offset⟩ - (epLead u 0 : Nat) ≤ u.time.now)
    ∧ Meets (epSt 32000000 (fun x => { x with state := .cyclic, cycleT := some ⟨.d0, 0⟩ })) (fun u => replyDue u 0 = some ⟨.d0, 0⟩
        ∧ replyCheck u 0 replyData ⟨.d0, 0⟩ = 0 ∧ replyCheck u 0 [] ⟨.d0, 0⟩ ≠ 0)
    ∧ Meets (epSt 0 id) (fun u => pollDue u 0 = true ∧ u.link.links[epLink 0].queue = [] ∧ gapFits u (epLink 0) (wordCycles 16 0 8 2) = true)
    ∧ Meets (epSt 0 (fun x => { x with lastPoll := some 0, bind := none })) (fun u => u.link.eps[(0 : Fin 12)].state ≠ .cyclic
        ∧ u.link.eps[(0 : Fin 12)].lastPoll.isSome = true ∧ leAt [0x50, 0x45] 0 2 = 0x4550 ∧ (paperBad []).isSome = true
        ∧ u.link.eps[(0 : Fin 12)].attempts + 1 < 3 ∧ u.link.eps[(0 : Fin 12)].bind = none ∧ parkEp u 0 = false) := by decide +kernel
theorem witness_Links_exchange_signatures_paper : paperBad (paper 32816) = none := by
  have h : (paper 32816).take 254 = [0x50, 0x45, 1, 1] ++ List.replicate 50 0 ++ List.replicate 50 0 ++ List.replicate 50 0
      ++ List.replicate 50 0 ++ List.replicate 50 0 := by decide +kernel
  have h0 : (([0x50, 0x45, 1, 1] : List Byte) ++ List.replicate 50 0).foldl (crcByte 0x1021) 0xFFFF = 14375 := by decide +kernel
  have h1 : (List.replicate 50 0).foldl (crcByte 0x1021) 14375 = 1658 := by decide +kernel
  have h2 : (List.replicate 50 0).foldl (crcByte 0x1021) 1658 = 39336 := by decide +kernel
  have h3 : (List.replicate 50 0).foldl (crcByte 0x1021) 39336 = 24646 := by decide +kernel
  have h4 : (List.replicate 50 0).foldl (crcByte 0x1021) 24646 = 32816 := by decide +kernel
  unfold paperBad crc16
  rw [h, List.foldl_append, List.foldl_append, List.foldl_append, List.foldl_append, h0, h1, h2, h3, h4]
  decide +kernel
theorem witness_Links_exchange_signatures_transfers :
    Meets (modLink (epSt 0 id) 0 (fun l => { l with queue := [xferP 0] })) (fun u => linkOn u 0 = true ∧ u.link.links[(0 : Fin 4)].queue = [xferP 0]
        ∧ (xferP 0).mode ≠ 1 ∧ (xferP 0).op ≠ 1 ∧ gapFits u 0 (xferCycles (xferP 0) false) = true)
    ∧ Meets (modLink (epSt 0 id) 0 (fun l => { l with queue := [xferA] })) (fun u => u.link.links[epLink 0].queue = [xferA] ∧ xferA.ep = 0 ∧ xferA.phase = 2
        ∧ gapFits u (epLink 0) (xferCycles xferA true) = true ∧ arspGood u.link.eps[(0 : Fin 12)] xferA arspData = true)
    ∧ Meets (epSt 0 id) (fun u => pathOpen .pcie u = true ∧ regB u (linkBase 0) 0 = (1#32).getLsbD 0 ∧ regB u (linkBase 1) 0 ≠ (1#32).getLsbD 0
        ∧ regB u 0x8600 0 = false)
    ∧ Meets (modRec State.reset 0 (fun x => { x with wanted := true, tries := 3 })) (fun u => u.link.recs[(0 : Fin 8)].wanted = true
        ∧ 3 ≤ u.link.recs[(0 : Fin 8)].tries) := by decide +kernel

abbrev powSt (now : Nat) (f : PowerSt → PowerSt) : State :=
  { withReg 0x9020 0x182 (withReg 0x9000 2 State.reset) with time := { State.reset.time with now := now }, power := f State.reset.power }

theorem witness_Power_outputs_reload_trip_and_force :
    Meets (powSt 0 id) (fun u => regB u 0x9020 7 = true ∧ blankUntil u 0 = none ∧ regB u 0x9024 7 = false ∧ pathOpen .pcie u = true
        ∧ (∀ k : Fin 3, bits (0x111#32).toNat (4 * k + 1) (4 * k) < 2 ∧ bits (0x111#32).toNat (4 * k + 3) (4 * k + 2) < 2))
    ∧ Meets (modPlacer (powSt 0 id) 1 (fun p => { p with level := true, lastEdge := some 0, lastOn := some 0 })) (fun u => regB u 0x9020 7 = true ∧ blankUntil u 0 = some 160)
    ∧ Meets (powSt 160 (fun p => { p with trips := upd p.trips 0 (fun t => { t with waiting := some 0, blankEnd := some 160 }) })) (fun u =>
        u.power.trips[(0 : Fin 2)].waiting = some 0 ∧ u.power.trips[(0 : Fin 2)].blankEnd = some 160 ∧ 160 ≤ u.time.now)
    ∧ Meets (powSt (255 * msLsb) (fun p => { p with invalidSince := some 0 })) (fun u => u.power.invalidSince = some 0 ∧ powMode u = 2
        ∧ u.power.hallLost = false ∧ 0 + max 1 (regF u 0x9000 19 16) * msLsb ≤ u.time.now)
    ∧ (∀ b ∈ [false, true], Meets (modCh (withReg (chBase 0 + 0x0C) (ofBool b * 2 ^ 30) State.reset) 0 (fun c => { c with hl := { c.hl with tOff := some 0 } }))
        (fun u => regB u (chBase 0 + 0x0C) 30 = b ∧ u.power.ch[(0 : Fin 3)].hl.tOff = some 0 ∧ 0 ≤ u.time.now
          ∧ u.time.now ≤ 0 + dtLsb u.power.ch[(0 : Fin 3)].hl ∧ u.power.ch[(0 : Fin 3)].hl.samples.length < 7))
    ∧ Meets State.reset (fun u => u.power.ch[(0 : Fin 3)].last = none ∧ u.power.ch[(0 : Fin 3)].shadow = [] ∧ u.host.flight = []
        ∧ u.power.trips = Vector.replicate 2 {} ∧ u.power.hallLost = false) := by decide +kernel

/-- Two members, this one at position 0; link 0 is up; the time is `now`. -/
abbrev nkSt (now : Nat) (f : NorrakSt → NorrakSt) : State :=
  { withReg 0xA000 1 (st service) with time := { State.reset.time with now := now }, norrak := f { State.reset.norrak with
    members := [{ serial := 1, priority := 0, never := false }, { serial := 2, priority := 0, never := false }]
    links := upd State.reset.norrak.links 0 (fun l => { l with up := true, signal := true, aligned := true }) } }
abbrev hdr1 : NkHdr := { src := 1, dst := 0, bcast := false, folded := false, retx := false, ttl := 2, seq := 0 }
abbrev hello1 : Hello :=
  { serial := 2, check := 0, priority := 0, hostPresent := false, keeper := false, ringState := 0, keeperPos := 0, breaks := [] }
abbrev pub5 : Publication := { slot := 5, pos := 0, isLocal := true, horizonMs := 5 }
abbrev rec0 : TrajRec := { t := 0, p := 0, v := 0, a := 0, j := 0 }
abbrev tunnel0 : Tunnel := { desc := 0, ident := 3, dst := 1, count := 2, cplBuf := 0, dataBuf := 0, dataLen := 0 }

theorem witness_Ring_links_and_frames :
    Meets (nkSt 0 id) (fun u => nkOn u = true ∧ nkUp u 0 = true ∧ nkUp u 1 = false ∧ u.norrak.members ≠ [] ∧ u.norrak.helloAt = none
        ∧ (nkReceive 0 hdr1 0 0x00 (helloPayload hello1) u).2 = true ∧ hdr1.src ≠ u.norrak.position ∧ hello1.check = u.norrak.listCrc
        ∧ ({ hello1 with check := 1 } : Hello).check ≠ u.norrak.listCrc
        ∧ (nkReceive 0 hdr1 0 0x00 (helloPayload { hello1 with check := 1 }) u).2 = true
        ∧ (nkReceive 0 hdr1 0 0x03 (b1 1 ++ b1 0 ++ [0, 0] ++ leBytes 4 0) u).2 = true
        ∧ (nkReceive 0 hdr1 2 0x10 (leBytes 32 0) u).2 = true ∧ u.fault.buffer.length < 64
        ∧ (nkReceive 0 hdr1 3 0x18 (leBytes 2 0 ++ [0, 0]) u).2 = true)
    ∧ Meets (nkSt msLsb (fun k => { k with state := .chain, members := k.members.map (fun m => { m with heardAt := some 0 }) })) (fun u =>
        (List.range (nkCount u)).filter (fun i => !heard u i) = [1] ∧ u.norrak.state = .chain)
    ∧ Meets (nkSt 0 (fun k => { k with keeper := 1 })) (fun u => parentLink u = some 0 ∧ nkUp u 0 = true ∧ u.norrak.syncAt = none)
    ∧ Meets (nkSt (100 * usLsb) (fun k => { k with links := upd k.links 0 (fun l => { l with syncT1 := some (0, 0) }) })) (fun u =>
        u.norrak.links[(0 : Fin 2)].syncT1 = some (0, 0) ∧ nkUp u 0 = true ∧ 0 + 100 * usLsb ≤ u.time.now)
    ∧ Meets (nkSt 0 (fun k => { k with pubs := [{ pub5 with unsent := List.replicate 8 rec0 }] })) (fun u =>
        localPub u 5 = some { pub5 with unsent := List.replicate 8 rec0 }
        ∧ (nkReceive 0 hdr1 1 0x08 (trajBytes { slot := 5, final := false, cForce := 0, cPend := 0, cAct := 0, stopDec := 0, stopJerk := 0, recs := [] }) u).2 = true)
    ∧ Meets (nkSt 0 (fun k => { k with tunnels := [tunnel0] })) (fun u => (nkReceive 0 hdr1 3 0x19 (leBytes 2 3 ++ [0, 0] ++ leBytes 32 0) u).2 = true
        ∧ (nkReceive 0 hdr1 3 0x19 (leBytes 2 3 ++ [0, 0] ++ leBytes 32 0) u).1.norrak.tunnels.find? (fun t => t.ident == 3 && t.dst == hdr1.src) = some tunnel0
        ∧ tunnel0.got.length + 1 < tunnel0.count)
    ∧ Meets (nkSt (20 * usLsb) (fun k => { k with links := upd k.links 0 (fun l => { l with
        unackedRx := 4, vcs := upd l.vcs 1 (fun v => { v with sentAt := some 0 }) }) })) (fun u => nkUp u 0 = true ∧ 4 ≤ u.norrak.links[(0 : Fin 2)].unackedRx
        ∧ u.norrak.links[(0 : Fin 2)].vcs[(1 : Fin 4)].sentAt = some 0 ∧ 0 + 20 * usLsb ≤ u.time.now)
    ∧ Meets (nkSt 0 (fun k => { k with state := .partitioned, pubs := [{ pub5 with cPend := 5 }] })) (fun u =>
        u.norrak.pubs[0]? = some { pub5 with cPend := 5 } ∧ 0 ≤ diff64 (domNow u .d1) 0 ∧ u.norrak.state = .partitioned) := by decide +kernel

/-! ### Witnesses: CAN, Quire, Firebreak, faults, lifecycle and tallies (14 to 19) -/

/-- Controller 0 in normal mode with its schedule on as a time master, changed by `f`, at the time `now`. -/
abbrev canSt (now sched : Nat) (f : Can → Can) : State :=
  modCan { withReg (canBase 0 + 0x300) 0x80010000 (withReg (canBase 0 + 0x30) sched (withReg (canBase 0) 1 (st service))) with
    time := { State.reset.time with now := now, d2 := { State.reset.time.d2 with state := .locked } } } 0 f
abbrev frame1 : CanFrame := { ident := 1, brs := false, esi := false, dlc := 0, data := [] }
abbrev slotTx (a : Nat) (sof : Option Nat) : CanSlot :=
  { desc := 0, frame := frame1, scheduled := false, window := 0, apply := some ⟨.d0, 0⟩, since := 0, eligible := true, attempts := a, sof := sof }

theorem witness_Can_frames_and_schedule :
    Meets (canSt 0 0 (fun c => { c with slots := [(0, slotTx 1 none)] })) (fun u => canDrives u 0 = true ∧ attempting u 0 = false
        ∧ u.can[(0 : Fin 2)].refDue = false ∧ offered u.can[(0 : Fin 2)] = some (0, slotTx 1 none) ∧ 0 < (slotTx 1 none).attempts
        ∧ (0, slotTx 1 none) ∈ u.can[(0 : Fin 2)].slots ∧ (slotTx 1 none).apply = some ⟨.d0, 0⟩ ∧ toD0 u ⟨.d0, 0⟩ ≤ 0
        ∧ canMode u 0 = 1 ∧ identFd frame1.ident = false ∧ u.can[(0 : Fin 2)].state = .active)
    ∧ Meets (canSt 0 0 (fun c => { c with slots := [(0, slotTx 1 (some 0))] })) (fun u => attempt u 0 = some (0, slotTx 1 (some 0))
        ∧ (slotTx 1 (some 0)).cancel = none)
    ∧ Meets (canSt 0 0 (fun c => { c with state := .recovering, recover := some 0 })) (fun u => u.can[(0 : Fin 2)].state = .recovering
        ∧ u.can[(0 : Fin 2)].recover = some 0) := by decide +kernel
theorem witness_Can_frames_and_schedule_cycles :
    Meets (canSt (100 * usLsb) 3 (fun c => { c with cycleStart := some 0, running := true })) (fun u => schedOn u 0 = true
        ∧ regB u (canBase 0 + 0x30) 1 = true ∧ canDrives u 0 = true ∧ u.can[(0 : Fin 2)].refDue = false ∧ u.can[(0 : Fin 2)].cycleStart = some 0
        ∧ (cycleLsb u 0 : Int) ≤ diff64 (domNow u .d2) 0)
    ∧ Meets (canSt 0 1 id) (fun u => schedOn u 0 = true ∧ canHears u 0 = true ∧ attempting u 0 = false ∧ u.can[(0 : Fin 2)].prevSof = none
        ∧ canRank u 0 ≤ (0#3).toNat)
    ∧ Meets (canSt (1600 * usLsb) 1 (fun c => { c with cycleStart := some 0, running := true, prevSof := some 0 })) (fun u => schedOn u 0 = true
        ∧ (regB u (canBase 0 + 0x30) 1 && canDrives u 0) = false ∧ u.can[(0 : Fin 2)].cycleStart = some 0 ∧ refLost u 0 = true
        ∧ 1 ≤ (diff64 (domNow u .d2) 0).toNat / cycleLsb u 0)
    ∧ (∀ b ∈ [false, true], Meets (withReg (canBase 0) (1 + 16 * ofBool b) (st service)) (fun u => canMode u 0 ≠ 0 ∧ regB u (canBase 0) 4 = b
        ∧ u.can[(0 : Fin 2)].state ≠ .busOff ∧ u.can[(0 : Fin 2)].state ≠ .recovering)) := by decide +kernel
theorem witness_Can_frames_and_schedule_windows :
    Meets (canSt (160 * usLsb / 16 - 1) 1 (fun c => { c with cycleStart := some 0, running := true })) (fun u => windowSpan u 0 0 = some (0, 160000)
        ∧ u.can[(0 : Fin 2)].running = true ∧ 0 ≤ diff64 (domNow u .d2) 0 ∧ diff64 (domNow u .d2) 0 < 160000 ∧ u.can[(0 : Fin 2)].opened.contains 0 = false)
    ∧ Meets (canSt 0 1 (fun c => { c with open_ := [(0, 0)] })) (fun u => u.can[(0 : Fin 2)].open_.find? (fun o => o.1 == 0) = some (0, 0)
        ∧ 0 ≤ diff64 (domNow u .d2) 0) := by decide +kernel

/-- A stop that takes effect at the present sample. -/
abbrev stopIn : InFlight := { flying 0x80 (pay [(16, 2)]) with target := ⟨11, 0⟩ }
/-- A frame that waits for its bulk stream. -/
abbrev rxBulk : RxFrame := { frame := frame1, filter := 0, loopback := false, stamp := ⟨.d0, 0⟩, rxSeq := 0, bulk := true }
/-- The capture of a QUIRE_ARM with streaming. -/
abbrev armIn : InFlight := { flying 0x80 (pay [(22, 1), (32, 1), (36, 255), (37, 255)]) with target := ⟨11, 0⟩ }
abbrev streams : State := withReg (strBase 0 + 8) 0x89 rich

theorem witness_Quire_samples_and_check_units :
    (∀ x ∈ [([], false), ([stopIn], true)], Meets (modHost (modQuire rich (fun q => { q with
        state := .armed, next := some 0, cfg := some (qcfgOf armIn rich), history := upd q.history 0 (fun _ => [(0, 7)]) }))
        (fun h => { h with flight := x.1 })) (fun u =>
      waitingArm u = none ∧ u.quire.next = some 0 ∧ u.quire.cfg = some (qcfgOf armIn rich) ∧ quireArmed u = true
      ∧ 0 ≤ diff64 (domNow u (qcfgOf armIn rich).dom) 0
      ∧ (qcfgOf armIn rich).chans.map (fun ch => valueAt u (Fin.ofNat 16 ch) (0 + BitVec.ofInt 64 (chanSkew u (Fin.ofNat 16 ch)))) = [7].map some
      ∧ (stopCommands 0 (qcfgOf armIn rich).dom
          { u with quire := { u.quire with next := some (0 + BitVec.ofNat 64 u.quire.period) } }).2 = x.2))
    ∧ Meets (modHost (modQuire rich (fun q => { q with state := .armed })) (fun h => { h with flight := [armIn] })) (fun u =>
      waitingArm u = some (armIn, 0) ∧ u.quire.next = none ∧ (startCapture armIn 0 u).quire.next = none)
    ∧ (∀ b ∈ [false, true], Meets (modCan (withReg (strBase 0 + 8) (0x180 + 9 * ofBool b)
          { st service with time := { State.reset.time with now := msLsb } }) 0 (fun x => { x with buffer := [rxBulk] })) (fun u =>
        strSource u 0 = 3 ∧ (u.can[(0 : Fin 2)].buffer.filter (fun y => y.bulk)).head? = some rxBulk ∧ min (chunkRoom u 0 / 80) 1 = 1
        ∧ toD0 u rxBulk.stamp + msLsb ≤ u.time.now ∧ (writeChunk 0 rxBulk.stamp (rxItem u 0 rxBulk) u).2 = b))
    ∧ Meets (withReg (strBase 0 + 8) 0x189 State.reset) (fun u => strSource u 0 = 3 ∧ u.can[(0 : Fin 2)].buffer.filter (fun y => y.bulk) = [])
    ∧ (∀ x ∈ [(0, 0x101, false), (0, 1, true), (1, 1, true)], Meets (withReg (chkBase 0) x.1 State.reset) (fun u => pathOpen .pcie u = true
        ∧ chkOn u 0 = (x.1 == 1) ∧ chkBad u 0 x.2.1 = x.2.2))
    ∧ Meets (modHost streams (fun h => { h with flight := [armIn] })) (fun u => (waitingArm u).isSome = true ∧ u.quire.state = .idle
        ∧ firstFail (quireState armIn u) = none ∧ (qcfgOf armIn u).stream = true ∧ strSource u 0 = 1 ∧ quireRing u = some 0)
    ∧ strSource (withReg (strBase 0 + 8) 0x189 State.reset) 0 = 3 ∧ strSource (withReg (strBase 0 + 8) 0x209 State.reset) 0 = 4 := by
  decide +kernel

abbrev fbSt (now : Nat) (f : FirebreakSt → FirebreakSt) : State := modFb { State.reset with time := { State.reset.time with now := now } } f

/-- Firebreak's ticks do not move where no time passes: with it, the numbers compared with below are those of the states. -/
theorem begin_zero_ticks (s : State) (h : s.firebreak.tickFrac = 0) : (begin 0 s).firebreak.ticks = s.firebreak.ticks := by
  show (tick 0 { s with out := [] }).firebreak.ticks = _
  simp [tick, h]
theorem witness_Firebreak_inputs_functions_and_checks :
    (∀ r ∈ [(true, false, false), (false, false, true), (true, true, true)], Meets (modSinCh (fbSt 0 (fun b => { b with ticks := 100 })) 0 (fun c => { c with
        released := r.1, demand := r.2.1, filtering := r.2.2, since := 0 })) (fun u => u.firebreak.chans[(0 : Fin 4)].released = r.1
          ∧ u.firebreak.chans[(0 : Fin 4)].demand = r.2.1 ∧ u.firebreak.chans[(0 : Fin 4)].filtering = r.2.2
          ∧ u.firebreak.chans[(0 : Fin 4)].since + (sinEntry u (sinOf 0)).dfilt ≤ 100
          ∧ u.firebreak.chans[(0 : Fin 4)].since + 100 * (sinEntry u (sinOf 0)).filterMs ≤ 100))
    ∧ Meets (fbSt 0 (fun b => { b with ticks := 500, ins := upd b.ins 0 (fun x => { x with differSince := some 0 }) })) (fun u =>
        u.firebreak.ins[(0 : Fin 2)].differSince = some 0 ∧ u.firebreak.ins[(0 : Fin 2)].discrepancy = false
        ∧ 0 + 100 * (sinEntry u 0).discMs ≤ 500)
    ∧ Meets (fbSt 0 (fun b => { b with groups := upd b.groups 0 (fun g => { g with stoAt := some 0, limitAt := some 0 }), faultAt := some 0 })) (fun u =>
        u.firebreak.groups[(0 : Fin 8)].stoAt = some 0 ∧ u.firebreak.groups[(0 : Fin 8)].limitAt = some 0 ∧ u.firebreak.faultAt = some 0
        ∧ 0 * 10 + 11 * ss1Ms u * msLsb ≤ u.time.now * 10)
    ∧ Meets (fbSt 0 (fun b => { b with ticks := 100 })) (fun u => u.firebreak.windowAt + 100 ≤ 100 ∧ u.firebreak.mons = []
        ∧ (modFb (liftSto u) (fun fb => { fb with windowAt := fb.ticks })).firebreak.mons = []) := by decide +kernel
theorem witness_Firebreak_inputs_functions_and_checks_outputs :
    Meets (fbSt 0 (fun b => { b with stoOut := true })) (fun u => u.firebreak.stoOut = true)
    ∧ Meets (modEp (st id) 0 (fun x => { x with stoSince := some 0 })) (fun u => u.link.eps[(0 : Fin 12)].stoSince = some 0
        ∧ u.link.eps[(0 : Fin 12)].stoReported = false ∧ u.link.eps[(0 : Fin 12)].stoFailed = false ∧ 0 + leAt u.firebreak.record 26 2 * msLsb ≤ u.time.now)
    ∧ Meets State.reset (fun u => u.firebreak.edmOpen = 0#2 ∧ u.firebreak.cdrv = false)
    ∧ Meets (fbSt 0 (fun b => { b with ticks := 1000, cdrvAt := some 0, edmFault := true, record := List.replicate 22 0 ++ [10, 1] })) (fun u =>
        u.firebreak.cdrvAt = some 0 ∧ bit (edmMask u) 0 = true ∧ 0 + edmTicks u ≤ 1000
        ∧ u.firebreak.edmOpen.getLsbD 0 = u.firebreak.cdrv)
    ∧ Meets (fbSt 0 (fun b => { b with edmFault := true, edmOpen := 1, record := List.replicate 22 0 ++ [10, 1] })) (fun u =>
        u.firebreak.edmFault = true ∧ edmAll u true = true)
    ∧ Meets (st served) (fun u => svcUp u = true ∧ slotsOn u = false ∧ u.life.state ≠ .commissioned ∧ u.life.state ≠ .retired)
    ∧ Meets (fbSt 0 (fun b => { b with record := [1] })) (fun u => u.firebreak.faultKind = 0 ∧ u.firebreak.record ≠ [] ∧ u.firebreak.selftestOk = false) := by
  decide +kernel

abbrev chipEntry (h : HState) : Entry := { source := 5, level := .warning, stamp := 0, hstate := h }
/-- One waiting handling of the chip ledger, with an action. -/
abbrev actSt (a : Option Handling) : State := { st rings with fault := { State.reset.fault with
  ledgers := upd State.reset.fault.ledgers 1 (fun l => { l with entries := [some { chipEntry .waiting with action := a }] }) } }
abbrev entrySt (h : HState) : State := { st rings with fault := { State.reset.fault with
  ledgers := upd State.reset.fault.ledgers 1 (fun l => { l with entries := [some (chipEntry h)] })
  buffer := [{ source := 5, sev := .note, seq := 1, stamp := ⟨.d0, 0⟩, payload := [] }] } }

theorem witness_Faults_are_acknowledged_cleared_and_written :
    Meets State.reset (fun u => pathOpen .pcie u = true ∧ u.fault.chipGroups.any (fun g => u.axis.groups[g].ss1) = false ∧ u.life.tj ≤ 125 ∧ 6 ≤ inService u)
    ∧ Meets (modGroup { State.reset with fault := { State.reset.fault with chipGroups := [0] } } 0 (fun g => { g with ss1 := true })) (fun u =>
        u.fault.chipGroups.any (fun g => u.axis.groups[g].ss1) = true)
    ∧ Meets (entrySt .waiting) (fun u => entryAt u ⟨1, 0⟩ = some (chipEntry .waiting) ∧ startsNext u ⟨1, 0⟩ (chipEntry .waiting) = true
        ∧ (chipEntry .waiting).action = none ∧ inProgress (chipEntry .waiting) = true ∧ evqFree u = true ∧ u.fault.buffer.length = 1 ∧ u.fault.lostCount = 0)
    ∧ (∀ a ∈ [none, some Handling.isolate, some (.ss1 3)], Meets (actSt a) (fun u => entryAt u ⟨1, 0⟩ = some { chipEntry .waiting with action := a }
        ∧ startsNext u ⟨1, 0⟩ { chipEntry .waiting with action := a } = true))
    ∧ Meets (entrySt .idle) (fun u => entryAt u ⟨1, 0⟩ = some (chipEntry .idle) ∧ startsNext u ⟨1, 0⟩ (chipEntry .idle) = false)
    ∧ (∀ n ∈ [0, 15], Meets (modWr (withReg 0x1308 0x20009 { entrySt .idle with fault := { (entrySt .idle).fault with lostCount := 1 } }) .evq (fun w => { w with used := n })) (fun u =>
        evqFree u = true ∧ u.fault.lostCount ≠ 0 ∧ (reportLost u).fault.buffer.length = 1 ∧ evqFree (reportLost u) = decide (n = 0)))
    ∧ Meets State.reset (fun u => u.fault.buffer = [])
    ∧ Meets (actSt (some .isolate)) (fun u => inProgress { chipEntry .waiting with level := .stop } = true ∧ u.fault.faultLow = true)
    ∧ Meets (entrySt .idle) (fun u => u.fault.ledgers[(1 : Fin 7)].entries[0]? = some (some (chipEntry .idle)) ∧ inProgress (chipEntry .idle) = false
        ∧ (chipEntry .idle).level ≠ .stop) := by decide +kernel

abbrev park0 : ParkEntry :=
  { slot := 0, step := false, ep := 0, fb := 1, method := 0, neg := false, pin := 0, falling := false, order := 0, group := 0, target := 0, maxTravel := 0
    vPark := 0, aPark := 0, iLimit := 0, kpPos := 0, kpVel := 0, kiVel := 0 }
abbrev lifeSt (now : Nat) (f : LifeSt → LifeSt) : State := { State.reset with time := { State.reset.time with now := now }, life := f State.reset.life }

theorem witness_Lifecycle_tallies_and_backup :
    Meets (st served) (fun u => pathOpen .svc u = true ∧ lifeOf (bits (0x50004#32).toNat 2 0) = some .retired ∧ bits (0x50004#32).toNat 15 3 = 0
        ∧ u.life.changing = none)
    ∧ Meets { st served with life := { (st served).life with state := .commissioned } } (fun u => svcUp u = true ∧ svcNoWrites u = true)
    ∧ State.reset.chip.powerGood = true
    ∧ Meets (lifeSt 0 (fun l => { l with changing := some (.service, none) })) (fun u => u.life.changing = some (.service, none))
    ∧ Meets (lifeSt (3600 * secLsb) id) (fun u => u.tally.lastWrite + 3600 * secLsb ≤ u.time.now)
    ∧ Meets { State.reset with tally := { State.reset.tally with poweredS := 2 * 365 * 86400 } } (fun u => 2 * 365 * 86400 ≤ sinceRefresh u)
    ∧ Meets (lifeSt (100 * msLsb) (fun l => { l with runs := [{ entry := park0, own := true }] })) (fun u =>
        u.life.runs[0]? = some { entry := park0, own := true } ∧ epPresent u park0.ep = false ∧ u.life.parkAt + 100 * msLsb ≤ u.time.now)
    ∧ (begin 0 { State.reset with chip := { State.reset.chip with powerGood := false } }).chip.powerGood = false
    ∧ State.reset.life.calValid = false := by decide +kernel
/-- LIFE_REQ names the low half of the serial number, here for the value 5. -/
theorem witness_Lifecycle_tallies_and_backup_serial (h : Config.serial = 5) : firstFail (lifeState 4 5 (begin 0 (st served))) = none := by
  unfold lifeState
  rw [h]
  decide +kernel

/-! ### Witnesses: the addressed stores (05, 06) -/

theorem witness_Glade_words_change_only_where_addressed :
    Memory.wf zero0 laneSt.glade.words = true ∧ tabFree rich.glade.leases 128 = some 2 ∧ (placeLease rich 255 60).isSome = true
    ∧ (∀ b ∈ List.range' 128 64, cellGet zero0 laneSt.glade.words b = 0)
    ∧ (relAddr (spaceOf laneSt run3.job.owner) 17).isSome = true ∧ run3.staged = [(17, 9)] := by decide +kernel
theorem witness_Folio_and_program_ram_change_only_where_addressed :
    Memory.wf zero0 laneSt.glade.folio = true ∧ Memory.wf zero0 laneSt.canopy.ram = true
    ∧ pU (pay [(16, 0x1000), (28, 2)]) 28 1 = 2 ∧ pU (pay [(16, 0x1000), (26, 1)]) 28 1 ≠ 2
    ∧ (match findLeaves 600 (bufWords leafWords) 0 [] with | .inl l => l.length | .inr _ => 0) = 1 := by decide +kernel

/-! ### Well-formed commands: an ill-formed one for each check -/

theorem test_wf_descriptor_fetch : (Instr.descriptorFetch 0 0 (.ok (List.replicate 4097 ⟨0, ⟨[], true⟩⟩))).wf = false
    ∧ (Instr.descriptorFetch 0 0 (.ok [])).wf = true := by decide +kernel
theorem test_wf_svc_write : (Instr.svcWrite 0 0 []).wf = false ∧ (Instr.svcWrite 0 0 [0]).wf = true := by decide +kernel
theorem test_wf_svc_read : (Instr.svcRead 0 0 0).wf = false ∧ (Instr.svcRead 0 0 1).wf = true := by decide +kernel
theorem test_wf_scrub_read : (Instr.scrubRead 0 .glade 6144 .clean).wf = false ∧ (Instr.scrubRead 0 .glade 6143 .clean).wf = true := by decide +kernel
theorem test_wf_can_rx_frame : (Instr.canRxFrame 0 0 { frame1 with dlc := 1 } 0).wf = false ∧ (Instr.canRxFrame 0 0 frame1 0).wf = true := by
  decide +kernel
theorem test_wf_hello_rx : (Instr.helloRx 0 0 hdr1 { hello1 with breaks := List.replicate 33 0 }).wf = false
    ∧ (Instr.helloRx 0 0 hdr1 hello1).wf = true := by decide +kernel

/-! ### The spec's numbers -/

/-- Chapter 00, R5: the example of a T32 32 ns old; at a distance of exactly 2^31 the earlier candidate. -/
theorem test_resolve32 : resolve32 0x100000100#64 0xFFFFFF00#32 = 0xFFFFFF00#64
    ∧ resolve32 0x100000000#64 0x80000000#32 = 0x80000000#64 := by decide +kernel
/-- R438, R342, R366: the check values over the ASCII string 123456789. -/
theorem test_check_values : crc32 [0x31, 0x32, 0x33, 0x34, 0x35, 0x36, 0x37, 0x38, 0x39] = 0xCBF43926
    ∧ crc32c [0x31, 0x32, 0x33, 0x34, 0x35, 0x36, 0x37, 0x38, 0x39] = 0xE3069283
    ∧ crc16 0x1021 [0x31, 0x32, 0x33, 0x34, 0x35, 0x36, 0x37, 0x38, 0x39] = 0x29B1 := by decide +kernel
/-- R438: a general unit set to a format's parameters reproduces its value. -/
theorem test_check_unit : checkRun 16 0x1021 false 0xFFFF [0x31, 0x32, 0x33, 0x34, 0x35, 0x36, 0x37, 0x38, 0x39] = 0x29B1 := by decide +kernel

/-- Chapter 02, worked example: a slot of 8 cadences at the given instant of acceptance. -/
abbrev feedAt (now : Nat) : State := modSlot { State.reset with time := { State.reset.time with now := now } } 1 (fun sl => { sl with
  bind := some { bindVirt with outCad := 3 }, mode := .auto })
/-- Chapter 02, worked example: the sample chosen for the apply time 7,812,500,250,000, accepted early and 625 ns before that sample. -/
theorem test_apply_chooses_the_sample :
    chooseSample 1 false { bindVirt with outCad := 3 } (some ⟨.d0, 7812500250000⟩) (feedAt 7812497050000) = 7812501000000#64
    ∧ chooseSample 1 false { bindVirt with outCad := 3 } (some ⟨.d0, 7812500250000⟩) (feedAt 7812500990000) = 7812502000000#64 := by decide +kernel
/-- Chapter 04, example: 4 words from 0x0FF8; words 3 and 4 lie beyond the block end and set RANGE for the next reply. -/
theorem test_read_past_the_block_end : let t := after! (exec (.svcRead 0 0x000FF8 4) (st served))
    t.out = [.status 0, .words [0, 0, 0, 0]] ∧ t.svc.range = true ∧ t.svc.frames = 1 := by decide +kernel
/-- R119: STATUS returns the status byte and CHIP_STATUS. -/
theorem test_status_frame : (after! (exec (.svcStatus 0) (st served))).out = [.status 0, .words [readReg (st served) 0x10]] := by decide +kernel
/-- R110: a read-only register keeps its value under a write. -/
theorem test_read_only_write : (after! (exec (.registerWrite 0 .pcie 0x2004 0xFFFFFFFF 15) State.reset)).regs = [] := by decide +kernel
/-- R112: a write with byte enables that do not cover the word is discarded and counted. -/
theorem test_partial_write : let t := after! (exec (.registerWrite 0 .pcie 0x2200 1 7) State.reset)
    t.regs = [] ∧ t.host.partialWrites = 1 := by decide +kernel
/-- R67: the enable of PPS_OUT is kept. -/
theorem test_register_write : reg (after! (exec (.registerWrite 0 .pcie 0x2200 1 15) State.reset)) 0x2200 % 2 = 1 := by decide +kernel
/-- R81: a tail of 65,536 has bits that must be zero: the ring is in error, with kind 2. -/
theorem test_doorbell_bad_bits : (after! (exec (.sqTail 0 0 0x10000) (st rings))).host.sq[(0 : Fin 8)].error = true
    ∧ (after! (exec (.sqTail 0 0 0x10000) (st rings))).host.sq[(0 : Fin 8)].errKind = 2 := by decide +kernel
/-- R81: a tail at the size of the ring is out of range, kind 1; the one below is recorded. -/
theorem test_doorbell_range : (after! (exec (.sqTail 0 0 16) (st rings))).host.sq[(0 : Fin 8)].errKind = 1
    ∧ (after! (exec (.sqTail 0 0 15) (st rings))).host.sq[(0 : Fin 8)].tail = 15 := by decide +kernel
/-- R130: a sum beyond the range of a data register is replaced by the nearest value and sets sat. -/
theorem test_add_saturates : sat24 (2 ^ 23 - 1 + 1) = (2 ^ 23 - 1, true) ∧ sat24 (-(2 ^ 23) - 1) = (-(2 ^ 23), true)
    ∧ sat24 (2 ^ 23 - 1) = (2 ^ 23 - 1, false) := by decide +kernel
/-- R130: rounding mode 0 takes a tie to the even value. -/
theorem test_ties_to_even : roundDiv 1 2 = 0 ∧ roundDiv 3 2 = 2 ∧ roundDiv (-1) 2 = 0 ∧ roundDiv (-3) 2 = -2 := by decide +kernel
/-- R139: LDI sign-extends its 22 bits. -/
theorem test_ldi : (after! (exec (.ldi 0 laneOp0 2 0x3FFFFF) laneSt)).canopy.lanes[(0 : Fin 9)].run.map (fun r => r.v[(2 : Fin 16)])
    = some 0xFFFFFF := by decide +kernel
/-- R140: an undefined condition code stops the run by its name. -/
theorem test_undefined_condition : exec (.skip 0 laneOp0 8 1) laneSt = .fault .conditionCode := rfl
/-- R42: D0 advances by 40 at each tick. -/
theorem test_time_passes : (after! (exec (.referenceLock 40) State.reset)).time.now = 40 := by decide +kernel
/-- R103: a heartbeat is stamped with the instant of its write. -/
theorem test_heartbeat : (after! (exec (.heartbeat 1600) State.reset)).host.hbLast.d0 = 1600 := by decide +kernel
/-- R114: the upd_seq of TIME_STATUS counts the change of ref_locked, and no other register's does. -/
theorem test_upd_seq : updSeq (after! (exec (.referenceLock 0) State.reset)) 0x2004 = 1
    ∧ updSeq (after! (exec (.referenceLock 0) State.reset)) 0x10 = 0 := by decide +kernel
/-- R468: Firebreak's start-up self-test passed, FAULT_N rises. -/
theorem test_fault_n_rises : (after! (exec (.fbStartupSelftest 0 true) (st service))).fault.faultLow = false := by decide +kernel
/-- A word spells no command: no row of the table gives bits. -/
theorem test_no_words : decodeTableWord 8 0 = none ∧ State.reset.withFetchWord 8 0 = State.reset := by
  exact ⟨rfl, rfl⟩

end Sys2Proof.Tests
end

section
/-!
PROOF. Family 01: what each command of the snapshots, of the jobs and lanes, and of the slots' schedules does in the
cases the statements name, each stated once about its effect; the statements follow by the runner's law.
-/

namespace Sys2Proof.Machine

/-- A command that runs an effect, out of reset, answers the close of what the effect leaves. -/
theorem exec_closes {i : Instr} {dt : Nat} {s t : State} {eff : State → State} (hi : exec i s = run dt s eff)
    (hs : s.life.inReset = false) (ht : eff (begin dt s) = t) : exec i s = .next (closing (begin dt s) t) := by
  rw [hi, run_next dt s eff hs, ht]

/-- The same for a register write, through an open path. -/
theorem exec_closes_gated {i : Instr} {dt : Nat} {s t : State} {path : Path} {eff : State → State}
    (hi : exec i s = run dt s (pathGate path eff)) (hs : s.life.inReset = false) (hp : pathOpen path (begin dt s) = true)
    (ht : eff (begin dt s) = t) : exec i s = .next (closing (begin dt s) t) :=
  exec_closes hi hs ((pathGate_open path eff _ hp).trans ht)

/-! ### Updates depend on what they find -/

/-- An element replaced depends on the new element only. -/
theorem upd_congr {α : Type} {m : Nat} {v : Vector α m} {i : Fin m} {f g : α → α} (h : f v[i] = g v[i]) : upd v i f = upd v i g :=
  congrArg (fun x => v.set i.val x i.isLt) h

theorem modSlot_congr {s : State} {n : Fin 32} {f g : Slot → Slot} (h : f s.axis.slots[n] = g s.axis.slots[n]) :
    modSlot s n f = modSlot s n g := by
  rw [modSlot, modSlot, upd_congr h]

theorem modLtc_congr {s : State} {n : Fin 4} {f g : Lattice → Lattice} (h : f s.pins.ltc[n] = g s.pins.ltc[n]) :
    modLtc s n f = modLtc s n g := by
  rw [modLtc, modLtc, upd_congr h]

/-- What is written to a schedule depends on the schedule found only. -/
theorem modSched_congr {s : State} {o : Owner} {sc : Sched} {f g : SchedSt → SchedSt} (h : f (schedOf s o sc) = g (schedOf s o sc)) :
    modSched s o sc f = modSched s o sc g := by
  match o, sc with
  | .slot n, .current => exact modSlot_congr (congrArg (fun x => { s.axis.slots[n] with curSched := x }) h)
  | .slot n, .outer => exact modSlot_congr (congrArg (fun x => { s.axis.slots[n] with outSched := x }) h)
  | .lattice n, _ => exact modLtc_congr (congrArg (fun x => { s.pins.ltc[n] with sched := x }) h)

/-! ### Snapshots (R36 to R38, R56, R505) -/

section Snapshots

variable {s : State}

theorem auditSnapEff_idle (h : s.chip.auditBusy = false) :
    auditSnapEff s = { s with chip := { s.chip with
      auditBusy := true
      imageNext := auditWords s (Fin.ofNat 32 (regF s 0x0204 4 0))
      copied := auditCopy s (Fin.ofNat 32 (regF s 0x0204 4 0)) } } :=
  if_neg (by simp [h])

theorem auditSnapEff_busy (h : s.chip.auditBusy = true) : auditSnapEff s = s := if_pos h

/-- R38: the state in which the copy of a snapshot has become the image. -/
def auditImaged (s : State) : State :=
  { s with chip := { s.chip with auditBusy := false, image := s.chip.imageNext, imageNext := [], snapSeq := s.chip.snapSeq + 1 } }

theorem auditDoneEff_busy (h : s.chip.auditBusy = true) :
    auditDoneEff s = if s.chip.copied.void then auditImaged s
      else (auditFails s.chip.copied s.chip.imageNext).foldl
        (fun s k => emit { source := 9, sev := .fault, chip := true, idx := k, payload := b1 k } s) (auditImaged s) :=
  if_neg (by simp [h])

theorem auditDoneEff_void (h : s.chip.auditBusy = true) (hv : s.chip.copied.void = true) : auditDoneEff s = auditImaged s := by
  rw [auditDoneEff_busy h, if_pos hv]

theorem auditDoneEff_judged (h : s.chip.auditBusy = true) (hv : s.chip.copied.void = false) :
    auditDoneEff s = (auditFails s.chip.copied s.chip.imageNext).foldl
      (fun s k => emit { source := 9, sev := .fault, chip := true, idx := k, payload := b1 k } s) (auditImaged s) := by
  rw [auditDoneEff_busy h, if_neg (by simp [hv])]

theorem xsnapEff_idle (h : s.time.xsnapBusy = false) :
    xsnapEff s = { s with time := { s.time with xsnapBusy := true, xsnap := xsnapWords s } } :=
  if_neg (by simp [h])

theorem xsnapEff_busy (h : s.time.xsnapBusy = true) : xsnapEff s = s := if_pos h

theorem xsnapTakenEff_busy (h : s.time.xsnapBusy = true) :
    xsnapTakenEff s = emit { source := 42, sev := .note, payload := [s.time.xsnapSeq + 1] }
      { s with time := { s.time with xsnapBusy := false, xsnapSeq := s.time.xsnapSeq + 1 } } :=
  if_pos h

end Snapshots

/-- Settles O15: each command runs its effect, through an open path where it is a register write, and the effect's case is
decided by the busy flag (and, at completion, by whether the copy was void). -/
theorem snapshotsAreTakenAndComplete : Obligations.Snapshots_are_taken_and_complete := by
  unfold Obligations.Snapshots_are_taken_and_complete
  intro dt path s u hs hu hp
  subst hu
  refine ⟨fun h => ?_, fun h => ?_, fun h w hw => ⟨fun hv => ?_, fun hv => ?_⟩, fun h => ?_, fun h => ?_, fun h => ?_, ?_⟩
  · exact exec_closes_gated rfl hs hp (auditSnapEff_idle h)
  · exact exec_closes_gated rfl hs hp (auditSnapEff_busy h)
  · exact exec_closes rfl hs ((auditDoneEff_void h hv).trans hw.symm)
  · subst hw
    exact exec_closes rfl hs (auditDoneEff_judged h hv)
  · exact exec_closes_gated rfl hs hp (xsnapEff_idle h)
  · exact exec_closes_gated rfl hs hp (xsnapEff_busy h)
  · exact exec_closes rfl hs (xsnapTakenEff_busy h)
  · exact exec_closes_gated (eff := tallySnapEff) rfl hs hp rfl

/-! ### Jobs, lanes and the governor (R17, R128, R129, R142 to R144, R149 to R155) -/

section Jobs

variable {s : State} {o : Owner} {sc : Sched} {j : Job}

theorem jobReadyEff_slot {n : Fin 32} {b : Binding} (hj : (schedOf s (.slot n) sc).forming = some j)
    (hb : s.axis.slots[n].bind = some b) (hr : reached s j.ts = true) (hi : inputsIn s n b j.ts = true) :
    jobReadyEff (.slot n) sc s = queueSlotJob n b j s := by
  simp only [jobReadyEff, hj, hr, Bool.not_true, Bool.false_eq_true, if_false, hb, hi, if_true]

theorem jobReadyEff_lattice {k : Fin 4} {vals : List (Int × Bool)} {w : State}
    (hj : (schedOf s (.lattice k) sc).forming = some j) (hr : reached s j.ts = true) (hi : ltcReady s k j.ts.t = true)
    (hw : (vals, w) = freeInputs 4 2 (fun _ => false) (schedOf s (.lattice k) sc).lastIns s) :
    jobReadyEff (.lattice k) sc s = queueWith j vals (modSched w (.lattice k) sc (fun c => { c with forming := none })) := by
  simp [jobReadyEff, hj, hr, hi, ← hw]

/-- R17: with no recompute to grant, the first of the other jobs starts on the free lane. -/
theorem jobGrantEff_first {k : Fin 9} (hn : firstJob s (s.canopy.queue.filter (fun x => x.recompute && !jobHeld s x)) = none)
    (hj : firstJob s (s.canopy.queue.filter (fun x => !x.recompute)) = some j) (hk : freeLane s = some k) :
    jobGrantEff s = startJob k j s := by
  simp only [jobGrantEff, hn, hj, hk, Option.bind_none]

/-- R17, R155: a recompute that has its lane starts before every other job. -/
theorem jobGrantEff_recompute {k : Fin 9}
    (hj : firstJob s (s.canopy.queue.filter (fun x => x.recompute && !jobHeld s x)) = some j) (hk : recomputeLane s j = some k) :
    jobGrantEff s = startJob k j s := by
  simp only [jobGrantEff, hj, hk, Option.bind_some]

theorem startJob_run (k : Fin 9) (j : Job) (s : State) : ∃ pc, (startJob k j s).canopy.lanes[k].run = some { job := j, pc := pc } :=
  ⟨_, congrArg Lane.run (modLane_same _ k _)⟩

theorem startJob_queue (k : Fin 9) (j : Job) (s : State) :
    (startJob k j s).canopy.queue = s.canopy.queue.filter (fun y => !(y.owner == j.owner && y.sched == j.sched)) := rfl

theorem jobDeadlineEff_forming (hj : (schedOf s o sc).forming = some j) (hd : toD0 s j.deadline ≤ s.time.now) :
    jobDeadlineEff o sc s = overrun j (modSched s o sc (fun c => { c with forming := none })) := by
  simp [jobDeadlineEff, hj, deadlineD0, hd]

/-- R17, R128: a lane that can run its self-test: in service or the spare, without a job, and with none that waits for it. -/
def selftestReady (s : State) (k : Fin 9) : Prop :=
  (s.canopy.lanes[k].state = .inService ∨ s.canopy.lanes[k].state = .spare) ∧ s.canopy.lanes[k].run = none ∧ jobWaits s k = false

theorem laneSelftestEff_passed (k : Fin 9) : laneSelftestEff k none s = s := by
  unfold laneSelftestEff
  exact ite_self s

/-- R128, R157: a lane that fails is quarantined under the event; the spare's failure counts among its faults first. -/
theorem laneSelftestEff_failed {k : Fin 9} {op : Byte} {w : State} {e : State × Option EntryRef × Bool} (h : selftestReady s k)
    (hw : w = if s.canopy.lanes[k].state = .spare then noteFault k s else s)
    (he : e = raiseHap w { source := 90, sev := .fault, idx := k, handler := 1, payload := b1 k ++ [op] }) :
    laneSelftestEff k (some op) s = quarantineLane k e.2.1 e.1 := by
  obtain ⟨hstate, hrun, hwait⟩ := h
  subst hw he
  unfold laneSelftestEff
  exact if_pos ⟨hstate, by simp only [hrun, Option.isNone_none], by simp [hwait]⟩

theorem boostExpiryEff_ends {t : Nat} (hb : s.canopy.boostEnd = some t) (ht : t ≤ s.time.now) :
    boostExpiryEff s = modCanopy s (fun c => { c with boostEnd := none }) := by
  simp [boostExpiryEff, hb, ht]

/-! The governor's window (R149, R150) -/

theorem govActive_auto (hf : s.chip.fullService = true) (ha : regB s 0x3008 0 = false) : govActive s = true := by
  simp [govActive, govManual, hf, ha]

@[simp] theorem govActive_modCanopy (f : CanopySt → CanopySt) : govActive (modCanopy s f) = govActive s := rfl
@[simp] theorem govMax_modCanopy (f : CanopySt → CanopySt) : govMax (modCanopy s f) = govMax s := rfl

theorem topSince_other {v : Nat} (h : v ≠ govMax s) : topSince s v = none := if_pos h

/-- R149: the jobs of the window whose slack was below the target, where the target lies in its range. -/
def missedJobs (s : State) : Nat :=
  (s.canopy.slacks.filter (fun x => decide (x.1 * 100 < ((regF s 0x3008 15 8 * x.2 : Nat) : Int)))).length

/-- R149: a window in which more than 1 % of the jobs missed the target raises the set value by 20 mV. -/
theorem govWindowEff_raises (hw : 1024 ≤ s.canopy.slacks.length ∨ s.canopy.windowFrom + msLsb ≤ s.time.now)
    (hn : s.canopy.slacks.length ≠ 0) (ha : govActive s = true) (hb : s.canopy.boostEnd = none)
    (hlo : 25 ≤ regF s 0x3008 15 8) (hhi : regF s 0x3008 15 8 ≤ 75) (hm : s.canopy.slacks.length < 100 * missedJobs s)
    (hv : s.canopy.vcode + 4 < govMax s) :
    govWindowEff s = modCanopy s (fun c => { c with
      slacks := [], windowFrom := s.time.now, slackP99 := slackP99 s.canopy.slacks, vcode := c.vcode + 4, atVmax := 0, topFrom := none }) := by
  have closes : ¬ (s.canopy.slacks.length < 1024 ∧ s.time.now < s.canopy.windowFrom + msLsb) := by omega
  have target : max 25 (min 75 (regF s 0x3008 15 8)) = regF s 0x3008 15 8 := by omega
  have miss : s.canopy.slacks.length < missedJobs s * 100 := by omega
  have raised : min (s.canopy.vcode + 4) (govMax s) = s.canopy.vcode + 4 := by omega
  have below : s.canopy.vcode ≠ govMax s := by omega
  have since (f : CanopySt → CanopySt) : topSince (modCanopy s f) (s.canopy.vcode + 4) = none :=
    topSince_other (by rw [govMax_modCanopy]; omega)
  unfold missedJobs at miss
  unfold govWindowEff
  rw [if_neg closes]
  simp only [hn, if_false, govActive_modCanopy, ha, Bool.not_true, Bool.false_eq_true, target, hb, miss, if_true, govMax_modCanopy, raised,
    beq_eq_false_iff_ne.mpr below, Bool.false_and, decide_true, Nat.reduceLeDiff, decide_false, Bool.or_false, Bool.and_not_self,
    since]
  rfl

end Jobs

/-- Settles O46: each command's effect is decided by the job, lane or window that the case names; a granted lane's run is what
`startJob` writes, whatever the state was. -/
theorem jobsAreQueuedGrantedAndOverrun : Obligations.Jobs_are_queued_granted_and_overrun := by
  unfold Obligations.Jobs_are_queued_granted_and_overrun
  intro dt o sc j s u hs hu
  subst hu
  refine ⟨fun n b ho hj hb hr hi => ?_, fun k ho hj hr hi vals w hw => ?_, fun k hn hj hk => ?_, fun k hj hk => ?_, fun k x => ?_,
    fun hj hd => ?_, fun k hst hrun hwait => ⟨?_, fun op w e hw he => ?_⟩, fun n hn hcl hn0 hf ha hb hlo hhi hm hv => ?_,
    fun t hb ht => ?_⟩
  · subst ho
    exact exec_closes rfl hs (jobReadyEff_slot hj hb hr hi)
  · subst ho
    exact exec_closes rfl hs (jobReadyEff_lattice hj hr hi hw)
  · exact exec_closes rfl hs (jobGrantEff_first hn hj hk)
  · exact exec_closes rfl hs (jobGrantEff_recompute hj hk)
  · obtain ⟨pc, hrun⟩ := startJob_run k j x
    exact ⟨pc, hrun, startJob_queue k j x⟩
  · exact exec_closes rfl hs (jobDeadlineEff_forming hj hd)
  · exact exec_closes rfl hs (laneSelftestEff_passed k)
  · exact exec_closes rfl hs (laneSelftestEff_failed ⟨hst, hrun, hwait⟩ hw he)
  · subst hn
    exact exec_closes rfl hs (govWindowEff_raises hcl hn0 (govActive_auto hf ha) hb hlo hhi hm hv)
  · exact exec_closes rfl hs (boostExpiryEff_ends hb ht)

/-! ### Slots: samples, apply instants and steps (R25, R28, R57, R187, R242, R246) -/

section Slots

variable {s : State} {n : Fin 32} {b : Binding} {ts : T64} {sc : Sched}

theorem controlCycleEff_outer (hb : s.axis.slots[n].bind = some b) (hd : dueSample s n b .outer = some ts) :
    controlCycleEff n .outer s = outerCycle n b ts s := by
  simp only [controlCycleEff, hb, hd]

theorem controlCycleEff_current (hb : s.axis.slots[n].bind = some b) (hd : dueSample s n b .current = some ts) :
    controlCycleEff n .current s = currentCycle n b ts s := by
  simp only [controlCycleEff, hb, hd]

/-- R25, R57: a current sample leaves a job in the making, and the next sample a current period later. -/
theorem currentCycle_curSched (n : Fin 32) (b : Binding) (ts : T64) (s : State) :
    ∃ j, (currentCycle n b ts s).axis.slots[n].curSched.forming = some j
      ∧ (currentCycle n b ts s).axis.slots[n].curSched.next = some (ts + BitVec.ofNat 64 (curPeriod b)) :=
  ⟨_, congrArg (fun sl => sl.curSched.forming) (modSlot_same _ n _), congrArg (fun sl => sl.curSched.next) (modSlot_same _ n _)⟩

/-- The newest result is the only one, and none is left. -/
theorem applyInstantEff_only {x : Latched} (hl : (schedOf s (.slot n) sc).latch = [x]) (hr : reached s x.tApply = true) :
    applyInstantEff n sc s = applyOut n x (modSched s (.slot n) sc (fun c => { c with
      latch := [], applied := (x.val :: c.applied).take 2, appliedAt := some x.tApply.t })) := by
  have due : (schedOf s (.slot n) sc).latch.filter (fun y => reached s y.tApply) = [x] := by simp [hl, hr]
  have rest : (schedOf s (.slot n) sc).latch.filter (fun y => !reached s y.tApply) = [] := by simp [hl, hr]
  simp only [applyInstantEff, due, bestBy, List.foldl_nil]
  exact congrArg (applyOut n x) (modSched_congr (by simp only [rest]))

end Slots

/-! Microsteps (R242, R244) -/

/-- R242, R244: a carry drives a pulse unless the steps are an endpoint's. -/
def carryOut (n : Fin 32) (t : StepSt) (neg : Bool) (s : State) : State :=
  match t.cfg with
  | some c => if c.endpoint then s else stepPulse n c neg (carryAt t) s
  | none => s

section Steps

variable {s : State} {n : Fin 32} {t : StepSt} {c : StepCfg}

theorem microstepEff_carry (ht : t = syncStep s.time.now s.axis.slots[n].step) (h : 2 ^ 48 ≤ t.acc) :
    microstepEff n s = carryOut n t false (modSlot s n (fun sl => { sl with step := { t with
      acc := t.acc - 2 ^ 48, emitted := t.emitted + 1, owed := t.commanded - (t.emitted + 1) } })) := by
  have out : ¬ t.acc < 2 ^ 48 := by omega
  have pos : ¬ t.acc < 0 := by omega
  unfold microstepEff
  rw [← ht]
  simp only [out, pos, decide_false, Bool.and_false, Bool.false_eq_true, if_false, one_mul]
  rfl

theorem microstepEff_borrow (ht : t = syncStep s.time.now s.axis.slots[n].step) (h : t.acc < 0) :
    microstepEff n s = carryOut n t true (modSlot s n (fun sl => { sl with step := { t with
      acc := t.acc + 2 ^ 48, emitted := t.emitted - 1, owed := t.commanded - (t.emitted - 1) } })) := by
  have out : ¬ 0 ≤ t.acc := by omega
  unfold microstepEff
  rw [← ht]
  simp only [out, h, decide_false, decide_true, Bool.false_and, Bool.false_eq_true, if_false, if_true, neg_mul, one_mul, sub_neg_eq_add,
    ← sub_eq_add_neg]
  rfl

/-- R246: what a coarse step makes of a generator that has been brought to now: 256 microsteps more are commanded. -/
def CoarseTaken (t w : StepSt) (at' : Nat) (neg : Bool) (rest : List (Nat × Bool)) : Prop :=
  w.coarse = t.coarse + (if neg then -256 else 256) * 65536 ∧ w.coarseIn = rest ∧ w.lastCoarse = some at' ∧ w.idle = false
    ∧ w.commanded = Int.fdiv (w.coarse - t.base) 65536 ∧ w.emitted = t.emitted

theorem coarseStepEff_takes {at' : Nat} {neg : Bool} {rest : List (Nat × Bool)} (hc : s.axis.slots[n].step.cfg = some c)
    (hin : s.axis.slots[n].step.coarseIn = (at', neg) :: rest) (hco : c.coarse = true) (hm : s.axis.slots[n].mode = .auto)
    (hsrc : s.axis.slots[n].source = .coarse) :
    ∃ w, coarseStepEff n s = modSlot s n (fun sl => { sl with step := w })
      ∧ CoarseTaken (syncStep s.time.now s.axis.slots[n].step) w at' neg rest := by
  simp only [coarseStepEff, hc, hin, hco, hm, hsrc, bne_self_eq_false, Bool.not_true, Bool.or_self, Bool.false_eq_true, if_false]
  exact ⟨_, rfl, rfl, rfl, rfl, rfl, rfl, rfl⟩

theorem coarseIdleEff_idles {t0 : Nat} (hc : s.axis.slots[n].step.cfg = some c) (hl : s.axis.slots[n].step.lastCoarse = some t0)
    (hi : t0 + c.idleMs * msLsb ≤ s.time.now) (ht : t = syncStep s.time.now s.axis.slots[n].step) :
    coarseIdleEff n s = modSlot s n (fun sl => { sl with step := { t with
      idle := true, inc := if t.commanded = carried t then 0 else t.inc } }) := by
  subst ht
  simp only [coarseIdleEff, hc, hl, Nat.not_lt.mpr hi, if_false, decide_eq_true_eq]

end Steps

/-- Settles O48: a due sample runs its cycle, the one result latched and due is applied, and the step generator is first
brought to now (`syncStep`), whose accumulator decides between a carry and a borrow. -/
theorem slotsSampleApplyAndStep : Obligations.Slots_sample_apply_and_step := by
  unfold Obligations.Slots_sample_apply_and_step
  intro dt n b ts s u hs hu
  subst hu
  refine ⟨fun hb hd => ?_, fun hb hd => ?_, fun sc x hl hr => ?_,
    fun t ht => ⟨fun h v hv => ?_, fun h v hv => ?_, fun c at' neg rest hc hin hco hm hsrc => ?_, fun c t0 hc hl hi => ?_, ?_⟩⟩
  · exact exec_closes rfl hs (controlCycleEff_outer hb hd)
  · obtain ⟨j, hj, hnext⟩ := currentCycle_curSched n b ts (begin dt s)
    exact ⟨_, j, exec_closes rfl hs (controlCycleEff_current hb hd), hj, hnext⟩
  · exact exec_closes rfl hs (applyInstantEff_only hl hr)
  · subst hv
    exact exec_closes rfl hs (microstepEff_carry ht h)
  · subst hv
    exact exec_closes rfl hs (microstepEff_borrow ht h)
  · obtain ⟨w, hw, hcoarse, hrest⟩ := coarseStepEff_takes hc hin hco hm hsrc
    subst ht
    exact ⟨w, exec_closes rfl hs hw, hcoarse, hrest⟩
  · exact exec_closes rfl hs (coarseIdleEff_idles hc hl hi ht)
  · subst ht
    rfl

end Sys2Proof.Machine
end

section
/-!
PROOF. Family 02: the passing of time, timed descriptors, the stages of bring-up, the discipline of the domains, the edge placers and
the timed settings of a domain. What each effect does in the cases that the statements name is stated once about the effect; the
statements follow by the runner's law.
-/

namespace Sys2Proof.Machine

/-! ### What a raise of upd_seq does to the cells (R114) -/

/-- A store holds no cells but the one written and those it held. -/
theorem mem_cellPut {d : Nat → Nat} {a x : Nat} {c : Nat × Nat} : ∀ {cs : List (Nat × Nat)},
    c ∈ cellPut d cs a x → c = (a, x) ∨ c ∈ cs
  | [], h => by
    unfold cellPut at h
    split_ifs at h <;> simp_all
  | (k, v) :: cs, h => by
    unfold cellPut at h
    split_ifs at h
    · exact .inr (List.mem_cons_of_mem _ h)
    · exact (List.mem_cons.mp h).imp_right (List.mem_cons_of_mem _)
    · exact .inr h
    · exact List.mem_cons.mp h
    · rcases List.mem_cons.mp h with rfl | h
      · exact .inr List.mem_cons_self
      · exact (mem_cellPut h).imp_right (List.mem_cons_of_mem _)

/-- Cells of upd_seq fields: in canonical form, of 8 bits each, of status registers. -/
def SeqCells (m : Memory) : Prop := Memory.wf zero0 m = true ∧ ∀ c ∈ m, c.2 < 256 ∧ c.1 ∈ seqKeys ++ ringKeys

theorem seqsSound_iff (s : State) : seqsSound s = true ↔ SeqCells s.seqs := by
  simp only [seqsSound, seqsBounded, seqsKnown, SeqCells, Bool.and_eq_true, List.all_eq_true, decide_eq_true_eq, List.contains_iff_mem,
    and_assoc, forall_and]

theorem SeqCells.put {m : Memory} (h : SeqCells m) {k x : Nat} (hk : k ∈ seqKeys ++ ringKeys) (hx : x < 256) :
    SeqCells (cellPut zero0 m k x) := by
  refine ⟨cellPut_wf zero0 m k x h.1, fun c hc => ?_⟩
  rcases mem_cellPut hc with rfl | hc
  · exact ⟨hx, hk⟩
  · exact h.2 c hc

/-- One register's turn in `bumpAmong`. -/
def bumpOne (old new : State) (m : Memory) (k : Nat) : Memory :=
  if covered old k = covered new k || cellGet zero0 old.seqs k != cellGet zero0 new.seqs k then m
  else cellPut zero0 m k ((cellGet zero0 m k + 1) % 256)

theorem bumpAmong_seqs (ks : List Nat) (old new : State) : (bumpAmong ks old new).seqs = ks.foldl (bumpOne old new) new.seqs := rfl

/-- R114: the fields of a register have changed, and no change on the way has raised its upd_seq. -/
def Rises (old new : State) (k : Nat) : Prop := covered old k ≠ covered new k ∧ updSeq old k = updSeq new k

section Bump

variable {old new : State} {m : Memory}

theorem bumpOne_stays {k : Nat} (h : ¬ Rises old new k) : bumpOne old new m k = m :=
  if_pos (by simpa [Rises, updSeq, or_iff_not_imp_left] using h)

theorem bumpOne_rises {k : Nat} (h : Rises old new k) : bumpOne old new m k = cellPut zero0 m k ((cellGet zero0 m k + 1) % 256) :=
  if_neg (by simpa [Rises, updSeq] using h)

theorem SeqCells.bumpOne (h : SeqCells m) {k : Nat} (hk : k ∈ seqKeys ++ ringKeys) : SeqCells (bumpOne old new m k) := by
  by_cases r : Rises old new k
  · rw [bumpOne_rises r]
    exact h.put hk (Nat.mod_lt _ (by decide))
  · rwa [bumpOne_stays r]

theorem bumpOne_wf (h : Memory.wf zero0 m = true) (k : Nat) : Memory.wf zero0 (bumpOne old new m k) = true := by
  by_cases r : Rises old new k
  · rw [bumpOne_rises r]
    exact cellPut_wf zero0 m k _ h
  · rwa [bumpOne_stays r]

theorem cellGet_bumpOne_same (h : Memory.wf zero0 m = true) {k : Nat} (r : Rises old new k) :
    cellGet zero0 (bumpOne old new m k) k = (cellGet zero0 m k + 1) % 256 := by
  rw [bumpOne_rises r, cellGet_cellPut zero0 m k k _ h, if_pos rfl]

theorem cellGet_bumpOne_stays (h : Memory.wf zero0 m = true) {k b : Nat} (hb : ¬ (b = k ∧ Rises old new b)) :
    cellGet zero0 (bumpOne old new m k) b = cellGet zero0 m b := by
  by_cases r : Rises old new k
  · have other : b ≠ k := fun e => hb ⟨e, e ▸ r⟩
    rw [bumpOne_rises r, cellGet_cellPut zero0 m k b _ h, if_neg other]
  · rw [bumpOne_stays r]

theorem SeqCells.foldl_bumpOne : ∀ {ks : List Nat} {m : Memory}, SeqCells m → ks ⊆ seqKeys ++ ringKeys →
    SeqCells (ks.foldl (Machine.bumpOne old new) m)
  | [], _, h, _ => h
  | k :: ks, m, h, hk => by
    obtain ⟨hk, hks⟩ := List.cons_subset.mp hk
    rw [List.foldl_cons]
    exact foldl_bumpOne (h.bumpOne hk) hks

theorem cellGet_foldl_bumpOne_stays {b : Nat} : ∀ {ks : List Nat} {m : Memory}, Memory.wf zero0 m = true →
    ¬ (b ∈ ks ∧ Rises old new b) → cellGet zero0 (ks.foldl (bumpOne old new) m) b = cellGet zero0 m b
  | [], _, _, _ => rfl
  | k :: ks, m, h, hb => by
    rw [List.foldl_cons, cellGet_foldl_bumpOne_stays (bumpOne_wf h k) fun ⟨i, r⟩ => hb ⟨List.mem_cons_of_mem k i, r⟩,
      cellGet_bumpOne_stays h fun ⟨e, r⟩ => hb ⟨e ▸ List.mem_cons_self, r⟩]

/-- Each register of a list without repetitions has one turn. -/
theorem cellGet_foldl_bumpOne_rises {b : Nat} (r : Rises old new b) : ∀ {ks : List Nat} {m : Memory}, Memory.wf zero0 m = true →
    ks.Nodup → b ∈ ks → cellGet zero0 (ks.foldl (bumpOne old new) m) b = (cellGet zero0 m b + 1) % 256
  | k :: ks, m, h, hn, hb => by
    obtain ⟨hk, hks⟩ := List.nodup_cons.mp hn
    rw [List.foldl_cons]
    by_cases e : b = k
    · subst e
      rw [cellGet_foldl_bumpOne_stays (bumpOne_wf h b) fun i => hk i.1, cellGet_bumpOne_same h r]
    · rw [cellGet_foldl_bumpOne_rises r (bumpOne_wf h k) hks (List.mem_of_ne_of_mem e hb), cellGet_bumpOne_stays h fun i => e i.1]

end Bump

/-! ### No register's fields depend on upd_seq (R110, R114) -/

theorem readCan_seqs (s : State) (q : Memory) (n : Fin 2) (k : Nat) : readCan { s with seqs := q } n k = readCan s n k := rfl

theorem liveWord_seqs (s : State) (q : Memory) (k : Nat) : liveWord { s with seqs := q } k = liveWord s k := by
  unfold liveWord
  split
  case h_12 => split <;> exact readCan_seqs s q _ _
  all_goals rfl

theorem covered_seqs (s : State) (q : Memory) (k : Nat) : covered { s with seqs := q } k = covered s k :=
  congrArg₂ List.cons (liveWord_seqs s q k) rfl

theorem timeKeys_nodup : timeKeys.Nodup := by decide

theorem timeKeys_subset : timeKeys ⊆ seqKeys ++ ringKeys := by decide

/-! ### The passing of time (R42, R114) -/

theorem begin_seqs (dt : Nat) (s : State) :
    (begin dt s).seqs = timeKeys.foldl (bumpOne s (tick dt { s with out := [] })) s.seqs :=
  bumpAmong_seqs timeKeys s _

theorem covered_begin (dt : Nat) (s : State) (k : Nat) : covered (begin dt s) k = covered (tick dt { s with out := [] }) k :=
  covered_seqs _ _ k

/-- No upd_seq is raised on the way. -/
theorem rises_tick {dt : Nat} {s : State} {k : Nat} :
    Rises s (tick dt { s with out := [] }) k ↔ covered s k ≠ covered (begin dt s) k := by
  rw [covered_begin]
  exact and_iff_left rfl

theorem seqsSound_begin {s : State} (h : seqsSound s = true) (dt : Nat) : seqsSound (begin dt s) = true := by
  rw [seqsSound_iff] at h ⊢
  rw [begin_seqs]
  exact h.foldl_bumpOne timeKeys_subset

theorem updSeq_begin {s : State} (h : seqsSound s = true) (dt k : Nat) : updSeq (begin dt s) k =
    if k ∈ timeKeys ∧ covered s k ≠ covered (begin dt s) k then (updSeq s k + 1) % 256 else updSeq s k := by
  obtain ⟨wf, -⟩ := (seqsSound_iff s).mp h
  rw [updSeq, begin_seqs]
  split_ifs with hk
  · obtain ⟨mem, changed⟩ := hk
    exact cellGet_foldl_bumpOne_rises (rises_tick.mpr changed) wf timeKeys_nodup mem
  · exact cellGet_foldl_bumpOne_stays wf fun ⟨mem, r⟩ => hk ⟨mem, rises_tick.mp r⟩

/-- Settles O10: D0, the frame and the emptied `out` are the definition of `begin`; upd_seq is raised by `bumpAmong timeKeys`, one
turn for each register; held in reset, `after` is `begin`. -/
theorem timePassesBetweenCommands : Obligations.Time_passes_between_commands := by
  unfold Obligations.Time_passes_between_commands
  exact fun dt eff s => ⟨rfl, rfl, rfl, fun h => ⟨seqsSound_begin h dt, updSeq_begin h dt⟩, fun h => if_pos h⟩

/-! ### Timed descriptors (R60, R82, R89) -/

/-- From the service port, a timed descriptor row is the submission of its descriptor. -/
theorem timedRow_svc : ∀ row ∈ timedRows, ∀ (dt : Nat) (d : Desc) (s : State),
    exec (row.1 dt .svc d) s = run dt s (svcDescEff (rawOf row.2.1 (rowDesc row.2.2 d))) := by
  simp only [timedRows, List.cons_append, List.nil_append, List.forall_mem_cons, List.not_mem_nil, false_implies, implies_true, and_true]
  and_intros <;> exact fun _ _ _ => rfl

/-- Settles O34: every timed row is the submission of its descriptor, which waits (`svcDescEff_waits`). -/
theorem timedDescriptorRowsWaitForTheirInstant : Obligations.Timed_descriptor_rows_wait_for_their_instant := by
  unfold Obligations.Timed_descriptor_rows_wait_for_their_instant
  intro row hrow dt d r s u b w f hs hu hb hr ht hf hp hi
  subst hu hr
  obtain ⟨rfl, rfl⟩ := Prod.mk.inj hf
  exact ⟨_, exec_closes (timedRow_svc row hrow dt d s) hs (svcDescEff_waits _ _ b hb ht hp hi), rfl⟩

/-! ### The stages of bring-up (R43, R467, R487 to R489) -/

section BringUp

variable {s : State} {lanes : BitVec 9} {cells : List BistCell}

theorem clearingDoneEff_wiped (h : s.life.clearing = true) :
    clearingDoneEff s =
      emit { source := 8, sev := .note, payload := leBytes 2 0x7F } { s with life := { s.life with clearing := false } } :=
  if_pos h

theorem understoryEff_starts (hu : s.chip.understory = false) (hc : s.life.clearing = false) :
    understoryEff lanes cells s = parkStart (emit { source := 0, sev := .note, payload := b1 1 }
      (modChip (bistIsolate false lanes cells s) (fun c => { c with understory := true }))) :=
  if_neg (by simp [hu, hc])

/-- R489: BIST is over, and what it failed is isolated. -/
def bistOver (lanes : BitVec 9) (cells : List BistCell) (s : State) : State :=
  bistIsolate true lanes cells { s with life := { s.life with bistDone := true } }

theorem bistEndEff_serves (hu : s.chip.understory = true) (hb : s.life.bistDone = false) (h6 : 6 ≤ inService (bistOver lanes cells s)) :
    bistEndEff lanes cells none s = emit { source := 0, sev := .note, payload := b1 2 }
      (govFollow (modChip (bistOver lanes cells s) (fun c => { c with fullService := true }))) :=
  (if_neg (by simp [hu, hb])).trans (if_neg (Nat.not_lt.mpr h6))

theorem bistEndEff_loses (hu : s.chip.understory = true) (hb : s.life.bistDone = false) (r b : Byte) :
    bistEndEff lanes cells (some (r, b)) s = regionLost r.toNat b.toNat (bistOver lanes cells s) :=
  if_neg (by simp [hu, hb])

end BringUp

/-- Settles O11: each stage's conditions hold, so that its command has the stage's effect. -/
theorem bringUpStagesComplete : Obligations.Bring_up_stages_complete := by
  unfold Obligations.Bring_up_stages_complete
  intro dt s u hs hu
  subst hu
  refine ⟨fun h => ?_, ?_, fun lanes cells hu hc => ⟨_, rfl, ?_⟩, fun lanes cells hu hb v hv h6 => ?_,
    fun lanes cells r b hu hb v hv => ?_, fun taps => ⟨?_, ?_⟩⟩
  · exact exec_closes rfl hs (clearingDoneEff_wiped h)
  · exact exec_closes (eff := refLockEff) rfl hs rfl
  · exact exec_closes rfl hs (understoryEff_starts hu hc)
  · subst hv
    exact exec_closes rfl hs (bistEndEff_serves hu hb h6)
  · subst hv
    exact exec_closes rfl hs (bistEndEff_loses hu hb r b)
  · exact exec_closes (eff := dlineEff taps true) rfl hs rfl
  · exact exec_closes (eff := dlineEff taps false) rfl hs rfl

/-! ### Master updates (R49 to R55, R540) -/

section MasterUpdate

variable {s : State} {d : Dom} {m : T64}

/-- R49, R50: an update of a domain that runs ends the TIME_SLEW under way, and its phase error is noted. -/
def phaseNoted (d : Dom) (theta : Int) (s : State) : State :=
  setDom (if (runningSlew s d).isSome then endSlew d s else s) d (fun r => { r with phaseErr := satS 16 theta |> max (-32767) })

/-- R540: the consecutive good updates, with one of this phase error. -/
def goodUpdates (r : Domain) (theta : Int) : Nat :=
  if theta.natAbs ≤ 1600 then min 8 ((if r.state = .free ∨ r.state = .holdover then 0 else r.good) + 1) else 0

theorem masterUpdateEff_unset (hd : disciplined s d = true) (hst : (domRec s.time d).state = .unset) :
    masterUpdateEff d m s = setDomState d .acquiring (setDom (stepDom d (diff64 m (domNow s d)) s) d (fun r => { r with
      lastUpdate := some s.time.now, seen := s.time.now, master := true, good := 1, phaseErr := 0 })) :=
  (if_neg (by simp [hd])).trans (if_pos hst)

variable {theta : Int}

theorem masterUpdateEff_steps (hd : disciplined s d = true) (hst : (domRec s.time d).state ≠ .unset)
    (ht : theta = diff64 m (domNow s d)) (hm : mayStep (phaseNoted d theta s) d theta = true) :
    masterUpdateEff d m s = reportStep d theta (setDomState d .acquiring (setDom (stepDom d theta
      (if (domRec s.time d).slewing then endSlew d (phaseNoted d theta s) else phaseNoted d theta s)) d (fun r => { r with
        lastUpdate := some s.time.now, seen := s.time.now, master := true
        good := 0, slewLeft := 0, slewing := false, rateClamped := false }))) := by
  subst ht
  exact (if_neg (by simp [hd])).trans ((if_neg hst).trans (if_pos hm))

theorem masterUpdateEff_slews {freq : Int} (hd : disciplined s d = true) (hst : (domRec s.time d).state ≠ .unset)
    (ht : theta = diff64 m (domNow s d)) (hm : mayStep (phaseNoted d theta s) d theta = false)
    (hf : freq = newFreq (phaseNoted d theta s) d theta)
    (hc : (freq + sgn theta * ppm (cfgPpm (phaseNoted d theta s) d)).natAbs ≤ rateClamp) :
    masterUpdateEff d m s = setDomState d (afterUpdate (goodUpdates (domRec s.time d) theta) false)
      (setDom (phaseNoted d theta s) d (fun r => { r with
        lastUpdate := some s.time.now, seen := s.time.now, master := true, good := goodUpdates (domRec s.time d) theta, freq := freq
        slewLeft := theta * 2 ^ 40, slewPpm := cfgPpm (phaseNoted d theta s) d, slewTotal := theta, slewing := theta != 0
        rateClamped := false })) := by
  subst ht hf
  have within := decide_eq_false (Int.not_lt.mpr hc)
  unfold phaseNoted at hm within ⊢
  unfold goodUpdates masterUpdateEff
  simp only [hd, Bool.not_true, Bool.false_eq_true, if_false, hst, hm, within, Bool.false_and, Bool.or_eq_true, decide_eq_true_eq]

end MasterUpdate

/-- Settles O16: the update's case is decided by the domain's state and, where it runs, by `mayStep`. -/
theorem masterUpdatesDisciplineADomain : Obligations.Master_updates_discipline_a_domain := by
  unfold Obligations.Master_updates_discipline_a_domain
  intro dt d m s u hs hu hd
  subst hu
  refine ⟨fun hst => ?_, fun hst v theta ht hv => ⟨fun hm => ?_, fun hm good freq need hf hn hc hg => ?_⟩⟩
  · exact exec_closes rfl hs (masterUpdateEff_unset hd hst)
  · subst hv
    exact exec_closes rfl hs (masterUpdateEff_steps hd hst ht hm)
  · subst hv hn hg
    exact exec_closes rfl hs (masterUpdateEff_slews hd hst ht hm hf hc)

/-! ### Holdover and the end of a slew (R51, R69, R70) -/

section Holdover

variable {s : State} {d : Dom}

theorem holdoverEff_enters (hd : disciplined s d = true)
    (hst : (domRec s.time d).state = .acquiring ∨ (domRec s.time d).state = .locked)
    (hl : (domRec s.time d).seen + max 1 (regF s (domBase (domCode d)) 7 4) * updInterval s d ≤ s.time.now) :
    holdoverEff d s = setDomState d .holdover (setDom (endSlew d s) d (fun r => { r with
      master := false, lastUpdate := none, good := 0, rateClamped := false, holdSince := s.time.now, holdReported := false })) :=
  if_pos (by simp [hd, hst, hl])

theorem holdoverLimitEff_reports {v : State} (h0 : d ≠ .d0) (hst : (domRec s.time d).state = .holdover)
    (hr : (domRec s.time d).holdReported = false) (hn : regF s (domBase (domCode d)) 31 16 ≠ 0)
    (hl : (domRec s.time d).holdSince + regF s (domBase (domCode d)) 31 16 * 100 * msLsb ≤ s.time.now)
    (hv : v = setDom s d (fun r => { r with holdReported := true })) :
    holdoverLimitEff d s =
      emit { source := 36, sev := .warning, idx := domCode d, payload := b1 (domCode d) ++ leBytes 4 (holdMs v d) } v := by
  subst hv
  exact if_pos (by simp [h0, hst, hr, hn, hl])

theorem slewDoneEff_absorbed (hs : (domRec s.time d).slewing = true) (hl : (domRec s.time d).slewLeft = 0)
    (hr : runningSlew s d = none) :
    slewDoneEff d s = slewEnded d (domRec s.time d).slewTotal (setDom s d (fun r => { r with slewing := false })) := by
  simp only [slewDoneEff, hs, hl, hr, beq_self_eq_true, Bool.and_self, if_true]

end Holdover

/-- Settles O17: the conditions of each command's one case. -/
theorem holdoverAndSlewsEndAsStated : Obligations.Holdover_and_slews_end_as_stated := by
  unfold Obligations.Holdover_and_slews_end_as_stated
  intro dt d s u r hs hu hr
  subst hu hr
  refine ⟨fun hd hst hl => ?_, fun h0 hst hr hn hl v hv => ?_, fun hw hl hr => ?_⟩
  · exact exec_closes rfl hs (holdoverEff_enters hd hst hl)
  · exact exec_closes rfl hs (holdoverLimitEff_reports h0 hst hr hn hl hv)
  · exact exec_closes rfl hs (slewDoneEff_absorbed hw hl hr)

/-! ### Discipline written (R50, R51, R67) -/

section Discipline

variable {s : State} {d : Dom} {was : Bool}

theorem reDiscipline_same (h : disciplined s d = was) : reDiscipline d was s = s := by
  subst h
  simp [reDiscipline]

theorem reDiscipline_begins (h : disciplined s d = true) (hs : (domRec s.time d).slewing = false) :
    reDiscipline d false s = setDom s d (fun r => { r with master := false, lastUpdate := none, good := 0 }) := by
  simp [reDiscipline, h, hs]

theorem reDiscipline_ends (h : disciplined s d = false) : reDiscipline d true s = freeDom d s := by
  simp [reDiscipline, h]

theorem disciplineWriteEff_dom (h0 : d ≠ .d0) (value : Word) :
    disciplineWriteEff d value s = reDiscipline d (disciplined s d) (writeRw s (domBase (domCode d)) value.toNat) :=
  if_neg h0

end Discipline

/-- Settles O18: the write sets the fields, and `reDiscipline` compares whether the domain followed a master before and after. -/
theorem disciplineWritesStartAndEndFollowing : Obligations.Discipline_writes_start_and_end_following := by
  unfold Obligations.Discipline_writes_start_and_end_following
  intro dt path d value s u v hs hu hp h0 hv
  subst hu hv
  have write {t : State}
      (ht : reDiscipline d (disciplined (begin dt s) d) (writeRw (begin dt s) (domBase (domCode d)) value.toNat) = t) :
      exec (.timeDisciplineWrite dt path d value) s = .next (closing (begin dt s) t) :=
    exec_closes_gated rfl hs hp ((disciplineWriteEff_dom h0 value).trans ht)
  refine ⟨fun h => ?_, fun hwas his hw => ?_, fun hwas his => ?_⟩
  · exact write (reDiscipline_same h.symm)
  · exact write (hwas ▸ reDiscipline_begins his hw)
  · exact write (hwas ▸ reDiscipline_ends his)

/-! ### Edge placers and PPS_OUT (R61, R63, R64, R66) -/

section Placers

variable {s : State} {p : Fin 12} {e : Edge} {rest : List Edge}

/-- R63, R64: what becomes of an edge that is due and changes the level. -/
theorem placerEdgeEff_due (hq : s.time.placers[p].queue = e :: rest) (hd : edgeDue s e ≤ s.time.now)
    (hl : e.level ≠ s.time.placers[p].level) : placerEdgeEff p s =
      if heldBack s p e then
        if s.time.now < s.time.placers[p].lastEdge.getD 0 + minWidth s p then s
        else driveLate p e (modPlacer s p (fun pl => { pl with queue := rest }))
      else if e.late then driveLate p e (modPlacer s p (fun pl => { pl with queue := rest }))
      else drive p e.level ⟨e.dom, e.target⟩ false (modPlacer s p (fun pl => { pl with queue := rest })) := by
  simp only [placerEdgeEff, hq, Int.not_lt.mpr hd, decide_false, Bool.false_eq_true, if_false, hl, decide_eq_true_eq]

/-- R61: what driving a level makes of its placer. -/
theorem drive_placer (p : Fin 12) (level late : Bool) (target : Stamp) (s : State) :
    (drive p level target late s).time.placers[p] = { s.time.placers[p] with
      level := level, lastEdge := some s.time.now
      lastAt := some (if late then ⟨.d0, BitVec.ofNat 64 s.time.now⟩ else ⟨target.dom, round4 target.t⟩)
      lastOn := if level then some s.time.now else s.time.placers[p].lastOn } :=
  upd_same s.time.placers p _

theorem drive_out (p : Fin 12) (level late : Bool) (target : Stamp) (s : State) :
    (drive p level target late s).out = s.out ++ [.edge p level target.t (BitVec.ofNat 64 s.time.now) late] := rfl

theorem ppsEff_pulses {d : Dom} {t into : Nat} (hd : d = domOf (regF s 0x2200 2 1)) (ht : t = (domNow s d).toNat)
    (hi : into = t % ppsPeriod s) (hon : regB s 0x2200 0 = true) (hset : unset s d = false) (h40 : into < 40)
    {lead : T64} (hlead : lead = BitVec.ofNat 64 (t - into)) {level : Bool} (hlevel : level = !regB s 0x2200 3) {v : State}
    (hv : v = putEdge 11 { target := lead, dom := d, level := level, owner := .pps } true s) :
    ppsEff s = putEdge 11 { target := lead + BitVec.ofNat 64 (ppsWidth v), dom := d, level := !level, owner := .pps } true v := by
  subst hd ht hi hlead hlevel hv
  exact if_neg (by simp [hon, hset, h40])

end Placers

/-- Settles O19: a due edge is held back, late or on time (`placerEdgeEff_due`). -/
theorem placersDriveDueEdges : Obligations.Placers_drive_due_edges := by
  unfold Obligations.Placers_drive_due_edges
  intro dt p e rest s u hs hu hq hd hl v hv
  subst hu hv
  have due := placerEdgeEff_due hq hd hl
  refine ⟨fun hh hlate => ?_, fun hh hlate => ?_, fun hh hw => ?_, fun hh hw => ?_⟩
  · rw [if_neg (by simp [hh]), if_neg (by simp [hlate])] at due
    have placer := drive_placer p e.level false ⟨e.dom, e.target⟩ (modPlacer (begin dt s) p fun pl => { pl with queue := rest })
    exact ⟨_, exec_closes rfl hs due, (congrArg Placer.queue placer).trans (congrArg Placer.queue (modPlacer_same _ p _)),
      congrArg Placer.level placer, congrArg Placer.lastEdge placer, drive_out ..⟩
  · rw [if_neg (by simp [hh]), if_pos hlate] at due
    exact exec_closes rfl hs due
  · rw [if_pos hh, if_pos hw] at due
    exact exec_closes rfl hs due
  · rw [if_pos hh, if_neg (Nat.not_lt.mpr hw)] at due
    exact exec_closes rfl hs due

/-- Settles O20: PPS_OUT is enabled, its domain is set and has just reached a multiple of the period. -/
theorem ppsPulsesQueueTwoEdges : Obligations.Pps_pulses_queue_two_edges := by
  unfold Obligations.Pps_pulses_queue_two_edges
  intro dt s u d t into hs hu hd ht hi hon hset h40 lead level hlead hlevel v hv
  subst hu
  exact exec_closes rfl hs (ppsEff_pulses hd ht hi hon hset h40 hlead hlevel hv)

/-! ### Timed settings of a domain (R68, R69, R97) -/

/-- Descriptors without groups take effect one by one. -/
theorem takeAllN_ungrouped (now : InFlight → State → State) : ∀ (fs : List InFlight) (s : State), (∀ f ∈ fs, f.group = none) →
    takeAllN now fs.length fs s = fs.foldl (takeOne now) s
  | [], _, _ => rfl
  | f :: fs, s, h => by
    obtain ⟨hf, hfs⟩ := List.forall_mem_cons.mp h
    simp only [List.length_cons, takeAllN, hf, List.foldl_cons]
    exact takeAllN_ungrouped now fs _ hfs

/-- The record of a domain changed is the change of its record. -/
theorem domRec_setDom_same {d : Dom} (h : d ≠ .d0) (s : State) (f : Domain → Domain) :
    domRec (setDom s d f).time d = f (domRec s.time d) := by
  cases d
  case d0 => exact absurd rfl h
  all_goals rfl

section TimeSlew

variable {f : InFlight} {s : State}

theorem timeSlewNow_disciplined (h : disciplined s (timeTarget f) = true) :
    timeSlewNow f s = complete f.id stDomDisc 0 (domCode (timeTarget f)) none s :=
  if_pos h

/-- R69: the correction that a TIME_SLEW sets is what is left to slew. -/
theorem timeSlewNow_slews (h0 : timeTarget f ≠ .d0) (h : disciplined s (timeTarget f) = false) :
    (domRec (timeSlewNow f s).time (timeTarget f)).slewLeft = pS f.payload 24 8 * 2 ^ 40
      ∧ (domRec (timeSlewNow f s).time (timeTarget f)).slewing = true := by
  simp [timeSlewNow, h, takesEffect, domRec_setDom_same h0]

end TimeSlew

/-- Settles O21: what is ready at the apply time takes effect in the order of the list (`takeAllN_ungrouped`), a TIME_SLEW by
`timeSlewNow`. -/
theorem timedSettingsTakeEffectInOrder : Obligations.Timed_settings_take_effect_in_order := by
  unfold Obligations.Timed_settings_take_effect_in_order
  intro dt d s u fs hs hu
  subst hu
  refine ⟨fun hf hg => ?_, fun hf hg => ?_, fun f v h => timeSlewNow_disciplined h, fun f v h0 h => timeSlewNow_slews h0 h⟩
  · subst hf
    exact exec_closes rfl hs (takeAllN_ungrouped timeNow _ _ hg)
  · subst hf
    exact exec_closes rfl hs (takeAllN_ungrouped timeNow _ _ hg)

end Sys2Proof.Machine
end

section
/-!
PROOF. Family 03: descriptors from the service port and from the rings, the doorbells of the rings, heartbeats and coalescing timers,
fetches and completions, the host link and its resets, and writes of set-up registers. What each effect does in the cases that the
statements name is stated once about the effect; the statements follow by the runner's law.
-/

namespace Sys2Proof.Machine

/-! ### Descriptor rows and their source (R82, R85) -/

/-- Every descriptor row brings its descriptor from its source. -/
theorem descriptorRow_runs : ∀ row ∈ timedRows ++ immediateRows, ∀ (dt : Nat) (src : Source) (d : Desc) (s : State),
    exec (row.1 dt src d) s = run dt s (descEff row.2.1 src (rowDesc row.2.2 d)) := by
  simp only [timedRows, immediateRows, List.cons_append, List.nil_append, List.forall_mem_cons, List.not_mem_nil, false_implies,
    implies_true, and_true]
  and_intros <;> exact fun _ _ _ _ => rfl

/-- Settles O35: a row runs `descEff`, which is the submission at the service port, and the fetch of the one entry at a ring. -/
theorem descriptorRowsComeFromTheirSource : Obligations.Descriptor_rows_come_from_their_source := by
  unfold Obligations.Descriptor_rows_come_from_their_source
  exact fun row hrow dt d s => ⟨descriptorRow_runs row hrow dt .svc d s, fun n => descriptorRow_runs row hrow dt (.sq n) d s⟩

/-! ### Descriptors at the service port (R82, R83, R88, R115, R123, R125) -/

section Submission

variable {s : State} {r : RawDesc}

@[simp] theorem svcRefuses_frameBegin (s : State) (r : RawDesc) : svcRefuses (frameBegin s) r = svcRefuses s r := by
  simp only [svcRefuses, frameBegin_life]

@[simp] theorem flightCount_frameBegin (s : State) : flightCount (frameBegin s) = flightCount s := by
  simp only [flightCount, frameBegin_host]

@[simp] theorem heldCount_frameBegin (s : State) : heldCount (frameBegin s) = heldCount s := by
  simp only [heldCount, frameBegin_host]

theorem svcDescEff_up (h : svcUp s = true) : svcDescEff r s = frameEnd (svcSubmitEff r (frameBegin s)) := if_pos h

/-- The port answers: what follows is decided by the lifecycle and by the room. -/
theorem svcSubmitEff_up (h : svcUp s = true) : svcSubmitEff r s =
    if !s.chip.fullService || svcRefuses s r then
      { s with svc := { s.svc with frames := s.svc.frames + 1, denied := true } }
    else if 512 ≤ flightCount s ∨ heldCount s ≠ 0 ∨ 8 ≤ s.svc.cpls.length + s.svc.reserved then
      { s with svc := { s.svc with frames := s.svc.frames + 1, busy := true } }
    else drain (accept .svc none [r] { s with svc := { s.svc with frames := s.svc.frames + 1, reserved := s.svc.reserved + 1 } }) := by
  have serves : ¬ (!s.svc.strap || !s.chip.understory) = true := by
    simpa [svcUp, or_iff_not_imp_left] using h
  exact if_neg serves

theorem svcSubmitEff_denied (h : svcUp s = true) (hd : s.chip.fullService = false ∨ svcRefuses s r = true) :
    svcSubmitEff r s = { s with svc := { s.svc with frames := s.svc.frames + 1, denied := true } } :=
  (svcSubmitEff_up h).trans (if_pos (by simpa using hd))

theorem svcSubmitEff_busy (h : svcUp s = true) (hf : s.chip.fullService = true) (hr : svcRefuses s r = false)
    (hb : 512 ≤ flightCount s ∨ heldCount s ≠ 0 ∨ 8 ≤ s.svc.cpls.length + s.svc.reserved) :
    svcSubmitEff r s = { s with svc := { s.svc with frames := s.svc.frames + 1, busy := true } } :=
  (svcSubmitEff_up h).trans ((if_neg (by simp [hf, hr])).trans (if_pos hb))

end Submission

/-- Settles O33: the submission is denied, finds no room, or is taken and waits (`svcDescEff_waits`). -/
theorem serviceDescriptorsAreAccepted : Obligations.Service_descriptors_are_accepted := by
  unfold Obligations.Service_descriptors_are_accepted
  intro dt r s u b w f hs hu hb
  subst hu hb
  refine ⟨fun hup hd => ?_, fun hup hf hr hroom => ?_, fun ht hfw _ hp hi => ?_⟩
  · have denied := svcSubmitEff_denied (s := frameBegin (begin dt s)) (r := r) (by simpa using hup) (by simpa using hd)
    exact exec_closes rfl hs ((svcDescEff_up hup).trans (congrArg frameEnd denied))
  · have busy := svcSubmitEff_busy (s := frameBegin (begin dt s)) (r := r) (by simpa using hup) (by simpa using hf) (by simpa using hr)
      (by simpa using hroom)
    exact exec_closes rfl hs ((svcDescEff_up hup).trans (congrArg frameEnd busy))
  · obtain ⟨rfl, rfl⟩ := Prod.mk.inj hfw
    exact exec_closes rfl hs (svcDescEff_waits r _ _ rfl ht hp hi)

/-! ### NOP and FENCE (R86, R99, R100) -/

section Fields

variable {op : Nat} (d : Desc)

/-- R86: the fields of a descriptor lie side by side, so that none is cut off. -/
theorem rawOf_toNat (h : op < 2 ^ 16) : (rawOf op d).bits.toNat = op + d.flags.toNat * 2 ^ 16 + d.tag.toNat * 2 ^ 24
    + d.target.toNat * 2 ^ 32 + d.apply.toNat * 2 ^ 64 + d.payload.toNat * 2 ^ 128 := by
  have flags := d.flags.isLt
  have tag := d.tag.isLt
  have target := d.target.isLt
  have apply := d.apply.isLt
  have payload := d.payload.isLt
  rw [rawOf, BitVec.toNat_ofNat]
  omega

theorem svcFlight_opcode (r : RawDesc) (s : State) : (svcFlight r s).1.opcode = BitVec.ofNat 8 (rawU r 0 1) := rfl

theorem svcFlight_payload (r : RawDesc) (s : State) : (svcFlight r s).1.payload = BitVec.ofNat 384 (r.bits.toNat / 2 ^ 128) := rfl

/-- R86: the opcode of a descriptor in flight. -/
theorem opcode_svcFlight_rawOf (h : op < 2 ^ 8) (s : State) : (svcFlight (rawOf op d) s).1.opcode.toNat = op := by
  rw [svcFlight_opcode, BitVec.toNat_ofNat, rawU, bits, rawOf_toNat d (by omega)]
  omega

/-- R86: the payload of a descriptor in flight. -/
theorem payload_svcFlight_rawOf (h : op < 2 ^ 8) (s : State) : (svcFlight (rawOf op d) s).1.payload = d.payload := by
  have flags := d.flags.isLt
  have tag := d.tag.isLt
  have target := d.target.isLt
  have apply := d.apply.isLt
  have payload := d.payload.isLt
  refine BitVec.eq_of_toNat_eq ?_
  rw [svcFlight_payload, BitVec.toNat_ofNat, rawOf_toNat d (by omega)]
  omega

/-- The command byte of a FENCE is the one set. -/
theorem pU_forceByte_17 (p : BitVec 384) {v : Nat} (h : v < 2 ^ 8) : pU (forceByte p 17 v) 17 1 = v := by
  have fits := p.isLt
  simp only [pU, forceByte, putBits, bits, BitVec.toNat_ofNat]
  omega

theorem pU_svcFlight_withSub {v : Nat} (h : op < 2 ^ 8) (hv : v < 2 ^ 8) (s : State) :
    pU (svcFlight (rawOf op (withSub 17 v d)) s).1.payload 17 1 = v := by
  rw [payload_svcFlight_rawOf _ h]
  exact pU_forceByte_17 _ hv

end Fields

section AtOnce

variable {f : InFlight} {s : State}

theorem isImmediate_untimed (h : f.opcode.toNat = 1 ∨ f.opcode.toNat = 2) : isImmediate f s = true := by
  rcases h with h | h <;> simp [isImmediate, h, opInfo]

theorem opNow_fence {serve : BitVec 16 → List RawDesc → State → State} (h : f.opcode.toNat = 1) : opNow serve f s = fenceNow f s := by
  simp [opNow, h]

theorem opNow_nop {serve : BitVec 16 → List RawDesc → State → State} (h : f.opcode.toNat = 2) :
    opNow serve f s = completeOk f.id (some (nowStamp s)) s := by
  simp [opNow, h]

theorem fenceNow_waits (h : pU f.payload 17 1 = 0) :
    fenceNow f s = releaseFences (modFlight s f.id (fun x => { x with due := .running })) :=
  if_neg (by simp [h])

/-- R82, R89: FENCE and NOP act at acceptance. -/
theorem svcDescEff_untimed {op : Nat} (d : Desc) (h : op = 1 ∨ op = 2) (ht : svcTakes (rawOf op d) (frameBegin s) = true)
    (hp : passes (rawOf op d) (frameBegin s) = true) : svcDescEff (rawOf op d) s =
      svcDone (opNow tunnelServer (svcFlight (rawOf op d) (frameBegin s)).1 (svcFlight (rawOf op d) (frameBegin s)).2) := by
  have code := opcode_svcFlight_rawOf d (op := op) (by omega) (frameBegin s)
  have other : (svcFlight (rawOf op d) (frameBegin s)).1.opcode ≠ 0x70#8 := fun e => by
    rw [e] at code
    rcases h with rfl | rfl <;> exact absurd code (by decide)
  exact svcDescEff_acts _ s _ rfl ht hp (isImmediate_untimed (by rwa [code])) other

end AtOnce

/-- Settles O36: each row submits its descriptor, which acts at acceptance by its opcode, a FENCE by its command byte. -/
theorem nopsAndFencesComplete : Obligations.Nops_and_fences_complete := by
  unfold Obligations.Nops_and_fences_complete
  intro dt d r s u b w f hs hu hb
  subst hu hb
  refine ⟨fun hr ht hfw hp => ?_, fun hr ht hfw hp => ?_, fun hr ht hfw hp => ⟨?_, ?_⟩⟩ <;> subst hr <;>
    obtain ⟨rfl, rfl⟩ := Prod.mk.inj hfw
  · have nop := svcDescEff_untimed d (.inr rfl) ht hp
    rw [opNow_nop (opcode_svcFlight_rawOf d (by omega) _)] at nop
    exact exec_closes rfl hs nop
  · have fence := svcDescEff_untimed _ (.inl rfl) ht hp
    rw [opNow_fence (opcode_svcFlight_rawOf _ (by omega) _), fenceNow_waits (pU_svcFlight_withSub d (by omega) (by omega) _)] at fence
    exact exec_closes rfl hs fence
  · have fence := svcDescEff_untimed _ (.inl rfl) ht hp
    rw [opNow_fence (opcode_svcFlight_rawOf _ (by omega) _)] at fence
    exact exec_closes rfl hs fence
  · exact pU_svcFlight_withSub (op := 1) d (v := 1) (by omega) (by omega) (frameBegin (begin dt s))

/-! ### Doorbells (R79 to R81, R83, R85) -/

section Doorbells

variable {s : State} {value : Word}

/-- The low 16 bits of a value without others are the value. -/
theorem doorbell_index (h : value.toNat < 65536) : value.toNat / 65536 = 0 ∧ value.toNat % 65536 = value.toNat := by omega

section Tail

variable {n : Fin 8}

theorem sqTailEff_discarded (h : ringOn s (sqBase n) = false ∨ s.host.sq[n].error = true) : sqTailEff n value s = s :=
  if_pos (by simpa using h)

/-- The entries that a tail publishes. -/
def tailMore (s : State) (n : Fin 8) (tail : Nat) : Nat :=
  (tail + ringSize s (sqBase n) - s.host.sq[n].tail) % ringSize s (sqBase n)

variable (hon : ringOn s (sqBase n) = true) (herr : s.host.sq[n].error = false)
include hon herr

theorem sqTailEff_badBits (h : 65536 ≤ value.toNat) : sqTailEff n value s = ringViolation (.sq n) 2 value.toNat s := by
  have high : value.toNat / 65536 ≠ 0 := by omega
  exact (if_neg (by simp [-Fin.getElem_fin, hon, herr])).trans (if_pos high)

/-- A tail without further bits is judged by its index, and by the entries that it publishes. -/
theorem sqTailEff_index (h : value.toNat < 65536) : sqTailEff n value s =
    if ringSize s (sqBase n) ≤ value.toNat then ringViolation (.sq n) 1 value.toNat s
    else if ringSize s (sqBase n) - outstanding s n < tailMore s n value.toNat then ringViolation (.sq n) 2 value.toNat s
    else if s.host.sq[n].asked = 0 then
      requestFetch (modSq s n (fun q => { q with tail := value.toNat, published := q.published + tailMore s n value.toNat })) n
    else modSq s n (fun q => { q with tail := value.toNat, published := q.published + tailMore s n value.toNat }) := by
  obtain ⟨high, low⟩ := doorbell_index h
  refine (if_neg (by simp [-Fin.getElem_fin, hon, herr])).trans ((if_neg (not_not.mpr high)).trans ?_)
  rw [low]
  rfl

end Tail

section Head

variable {r : OutRing}

/-- R80, R83: a head that returns no more entries than the device has written. -/
theorem headEff_returns {back : Nat} (hon : ringOn s (outBase r) = true) (herr : (wrRing s r).error = false) (h : value.toNat < 65536)
    (hi : value.toNat < ringSize s (outBase r))
    (hb : back = (value.toNat + ringSize s (outBase r) - (wrRing s r).head) % ringSize s (outBase r)) (hu : back ≤ (wrRing s r).used) :
    headEff r value s = modWr s r (fun x => { x with head := value.toNat, used := x.used - back }) := by
  obtain ⟨high, low⟩ := doorbell_index h
  subst hb
  simp only [headEff, hon, herr, high, low, Nat.not_le.mpr hi, Nat.not_lt.mpr hu, Bool.not_true, Bool.or_self, Bool.false_eq_true,
    if_false, ne_eq, not_true_eq_false]

end Head

/-- R79: the offsets of the bell window to which no doorbell belongs. -/
def bellUnassigned (off : Nat) : Prop :=
  off % 4 ≠ 0 ∨ (0x20 ≤ off ∧ off < 0x40) ∨ (0x60 ≤ off ∧ off < 0x80) ∨ (0x84 ≤ off ∧ off < 0xA0) ∨ (0xB0 ≤ off ∧ off < 0xC0)
    ∨ 0xC4 ≤ off

theorem bellWrite_unassigned {off : Nat} (h : bellUnassigned off) : bellWrite off value s = s := by
  unfold bellUnassigned at h
  unfold bellWrite
  split_ifs
  · rfl
  any_goals omega
  rfl

end Doorbells

/-- Settles O22: the doorbell is discarded, breaks the protocol or publishes (`sqTailEff_index`). -/
theorem submissionDoorbellsPublishEntries : Obligations.Submission_doorbells_publish_entries := by
  unfold Obligations.Submission_doorbells_publish_entries
  intro dt n value s u w hs hu
  subst hu
  refine ⟨fun h => ?_, fun hon herr => ⟨fun hv => ?_, fun hv hi => ?_, fun hv hi hm hw => ?_, fun hv hi hm => ?_⟩, fun _ => rfl,
    fun off h => bellWrite_unassigned h⟩
  · exact exec_closes rfl hs (sqTailEff_discarded h)
  · exact exec_closes rfl hs (sqTailEff_badBits hon herr hv)
  · exact exec_closes rfl hs ((sqTailEff_index hon herr hv).trans (if_pos hi))
  · subst hw
    exact exec_closes rfl hs ((sqTailEff_index hon herr hv).trans ((if_neg (Nat.not_le.mpr hi)).trans (if_neg (Nat.not_lt.mpr hm))))
  · exact exec_closes rfl hs ((sqTailEff_index hon herr hv).trans ((if_neg (Nat.not_le.mpr hi)).trans (if_pos hm)))

/-- Settles O23: the head returns its entries (`headEff_returns`); what goes on then depends on the ring. -/
theorem headDoorbellsReturnEntries : Obligations.Head_doorbells_return_entries := by
  unfold Obligations.Head_doorbells_return_entries
  intro dt r value s u w back hs hu hon herr hv hi hb hused hw
  subst hu hw
  have returned := headEff_returns hon herr hv hi hb hused
  refine ⟨fun n hr => ?_, fun hr => ?_, fun n hr => ?_⟩ <;> subst hr
  · exact exec_closes rfl hs (congrArg (fun t => canPumpAll (drain t)) returned)
  · exact exec_closes rfl hs returned
  · exact exec_closes rfl hs returned

/-! ### Heartbeats and coalescing timers (R101, R103) -/

section Heartbeats

variable {s : State}

/-- R103: the state in which a heartbeat is stamped and its timer restarted. -/
def heartbeatNoted (s : State) : State :=
  { s with host := { s.host with hbLast := markNow s, hbFrom := s.time.now, hbLost := false } }

theorem heartbeatEff_going (h : s.host.hbLost = false) : heartbeatEff s = heartbeatNoted s :=
  if_neg (by simp [h])

theorem heartbeatEff_resumed (h : s.host.hbLost = true) : heartbeatEff s = emit
    { source := 19, sev := .note, payload := leBytes 4 (t32 (s.host.hbLast.inDom (evtDomain (heartbeatNoted s))).t).toNat }
    (heartbeatNoted s) :=
  if_pos h

/-- R103: the state in which the loss of the heartbeat is counted. -/
def heartbeatMissed (s : State) : State :=
  { s with host := { s.host with hbLost := true, hbLostCount := satU 16 (s.host.hbLostCount + 1) } }

/-- R103: no heartbeat for timeout_ms, and the loss is not yet known. -/
def heartbeatOverdue (s : State) : Prop :=
  regF s 0x1008 15 0 ≠ 0 ∧ s.host.hbLost = false ∧ s.host.hbFrom + regF s 0x1008 15 0 * msLsb ≤ s.time.now

/-- R103: HB_LOST as action `action` raises it. -/
def hbLostHap (s : State) (sev : Sev) (action : Nat) : Hap :=
  { source := 18, sev := sev, idx := action, payload := leBytes 2 (regF s 0x1008 15 0) ++ b1 action }

section Overdue

variable (h : heartbeatOverdue s)
include h

theorem hbLostEff_raises (ha : regF s 0x1008 17 16 = 0) :
    hbLostEff s = emit (hbLostHap s .warning 0) (heartbeatMissed s) := by
  obtain ⟨on, known, late⟩ := h
  refine (if_neg (by simp [on, known, late])).trans ?_
  simp only [ha]
  rfl

theorem hbLostEff_orphans (ha : regF s 0x1008 17 16 = 1) :
    hbLostEff s = orphanApply stHbOrphan 0 (purgeFences stHbOrphan 0 (modHost (emit (hbLostHap s .warning 1) (heartbeatMissed s))
      (fun h => { h with orphanStop := regB (heartbeatMissed s) 0x1000 0 }))) := by
  obtain ⟨on, known, late⟩ := h
  refine (if_neg (by simp [on, known, late])).trans ?_
  simp only [ha]
  rfl

theorem hbLostEff_stops (ha : 2 ≤ regF s 0x1008 17 16) :
    hbLostEff s = raiseSs1 (hbLostHap s .fault (regF s 0x1008 17 16)) 6 (List.finRange 8) (heartbeatMissed s) := by
  obtain ⟨on, known, late⟩ := h
  obtain ⟨k, hk⟩ := Nat.exists_eq_add_of_le' ha
  refine (if_neg (by simp [on, known, late])).trans ?_
  simp only [hk]
  rfl

end Overdue

end Heartbeats

section Coalescing

variable {s : State} {t : Nat}

/-- R101: the timer of a ring that signals `coal_us` after an entry of the instant `t` has run out. -/
def coalesceDue (s : State) (r : OutRing) (t : Nat) : Prop :=
  coalUs s (outBase r) ≠ 0 ∧ t + coalUs s (outBase r) * usLsb ≤ s.time.now

theorem coalesceEff_ring {r : OutRing} (hr : r ≠ .evq) (hd : coalesceDue s r t) (ho : (wrRing s r).oldest = some t) :
    coalesceEff r s = signalVec (regF s (outBase r + 8) 14 10) (modWr s r (fun w => { w with unsig := 0, oldest := none })) := by
  obtain ⟨on, late⟩ := hd
  cases r with
  | evq => exact absurd rfl hr
  | cq n => simp [coalesceEff, ho, on, late]
  | str n => simp [coalesceEff, ho, on, late]

theorem coalesceEff_evq {v k : Nat} (hd : coalesceDue s .evq t) (hu : s.fault.unsig = [(v, k, t)]) :
    coalesceEff .evq s = signalVec v { s with fault := { s.fault with unsig := [] } } := by
  obtain ⟨on, late⟩ := hd
  simp [coalesceEff, hu, on, late]

end Coalescing

/-- Settles O24: the heartbeat is noted; one that is overdue is counted and has the effect of its action; a timer that has run out signals. -/
theorem heartbeatsAndCoalescingTimers : Obligations.Heartbeats_and_coalescing_timers := by
  unfold Obligations.Heartbeats_and_coalescing_timers
  intro dt s u v hs hu
  subst hu
  refine ⟨fun hv => ⟨fun h => ?_, fun h => ?_⟩, fun hon hk hl hv => ⟨fun ha => ?_, fun w ha hw => ?_, fun ha => ?_⟩,
    fun r t hon hl => ⟨fun hr ho => ?_, fun v k hr hq => ?_⟩⟩
  · exact exec_closes rfl hs ((heartbeatEff_going h).trans hv.symm)
  · subst hv
    exact exec_closes rfl hs (heartbeatEff_resumed h)
  · subst hv
    exact exec_closes rfl hs (hbLostEff_raises ⟨hon, hk, hl⟩ ha)
  · subst hv hw
    exact exec_closes rfl hs (hbLostEff_orphans ⟨hon, hk, hl⟩ ha)
  · subst hv
    exact exec_closes rfl hs (hbLostEff_stops ⟨hon, hk, hl⟩ ha)
  · exact exec_closes rfl hs (coalesceEff_ring hr ⟨hon, hl⟩ ho)
  · subst hr
    exact exec_closes rfl hs (coalesceEff_evq ⟨hon, hl⟩ hq)

/-! ### Fetches and completions (R71, R82 to R85, R92, R93, R95, R106) -/

/-- What is written to a submission ring depends on the ring found only. -/
theorem modSq_congr {s : State} {n : Fin 8} {f g : SubRing → SubRing} (h : f s.host.sq[n] = g s.host.sq[n]) : modSq s n f = modSq s n g := by
  rw [modSq, modSq, upd_congr h]

section Completions

variable {s : State} {c : Cpl} {q n : Fin 8}

theorem completionEff_sq (r : WriteResult) (hc : pickDue s = some c) (hn : c.src = .sq n) :
    completionEff r s = drain (releaseFences (if suppressed c then suppress c s else deliver c r s)) := by
  simp only [completionEff, hc, hn]

/-- R92, R106: a completion goes to its ring: the ring is on and in order, and none is held for it. -/
def goesTo (s : State) (q : Fin 8) (c : Cpl) : Prop :=
  c.cq = some q ∧ c.toCq0 = false ∧ ringOn s (cqBase q) = true ∧ s.host.cq[q].error = false
    ∧ s.host.done.any (fun x => x.held && !x.toCq0 && x.cq == some q) = false

theorem deliver_goes (h : goesTo s q c) : deliver c .ok s = writeCpl q c s := by
  obtain ⟨hq, h0, hon, herr, hheld⟩ := h
  simp only [deliver, hq, h0, hon, herr, hheld, Bool.not_true, Bool.or_self, Bool.false_eq_true, if_false]

theorem deliver_fails (h : goesTo s q c) (code : Byte) : deliver c (.failed code) s = holdCpl c (ringDmaError (.out (.cq q)) code s) := by
  obtain ⟨hq, h0, hon, herr, hheld⟩ := h
  simp only [deliver, hq, h0, hon, herr, hheld, Bool.not_true, Bool.or_self, Bool.false_eq_true, if_false]

/-- R106: a held completion is written while others stay held. -/
theorem heldEff_writes {w : State}
    (hc : bestBy (fun (a b : Cpl) => decide (a.order < b.order)) (s.host.done.filter (heldReady s)) = some c) (hq : heldRing c = some q)
    (hw : w = modHost (writeCpl q c s) (fun h => { h with heldWritten := h.heldWritten + 1 })) (hn : heldCount w ≠ 0) :
    heldEff .ok s = w := by
  subst hw
  simp only [heldEff, hc, hq]
  exact if_pos hn

end Completions

section Fetches

variable {s : State} {n : Fin 8}

/-- R85: a submission ring in order that has a read under way. -/
def awaitsFetch (s : State) (n : Fin 8) : Prop :=
  ringOn s (sqBase n) = true ∧ s.host.sq[n].error = false ∧ s.host.sq[n].asked ≠ 0

theorem fetchEff_ok (h : awaitsFetch s n) (es : List RawDesc) : fetchEff n (.ok es) s =
    drain (requestFetch (modSq s n (fun q => { q with fetched := q.fetched ++ es.take s.host.sq[n].asked })) n) := by
  obtain ⟨hon, herr, hasked⟩ := h
  refine (if_neg (by simp [-Fin.getElem_fin, hon, herr, hasked])).trans (congrArg (fun t => drain (requestFetch t n)) ?_)
  exact modSq_congr rfl

theorem fetchEff_failed (h : awaitsFetch s n) (code : Byte) :
    fetchEff n (.failed code) s = ringDmaError (.sq n) code (modSq s n (fun q => { q with asked := 0 })) := by
  obtain ⟨hon, herr, hasked⟩ := h
  exact if_neg (by simp [-Fin.getElem_fin, hon, herr, hasked])

/-- R71, R85: the bounds of a read request. -/
theorem nextFetch_le (s : State) (n : Fin 8) : (nextFetch s n).2 ≤ 8 ∧ 64 * (nextFetch s n).2 ≤ maxRead s
    ∧ (nextFetch s n).2 ≤ outstanding s n - s.host.sq[n].fetched.length ∧ (nextFetch s n).2 ≤ ringSize s (sqBase n) - (nextFetch s n).1 := by
  simp only [nextFetch]
  omega

end Fetches

/-- Settles O25: the completion's source, flags and ring, or the ring's read under way, decide; the bounds are those of the least. -/
theorem entriesAreFetchedAndCompletionsWritten : Obligations.Entries_are_fetched_and_completions_written := by
  unfold Obligations.Entries_are_fetched_and_completions_written
  intro dt c q n s u hs hu
  subst hu
  refine ⟨fun hc hn hx => ?_, fun hc hn hx hq h0 hon herr hheld => ⟨?_, fun code => ?_⟩, fun w hc hq hw hn => ?_,
    fun hon herr hasked => ⟨fun es => ?_, fun code => ?_⟩, nextFetch_le _ n⟩
  · have done := completionEff_sq .ok hc hn
    rw [if_pos hx] at done
    exact exec_closes rfl hs done
  · have done := completionEff_sq .ok hc hn
    rw [if_neg (by simp [hx]), deliver_goes ⟨hq, h0, hon, herr, hheld⟩] at done
    exact exec_closes rfl hs done
  · have done := completionEff_sq (.failed code) hc hn
    rw [if_neg (by simp [hx]), deliver_fails ⟨hq, h0, hon, herr, hheld⟩] at done
    exact exec_closes rfl hs done
  · exact exec_closes rfl hs (heldEff_writes hc hq hw hn)
  · exact exec_closes rfl hs (fetchEff_ok ⟨hon, herr, hasked⟩ es)
  · exact exec_closes rfl hs (fetchEff_failed ⟨hon, herr, hasked⟩ code)

/-! ### The host link and its resets (R102 to R106) -/

section Link

variable {s : State}

theorem linkUpEff_rises (speed : BitVec 2) (h : s.host.linkUp = false) :
    linkUpEff speed s = emit { source := 21, sev := .note, payload := b1 speed.toNat }
      { s with host := { s.host with linkUp := true, linkSpeed := speed, downAt := none } } :=
  if_neg (by simp [h])

theorem linkDownEff_falls (h : s.host.linkUp = true) :
    linkDownEff s = { s with host := { s.host with linkUp := false, downAt := some s.time.now } } :=
  if_pos h

theorem ptmEff_early (h : ptmDue s = false) (r : Option T64) : ptmEff r s = s := if_pos (by simp [h])

theorem ptmEff_failed (h : ptmDue s = true) : ptmEff none s = setPtm false (modHost s (fun h => { h with lastPtm := some s.time.now })) :=
  if_neg (by simp [h])

theorem ptmEff_answered (h : ptmDue s = true) (ns : T64) : ptmEff (some ns) s =
    masterUpdateEff .d3 ((ns - BitVec.ofNat 64 (reg s 0x21A0 + 2 ^ 32 * reg s 0x21A4)) * 16)
      (setPtm true (modHost s (fun h => { h with lastPtm := some s.time.now }))) :=
  if_neg (by simp [h])

theorem linkLoss_due {t : Nat} (hd : s.host.downAt = some t) (ht : t + 2 * msLsb ≤ s.time.now) : linkLossDue s = true := by
  simp [linkLossDue, hd, ht]

theorem linkLossEff_resets {t : Nat} (hd : s.host.downAt = some t) (ht : t + 2 * msLsb ≤ s.time.now) : linkLossEff s = hostReset 3 s := by
  simp [linkLossEff, hd, ht]

end Link

/-- Settles O26: the state of the link, and whether a dialogue is due, decide. -/
theorem linkAndPtmState : Obligations.Link_and_ptm_state := by
  unfold Obligations.Link_and_ptm_state
  intro dt path s u hs hu
  subst hu
  refine ⟨fun speed h => ?_, fun h => ?_, fun h w hw => ⟨?_, fun ns => ?_⟩, fun h r => ?_, fun hp => ?_⟩
  · exact exec_closes rfl hs (linkUpEff_rises speed h)
  · exact exec_closes rfl hs (linkDownEff_falls h)
  · subst hw
    exact exec_closes rfl hs (ptmEff_failed h)
  · subst hw
    exact exec_closes rfl hs (ptmEff_answered h ns)
  · exact exec_closes rfl hs (ptmEff_early h r)
  · exact exec_closes_gated (eff := orphanAckEff) rfl hs hp rfl

/-- A command that resets the HOST region, out of reset, answers the close of what the reset leaves, without the region's upd_seq fields. -/
theorem exec_closes_host {i : Instr} {dt : Nat} {s t : State} {did : State → Bool} {eff : State → State}
    (hi : exec i s = runHost dt s did eff) (hs : s.life.inReset = false) (hd : did (begin dt s) = true) (ht : eff (begin dt s) = t) :
    exec i s = .next (dropHostSeqs (closing (begin dt s) t)) := by
  rw [hi, runHost_next dt s did eff hs hd, ht]

/-- Settles O27: each kind of reset, and a link lost for 2 ms, has `hostReset` as its effect. -/
theorem hostResetsApplyTheOrphanPolicy : Obligations.Host_resets_apply_the_orphan_policy := by
  unfold Obligations.Host_resets_apply_the_orphan_policy
  intro dt k s u v hs hu hv
  subst hu
  have reset : hostReset k (begin dt s) = v := hv.symm
  refine ⟨fun hk => ?_, fun hk => ?_, fun hk => ?_, fun t hk hd ht => ?_, fun x => ⟨rfl, rfl, rfl, List.length_map .., rfl⟩⟩ <;> subst hk
  · exact exec_closes_host (eff := hostResetEff .perst) rfl hs rfl reset
  · exact exec_closes_host (eff := hostResetEff .hot) rfl hs rfl reset
  · exact exec_closes_host (eff := hostResetEff .flr) rfl hs rfl reset
  · exact exec_closes_host rfl hs (linkLoss_due hd ht) ((linkLossEff_resets hd ht).trans reset)

/-! ### Writes of set-up registers (R73, R108, R112) -/

section Registers

/-- A read after a write of a value that differs from the default gives the value, in whatever form the store is. -/
theorem cellGet_cellPut_same_of_ne {d : Nat → Nat} {a x : Nat} (h : x ≠ d a) : ∀ cs : List (Nat × Nat),
    cellGet d (cellPut d cs a x) a = x
  | [] => by simp [cellPut, h, cellGet]
  | (k, v) :: cs => by
    unfold cellPut
    split_ifs with at_k below
    · simp [cellGet]
    · simp [cellGet]
    · simp [cellGet, at_k, below, cellGet_cellPut_same_of_ne h cs]

theorem bit_zero_eq_true {x : Nat} : bit x 0 = true ↔ x % 2 = 1 := by simp [bit]

/-- R108: the enable bit of a ring's CFG register is writable and 0 after reset. -/
theorem ringCfg_enable (r : Ring) : regMask (ringBase r + 8) % 2 = 1 ∧ regDefault (ringBase r + 8) % 2 = 0 := by
  have sq : ∀ n : Fin 8, regMask (sqBase n + 8) % 2 = 1 ∧ regDefault (sqBase n + 8) % 2 = 0 := by decide
  have cq : ∀ n : Fin 8, regMask (cqBase n + 8) % 2 = 1 ∧ regDefault (cqBase n + 8) % 2 = 0 := by decide
  have evq : regMask (evqBase + 8) % 2 = 1 ∧ regDefault (evqBase + 8) % 2 = 0 := by decide
  have str : ∀ n : Fin 4, regMask (strBase n + 8) % 2 = 1 ∧ regDefault (strBase n + 8) % 2 = 0 := by decide
  match r with
  | .sq n => exact sq n
  | .out (.cq n) => exact cq n
  | .out .evq => exact evq
  | .out (.str n) => exact str n

variable {s : State} {r : Ring} {v : Nat}

/-- R108, R112: an odd value written to a ring's CFG register sets its enable. -/
theorem regB_writeRw_enable (hv : v % 2 = 1) : regB (writeRw s (ringBase r + 8) v) (ringBase r + 8) 0 = true := by
  obtain ⟨mask, dflt⟩ := ringCfg_enable r
  have odd : Nat.lor (Nat.land v (regMask (ringBase r + 8)))
      (Nat.land (reg s (ringBase r + 8)) (Nat.xor 0xFFFFFFFF (regMask (ringBase r + 8)))) % 2 = 1 :=
    Nat.or_mod_two_eq_one.mpr (.inl (Nat.and_mod_two_eq_one.mpr ⟨hv, mask⟩))
  have differs : Nat.lor (Nat.land v (regMask (ringBase r + 8)))
      (Nat.land (reg s (ringBase r + 8)) (Nat.xor 0xFFFFFFFF (regMask (ringBase r + 8)))) ≠ regDefault (ringBase r + 8) := by omega
  have stored := cellGet_cellPut_same_of_ne differs s.regs
  exact bit_zero_eq_true.mpr ((congrArg (· % 2) stored).trans odd)

theorem ringCfgWrite_starts (hoff : regB s (ringBase r + 8) 0 = false) (hv : v % 2 = 1) :
    ringCfgWrite r v s = canPumpAll (drain (noteRing s r (startRing r (writeRw s (ringBase r + 8) v)))) :=
  (if_neg (by simp [hoff])).trans (if_pos (regB_writeRw_enable hv))

theorem ringCfgWrite_ends (hon : regB s (ringBase r + 8) 0 = true) (hv : v % 2 = 0) :
    ringCfgWrite r v s = noteRing s r (setReg s (ringBase r + 8) (putBits (reg s (ringBase r + 8)) 0 0 0)) :=
  (if_pos hon).trans (if_neg (by simp [bit_zero_eq_true, hv]))

end Registers

section Writes

variable {s : State} {path : Path} {addr : BitVec 16} {value : Word}

theorem alignedOff_aligned (h : addr.toNat % 4 = 0) : alignedOff addr = addr.toNat := Nat.div_mul_cancel (Nat.dvd_of_mod_eq_zero h)

/-- R73, R112: a whole aligned word. -/
theorem regWriteEff_whole (h : addr.toNat % 4 = 0) :
    regWriteEff path addr value 15 s = pathGate path (regWrite path addr.toNat value.toNat) s := by
  rw [regWriteEff, if_neg (by simp [h]), alignedOff_aligned h]

theorem regWriteEff_part {be : BitVec 4} (h : be ≠ 15) : regWriteEff .pcie addr value be s = partialWrite addr s :=
  if_pos ⟨rfl, .inl h⟩

end Writes

/-- Settles O29: the byte enables decide whether a word is written; a ring's enable before and after decides what follows. -/
theorem registerWritesComplete : Obligations.Register_writes_complete := by
  unfold Obligations.Register_writes_complete
  intro dt path addr value s u hs hu hp
  subst hu
  refine ⟨fun h => ?_, fun be h hpath => ?_, fun r hoff hv => ?_, fun r hon hv => ?_⟩
  · exact exec_closes rfl hs ((regWriteEff_whole h).trans (pathGate_open path _ _ hp))
  · subst hpath
    exact exec_closes rfl hs (regWriteEff_part h)
  · exact exec_closes_gated rfl hs hp (ringCfgWrite_starts hoff hv)
  · exact exec_closes_gated rfl hs hp (ringCfgWrite_ends hon hv)

end Sys2Proof.Machine
end

section
/-!
PROOF. Family 04: the upd_seq fields, kept sound by every step and counted at every close, a close after which nothing follows, the
set-up registers and the frames of the service port.
-/

namespace Sys2Proof.Machine

/-! ### Raising a happening leaves upd_seq as it is (R466 to R479) -/

theorem OnlyFault.seqs {s t : State} (h : OnlyFault s t) : t.seqs = s.seqs := by
  obtain ⟨f, rfl, -⟩ := h
  rfl

theorem OnlyFault.foldl {α : Type} {f : State → α → State} (hf : ∀ s x, OnlyFault s (f s x)) : ∀ (xs : List α) (s : State),
    OnlyFault s (xs.foldl f s)
  | [], s => .refl s
  | x :: xs, s => (hf s x).trans (foldl hf xs (f s x))

theorem OnlyFault.ite {s t u : State} {p : Prop} [Decidable p] (ht : OnlyFault s t) (hu : OnlyFault s u) :
    OnlyFault s (if p then t else u) := by
  split <;> assumption

theorem OnlyFault.ite_fst {α : Type} {s : State} {x y : State × α} {p : Prop} [Decidable p] (hx : OnlyFault s x.1) (hy : OnlyFault s y.1) :
    OnlyFault s (if p then x else y).1 := by
  split <;> assumption

theorem OnlyFault.of_eq {α : Type} {s t : State} {x : State × α} {a : α} (h : OnlyFault s x.1) (e : x = (t, a)) : OnlyFault s t := by
  rwa [e] at h

theorem orphanChildren_fault (s : State) (r : EntryRef) : OnlyFault s (orphanChildren s r) := ⟨_, rfl, rfl, rfl, rfl⟩

theorem putEntry_fault (s : State) (L : Fin 7) (e : Entry) : OnlyFault s (putEntry s L e).1 := by
  unfold putEntry
  split
  · exact modLedger_fault s L _
  · split
    · split
      · exact modLedger_fault s L _
      · exact (orphanChildren_fault s _).trans (modLedger_fault _ L _)
    · split
      · exact .refl s
      · exact modLedger_fault s L _

theorem logEntry_fault (s : State) (h : Hap) : OnlyFault s (logEntry s h).1 := by
  unfold logEntry
  dsimp only
  generalize (if h.chip = true then (6 : Fin 7) else ledgerOf h.source) = L
  have own := putEntry_fault s L (newEntry s L h)
  split
  · exact modEntry_fault s _ _
  · split
    next e => exact own.of_eq e
    next e => exact own.of_eq e
    next t e =>
      have chip : OnlyFault s (if L = 6 then (t, (none : Option EntryRef), (none : Option Sev)) else putEntry t 6 (newEntry s L h)).1 :=
        .ite_fst (own.of_eq e) ((own.of_eq e).trans (putEntry_fault t 6 _))
      split
      next e => exact chip.of_eq e
      next e => exact chip.of_eq e
      next e => exact (chip.of_eq e).trans (modLedger_fault _ 6 _)

theorem preemptOthers_fault (s : State) (L : Nat) (sev : Sev) (self : EntryRef) : OnlyFault s (preemptOthers s L sev self) := by
  refine OnlyFault.foldl (fun s x => ?_) _ s
  split
  split
  · exact modEntry_fault s _ _
  · exact .refl s

theorem beginHandling_fault (s : State) (r : EntryRef) (sev : Sev) (a : Handling) : OnlyFault s (beginHandling s r sev a).1 :=
  .ite_fst ((modEntry_fault s r _).trans ⟨_, rfl, rfl, rfl, rfl⟩)
    (.trans (.ite (.refl s) (preemptOthers_fault s _ sev r)) (modEntry_fault _ r _))

@[simp] theorem noteSource_seqs (k : Nat) (s : State) : (noteSource k s).seqs = s.seqs := by
  unfold noteSource
  split <;> rfl

theorem reportOverflow_seqs (s : State) (m : Option (Nat × Sev)) : (reportOverflow s m).seqs = s.seqs := by
  unfold reportOverflow
  split
  · rfl
  next L v =>
    have limited := rateLimit_fault s 13 L msLsb
    split
    next e => rw [(genToken_fault _ _ _ _ _).seqs, noteSource_seqs, (limited.of_eq e).seqs]
    next e => exact (limited.of_eq e).seqs

theorem raiseHap_seqs (s : State) (h : Hap) : (raiseHap s h).1.seqs = s.seqs := by
  have noted := noteSource_seqs h.source s
  unfold raiseHap
  dsimp only
  split
  · have logged := (logEntry_fault (noteSource h.source s) h).seqs
    have reported : (reportOverflow (genToken (logEntry (noteSource h.source s) h).1 h.source h.sev h.payload h.stamp)
        (logEntry (noteSource h.source s) h).2.2).seqs = s.seqs := by
      rw [reportOverflow_seqs, (genToken_fault _ _ _ _ _).seqs, logged, noted]
    split
    · exact (beginHandling_fault _ _ _ _).seqs.trans reported
    · exact reported
  · exact (genToken_fault _ _ _ _ _).seqs.trans noted

@[simp] theorem emit_seqs (h : Hap) (s : State) : (emit h s).seqs = s.seqs := raiseHap_seqs s h

/-! ### A chip reset begins and ends with no upd_seq (R486, R114) -/

@[simp] theorem calendarState_seqs (s : State) : (calendarState s).seqs = s.seqs := emit_seqs _ s

@[simp] theorem reportCalendar_seqs (s : State) : (reportCalendar s).seqs = s.seqs := by
  unfold reportCalendar
  split
  · exact calendarState_seqs _
  · rfl

@[simp] theorem loadJournal_seqs (bad : List (Fin 64)) (s : State) : (loadJournal bad s).seqs = s.seqs := by
  have reported : ∀ (ks : List (Fin 64)) (s : State),
      (ks.foldl (fun s k => emit { source := 242, sev := .fault, idx := k.val, payload := b1 k.val } s) s).seqs = s.seqs := by
    intro ks
    induction ks with
    | nil => exact fun _ => rfl
    | cons k ks ih => exact fun s => (ih _).trans (emit_seqs _ s)
  exact reported bad _

theorem beginUp_seqs (cycle strap : Bool) (bad : List (Fin 64)) (s : State) : (beginUp cycle strap bad s).seqs = [] := by
  have up : ∀ t : State, t.seqs = [] → (reportCalendar (loadJournal bad t)).seqs = [] := fun t ht => by
    rw [reportCalendar_seqs, loadJournal_seqs, ht]
  unfold beginUp
  dsimp only
  split
  · exact up _ rfl
  · exact up _ rfl

/-- A command of a chip reset leaves upd_seq as it was, or at 0 throughout. -/
def KeepsOrDropsSeqs (eff : State → State) : Prop := ∀ s, (eff s).seqs = s.seqs ∨ (eff s).seqs = []

theorem chipResetEff_seqs (kind : ResetKind) (high strap : Bool) (bad : List (Fin 64)) :
    KeepsOrDropsSeqs (chipResetEff kind high strap bad) := by
  intro s
  unfold chipResetEff
  dsimp only
  split_ifs
  · exact .inl rfl
  · exact .inl rfl
  · exact .inr (beginUp_seqs _ strap bad s)
  · exact .inr rfl
  · exact .inr rfl

theorem resetReleaseEff_seqs (strap : Bool) (bad : List (Fin 64)) : KeepsOrDropsSeqs (resetReleaseEff strap bad) := by
  intro s
  unfold resetReleaseEff
  split_ifs
  · exact .inl rfl
  · exact .inl rfl
  · exact .inr (beginUp_seqs false strap bad s)

theorem powerFallEff_seqs (railLost : Bool) : KeepsOrDropsSeqs (powerFallEff railLost) := by
  intro s
  unfold powerFallEff
  split_ifs
  · exact .inl rfl
  · exact .inr rfl

theorem powerRecoveryEff_seqs (strap : Bool) (bad : List (Fin 64)) : KeepsOrDropsSeqs (powerRecoveryEff strap bad) := by
  intro s
  unfold powerRecoveryEff
  split_ifs
  · exact .inr (beginUp_seqs true strap bad s)
  · exact .inl rfl

theorem vbackupEff_seqs : KeepsOrDropsSeqs vbackupEff := by
  intro s
  unfold vbackupEff
  split_ifs
  · exact .inl rfl
  · exact .inl rfl

/-! ### What a step answers -/

/-- What a command answers: the close of its effect, also where the effect may stop or resets the HOST region, or what the effect
leaves in a chip reset. -/
inductive Answers (s : State) : Host.Outcome State Fault Refusal → Prop where
  | closes (dt : Nat) (eff : State → State) : Answers s (run dt s eff)
  | closesOr (dt : Nat) (bad : State → Bool) (why : Fault) (eff : State → State) : Answers s (runOr dt s bad why eff)
  | closesHost (dt : Nat) (did : State → Bool) (eff : State → State) : Answers s (runHost dt s did eff)
  | resets (dt : Nat) {eff : State → State} (h : KeepsOrDropsSeqs eff) : Answers s (runReset dt s eff)

/-- Every command answers so; but for the rows of a chip reset, each runs its effect and closes. -/
theorem exec_answers (i : Instr) (s : State) : Answers s (exec i s) := by
  cases i with
  | chipReset dt kind high strap bad => exact .resets dt (chipResetEff_seqs kind high strap bad)
  | resetNRelease dt strap bad => exact .resets dt (resetReleaseEff_seqs strap bad)
  | powerGoodFall dt railLost => exact .resets dt (powerFallEff_seqs railLost)
  | powerRecoveryReset dt strap bad => exact .resets dt (powerRecoveryEff_seqs strap bad)
  | vbackupLoss dt => exact .resets dt vbackupEff_seqs
  | hostRegionReset | linkLoss => exact .closesHost _ _ _
  | skip dt l cond k => exact (.closesOr .. : Answers s (execSkip dt l cond k s))
  | sel dt l a b c cond => exact (.closesOr .. : Answers s (execSel dt l a b c cond s))
  | shl dt l a b n => exact (.closesOr .. : Answers s (execShl dt l a b n s))
  | accadd dt l acc b n => exact (.closesOr .. : Answers s (execAccadd dt l acc b n s))
  | ext dt l a acc n round => exact (.closesOr .. : Answers s (execExt dt l a acc n round s))
  | mxs dt l a p n => exact (.closesOr .. : Answers s (execMxs dt l a p n s))
  | mns dt l a p n => exact (.closesOr .. : Answers s (execMns dt l a p n s))
  | mxa dt l a p n => exact (.closesOr .. : Answers s (execMxa dt l a p n s))
  | _ => exact .closes _ _

/-! ### What the close of a command makes of upd_seq (R114) -/

/-- A store with the cells of some addresses put. -/
def cellsPut (f : Nat → Nat) (ks : List Nat) (m : Memory) : Memory := ks.foldl (fun m k => cellPut zero0 m k (f k)) m

theorem bumpSeqs_seqs (old new : State) :
    (bumpSeqs old new).seqs = cellsPut (nextSeq old new) seqKeys (cellsPut (fun k => updSeq new k % 256) ringKeys []) := by
  rw [bumpSeqs, cellsPut, cellsPut]

theorem nextSeq_lt (old new : State) (k : Nat) : nextSeq old new k < 256 := by
  unfold nextSeq
  split_ifs <;> exact Nat.mod_lt _ (by decide)

theorem SeqCells.nil : SeqCells [] := ⟨rfl, by simp⟩

theorem SeqCells.cellsPut {f : Nat → Nat} (hf : ∀ k, f k < 256) : ∀ {ks : List Nat} {m : Memory}, SeqCells m →
    ks ⊆ seqKeys ++ ringKeys → SeqCells (Machine.cellsPut f ks m)
  | [], _, h, _ => h
  | k :: ks, m, h, hk => by
    obtain ⟨hk, hks⟩ := List.cons_subset.mp hk
    exact cellsPut (ks := ks) hf (h.put hk (hf k)) hks

theorem SeqCells.bumpSeqs (old new : State) : SeqCells (Machine.bumpSeqs old new).seqs := by
  rw [bumpSeqs_seqs]
  refine .cellsPut (nextSeq_lt old new) (.cellsPut (fun k => Nat.mod_lt _ (by decide)) .nil ?_) ?_
  · exact List.subset_append_right _ _
  · exact List.subset_append_left _ _

theorem SeqCells.filter {m : Memory} (h : SeqCells m) (p : Nat × Nat → Bool) : SeqCells (m.filter p) :=
  ⟨filter_wf zero0 p m h.1, fun c hc => h.2 c (List.mem_of_mem_filter hc)⟩

theorem seqsSound_after {s : State} (h : seqsSound s = true) (dt : Nat) (eff : State → State) : seqsSound (after dt eff s) = true := by
  unfold after
  split
  · exact seqsSound_begin h dt
  · exact (seqsSound_iff _).mpr (.bumpSeqs _ _)

theorem seqsSound_dropHostSeqs {s : State} (h : seqsSound s = true) : seqsSound (dropHostSeqs s) = true :=
  (seqsSound_iff _).mpr (((seqsSound_iff s).mp h).filter _)

theorem seqsSound_of_keepsOrDrops {eff : State → State} (he : KeepsOrDropsSeqs eff) {s : State} (h : seqsSound s = true) :
    seqsSound (eff s) = true := by
  rw [seqsSound_iff] at h ⊢
  rcases he s with e | e
  · rwa [e]
  · rw [e]
    exact .nil

theorem seqsSound_of_answers {s t : State} {o : Host.Outcome State Fault Refusal} (h : seqsSound s = true) (ho : Answers s o)
    (ht : o = .next t) : seqsSound t = true := by
  cases ho with
  | closes dt eff =>
    cases ht
    exact seqsSound_after h dt eff
  | closesOr dt bad why eff =>
    unfold runOr at ht
    split at ht
    · cases ht
    · cases ht
      exact seqsSound_after h dt eff
  | closesHost dt did eff =>
    cases ht
    unfold afterHostCmd
    dsimp only
    split
    · exact seqsSound_dropHostSeqs (seqsSound_after h dt eff)
    · exact seqsSound_after h dt eff
  | resets dt he =>
    cases ht
    exact seqsSound_of_keepsOrDrops he (seqsSound_begin h dt)

/-- Settles O5: every command answers the close of an effect, after which upd_seq is sound whatever the effect was
(`SeqCells.bumpSeqs`), or what a chip reset leaves, which keeps upd_seq or empties it (`exec_answers`). -/
theorem updSeqStaysSound : Obligations.UpdSeq_stays_sound := by
  unfold Obligations.UpdSeq_stays_sound
  intro s t h ht
  unfold step at ht
  split at ht
  · cases ht
    exact h
  · rename_i c rest hp
    have h' : seqsSound { s with pending := rest } = true := h
    exact seqsSound_of_answers h' (exec_answers c _) ht

/-! ### Which upd_seq rise (R114) -/

theorem cellsPut_wf (f : Nat → Nat) : ∀ (ks : List Nat) {m : Memory}, Memory.wf zero0 m = true → Memory.wf zero0 (cellsPut f ks m) = true
  | [], _, h => h
  | k :: ks, m, h => cellsPut_wf f ks (cellPut_wf zero0 m k (f k) h)

/-- The cells put hold what was put, the others what they held. -/
theorem cellGet_cellsPut (f : Nat → Nat) (b : Nat) : ∀ (ks : List Nat) {m : Memory}, Memory.wf zero0 m = true →
    cellGet zero0 (cellsPut f ks m) b = if b ∈ ks then f b else cellGet zero0 m b
  | [], _, _ => by simp [cellsPut]
  | k :: ks, m, h => by
    have rest := cellGet_cellsPut f b ks (cellPut_wf zero0 m k (f k) h)
    rw [cellGet_cellPut zero0 m k b (f k) h] at rest
    refine rest.trans ?_
    by_cases e : b = k
    · simp [e]
    · simp [e]

theorem updSeq_bumpSeqs (old new : State) (k : Nat) : updSeq (bumpSeqs old new) k =
    if k ∈ seqKeys then nextSeq old new k else if k ∈ ringKeys then updSeq new k % 256 else 0 := by
  rw [updSeq, bumpSeqs_seqs, cellGet_cellsPut _ _ _ (cellsPut_wf _ _ rfl), cellGet_cellsPut _ _ _ rfl]
  rfl

theorem nextSeq_rises {old new : State} {k : Nat} (h : Rises old new k) : nextSeq old new k = (updSeq new k + 1) % 256 :=
  if_neg (by simpa [Rises] using h)

theorem nextSeq_stays {old new : State} {k : Nat} (h : ¬ Rises old new k) : nextSeq old new k = updSeq new k % 256 :=
  if_pos (by simpa [Rises, or_iff_not_imp_left] using h)

theorem cellGet_seqStep {m : Memory} (h : Memory.wf zero0 m = true) (o was is k : Nat) : cellGet zero0 (seqStep m o was is) k =
    if k = o ∧ was ≠ is then (cellGet zero0 m k + 1) % 256 else cellGet zero0 m k := by
  unfold seqStep
  split_ifs with e r r
  · exact absurd e r.2
  · rfl
  · rw [cellGet_cellPut zero0 m o k _ h, if_pos r.1, r.1]
  · rw [cellGet_cellPut zero0 m o k _ h, if_neg fun i => r ⟨i, e⟩]

/-! What a ring's STATUS shows besides upd_seq comes from the set-up fields and the ring's own cell (R108). -/

theorem ringOn_congr {s t : State} (hr : s.regs = t.regs) (base : Nat) : ringOn s base = ringOn t base := by
  simp only [ringOn, regB, reg, hr]

theorem ringFree_congr {s t : State} (hr : s.regs = t.regs) {r : OutRing} (hw : wrRing s r = wrRing t r) : ringFree s r = ringFree t r := by
  simp only [ringFree, ringSize, ringLog, regF, reg, hr, hw]

theorem sqStatus_congr {s t : State} (hr : s.regs = t.regs) {n : Fin 8} (hq : s.host.sq[n] = t.host.sq[n]) : sqStatus s n = sqStatus t n := by
  simp only [sqStatus, ringOn_congr hr, hq]

theorem wrRing_congr {s t : State} (hh : s.host = t.host) (r : OutRing) : wrRing s r = wrRing t r := by
  cases r <;> simp only [wrRing, hh]

theorem wrStatus_congr {s t : State} (hr : s.regs = t.regs) {r : OutRing} (hw : wrRing s r = wrRing t r) : wrStatus s r = wrStatus t r := by
  simp only [wrStatus, ringOn_congr hr, ringFree_congr hr hw, hw]

theorem sqStatus_modSq (s : State) (n : Fin 8) (f : SubRing → SubRing) :
    sqStatus (modSq s n f) n = sqStatus { s with host := { s.host with sq := upd s.host.sq n f } } n := by
  refine sqStatus_congr ?_ ?_
  · exact modSq_regs s n f
  · rw [modSq_host]

theorem wrStatus_modWr (s : State) (r : OutRing) (f : WrRing → WrRing) :
    wrStatus (modWr s r f) r = wrStatus { s with host := putWr s.host r f } r := by
  refine wrStatus_congr ?_ (wrRing_congr ?_ r)
  · exact modWr_regs s r f
  · exact modWr_host s r f

theorem updSeq_modSq {s : State} (h : seqsSound s = true) (n : Fin 8) (f : SubRing → SubRing) (k : Nat) :
    updSeq (modSq s n f) k =
      if k = sqBase n + 0xC ∧ sqStatus s n ≠ sqStatus (modSq s n f) n then (updSeq s k + 1) % 256 else updSeq s k := by
  rw [sqStatus_modSq, updSeq, modSq_seqs, cellGet_seqStep ((seqsSound_iff s).mp h).1, updSeq]

theorem updSeq_modWr {s : State} (h : seqsSound s = true) (r : OutRing) (f : WrRing → WrRing) (k : Nat) :
    updSeq (modWr s r f) k =
      if k = outBase r + 0xC ∧ wrStatus s r ≠ wrStatus (modWr s r f) r then (updSeq s k + 1) % 256 else updSeq s k := by
  rw [wrStatus_modWr, updSeq, modWr_seqs, cellGet_seqStep ((seqsSound_iff s).mp h).1, updSeq]

/-- Settles O6: a close puts one cell for each register with an upd_seq (`updSeq_bumpSeqs`); a change of a ring's cell steps that of
its STATUS. -/
theorem updSeqCountsChanges : Obligations.UpdSeq_counts_changes := by
  unfold Obligations.UpdSeq_counts_changes
  refine ⟨fun s t k => ?_, fun s k h => ⟨fun n f => updSeq_modSq h n f k, fun r f => updSeq_modWr h r f k⟩⟩
  rw [updSeq_bumpSeqs]
  by_cases mem : k ∈ seqKeys
  · by_cases r : Rises s t k
    · rw [if_pos mem, if_pos ⟨mem, r⟩, nextSeq_rises r]
    · rw [if_pos mem, if_neg fun i => r i.2, if_pos (List.mem_append_left _ mem), nextSeq_stays r]
  · simp only [mem, false_and, if_false, List.mem_append, false_or]

/-! ### A close after which nothing follows (R114, R468) -/

section Quiet

variable {t : State}

theorem tapBuffers_idle (h : chkUnits t 1 0 0 = []) : tapBuffers t = t :=
  List.foldl_fixed' (fun o => by
    split
    · simp only [chkObserve, h, List.foldl_nil]
    · rfl) _

theorem noteNative_idle (h : quireChans t = []) : noteNative t = t := by
  simp only [noteNative, h, List.foldl_nil]

theorem upd_self {α : Type} {n : Nat} (v : Vector α n) (i : Fin n) {f : α → α} (h : f v[i] = v[i]) : upd v i f = v := by
  rw [upd_congr (g := id) h]
  exact Vector.set_getElem_self ..

/-- A port without wraps is as it was once wraps are taken out of it. -/
theorem Port.filter_wraps_nil {q : Port} (h : q.wraps = []) (ripe : Int × BitVec 32 × Nat → Bool) :
    { q with wraps := q.wraps.filter ripe } = q := by
  cases q
  cases h
  rfl

theorem wrapSettle_idle (h : ∀ p : Fin 3, t.axis.ports[p].wraps = []) : wrapSettle t = t := by
  refine List.foldl_fixed' (fun p => ?_) _
  have same : ∀ ripe, modPort t p (fun q => { q with wraps := q.wraps.filter ripe }) = t := fun ripe => by
    rw [modPort, upd_self _ _ (Port.filter_wraps_nil (h p) ripe)]
  rw [h p]
  exact same _

theorem thinSettle_idle (h : t.glade.thin = none) : thinSettle t = t := by simp [thinSettle, h]

theorem parkSettle_idle (h : t.life.parkActive = false) : parkSettle t = t := by simp [parkSettle, h]

theorem orphanSettle_idle (h : t.host.orphanRunning = false) : orphanSettle t = t := by simp [orphanSettle, h]

theorem motionSettle_idle (h : 6 ≤ inService t) : motionSettle t = t := by simp [motionSettle, h]

theorem admitEdges_idle {p : Fin 12} (h : t.time.placers[p].waiting = []) : ∀ n, admitEdges p n t = t
  | 0 => rfl
  | n + 1 => by simp only [admitEdges, h]

theorem ppsLevel_idle (h : t.time.placers[(11 : Fin 12)].queue.isEmpty = false ∨ t.time.placers[(11 : Fin 12)].level = regB t 0x2200 3) :
    ppsLevel t = t :=
  if_neg (by rcases h with h | h <;> simp_all)

theorem settlePlacers_idle (h : placersSettled t = true) : settlePlacers t = t := by
  simp only [placersSettled, Bool.and_eq_true, List.all_eq_true, Bool.or_eq_true, Bool.not_eq_true', beq_iff_eq] at h
  obtain ⟨waiting, level⟩ := h
  have none_waits : ∀ p : Fin 12, t.time.placers[p].waiting = [] := fun p => by
    simpa using waiting t.time.placers[p] (by simp)
  rw [settlePlacers, List.foldl_fixed' fun p => admitEdges_idle (none_waits p) _, ppsLevel_idle level]

theorem sendPending_idle (h : ∀ m ∈ t.host.msix.toList, m.pending = false) : sendPending t = t :=
  if_neg (by
    rw [List.any_eq_false.mpr fun m hm => by simp [h m hm]]
    simp)

theorem settleTunnels_idle (h : t.norrak.tunnels = []) : settleTunnels t = t := by
  simp only [settleTunnels, h, List.filter_nil, List.foldl_nil]

theorem settleFaultN_idle (h : faultNSound t = true) : settleFaultN t = t := if_pos (beq_iff_eq.mp h).symm

end Quiet

theorem settle_quiet {t : State} (h : quiet t = true) : settle t = t := by
  simp only [quiet, Bool.and_eq_true, Bool.not_eq_true', decide_eq_true_eq, List.isEmpty_iff, Option.isNone_iff_eq_none,
    List.all_eq_true] at h
  obtain ⟨⟨⟨⟨⟨⟨⟨⟨⟨⟨park, orphan⟩, lanes⟩, faultN⟩, chans⟩, units⟩, thin⟩, wraps⟩, placers⟩, msix⟩, tunnels⟩ := h
  rw [settle, tapBuffers_idle units, noteNative_idle chans, wrapSettle_idle fun p => wraps _ (by simp), thinSettle_idle thin,
    parkSettle_idle park, orphanSettle_idle orphan, motionSettle_idle lanes, settlePlacers_idle placers, sendPending_idle msix,
    settleTunnels_idle tunnels, settleFaultN_idle faultN]

/-- Settles O7: each part of `settle` has nothing to do in a quiet state. -/
theorem quietCloseChangesNothing : Obligations.Quiet_close_changes_nothing := by
  unfold Obligations.Quiet_close_changes_nothing
  intro s t h
  rw [closing, settle_quiet h]

/-! ### At reset -/

/-- Settles O8: the model's reset state, evaluated. -/
theorem invariantsHoldAtReset : Obligations.Invariants_hold_at_reset := by
  unfold Obligations.Invariants_hold_at_reset
  exact ⟨rfl, rfl, rfl, fun _ => rfl, rfl⟩

/-! ### Set-up registers and their reads (R110 to R113, R159) -/

/-- Settles O28: a write of a register is one write of the set-up store (`reg_setReg`). -/
theorem registerFieldsHoldWhatIsWritten : Obligations.Register_fields_hold_what_is_written := by
  unfold Obligations.Register_fields_hold_what_is_written
  exact fun s o p v h => ⟨setReg_wf s o _ h, reg_setReg s o _ p h, rfl⟩

section Reads

variable {s : State} {path : Path}

/-- R113: a low word is read, and its higher word latched for the path. -/
theorem readVia_rsLow {o h : Nat} (hr : rsHigh o = some h) (ho : o ≠ 0x3084) : readVia path o s =
    (readReg s o, { s with latches := { path := path, off := h, val := readReg s h } :: (dropLatch path h s).latches }) := by
  simp only [readVia, if_neg ho, hr]
  rfl

theorem rsLowEff_open {addr : BitVec 16} (hp : path = .svc → svcUp s = true) : rsLowEff path addr s =
    { (readVia path (alignedOff addr) s).2 with
      out := (readVia path (alignedOff addr) s).2.out ++ [.words [(readVia path (alignedOff addr) s).1]] } :=
  if_neg fun ⟨e, down⟩ => by simp [hp e] at down

theorem pswViaEff_open (hp : path = .svc → svcUp s = true) : pswViaEff path s = pswReadEff s :=
  if_neg fun ⟨e, down⟩ => by simp [hp e] at down

end Reads

/-- Settles O30: the path is in service, so that the read is made: of the low word, with its latch (`readVia_rsLow`), or through the
program-store window. -/
theorem snapshotReadsLatchTheirPath : Obligations.Snapshot_reads_latch_their_path := by
  unfold Obligations.Snapshot_reads_latch_their_path
  intro dt path addr s u hs hu hp
  subst hu
  refine ⟨fun h ha hr ho => ?_, fun a ha => ?_⟩
  · have read := rsLowEff_open (addr := addr) hp
    rw [alignedOff_aligned ha, readVia_rsLow hr ho] at read
    exact ⟨_, exec_closes rfl hs read, rfl, List.find?_cons_of_pos (by simp)⟩
  · subst ha
    exact exec_closes rfl hs (pswViaEff_open hp)

/-! ### Frames of the service port (R118 to R123) -/

section Frames

variable {s : State} {addr : BitVec 24} {words : Nat}

theorem svcWriteEff_puts {data : List Word} (hs : svcUp s = true) (h : ¬ (frameSpace addr = 1 ∧ frameOff addr = 0 ∧ data.length = 16))
    {v : State} (hv : v = svcPutWords addr data (frameBegin s)) :
    svcWriteEff addr data s = frameEnd { v with svc := { v.svc with frames := v.svc.frames + 1 } } := by
  subst hv
  exact (if_neg (by simp [hs])).trans (if_neg h)

/-- R121: the words of a frame that ends in its block lie in it. -/
theorem frameIn_of_lt {i : Nat} (hw : frameOff addr % 0x1000 + 4 * words ≤ 0x1000) (h32 : words ≤ 32) (hi : i < words) :
    frameIn addr i = true := by
  simp only [frameIn, Bool.and_eq_true, decide_eq_true_eq]
  omega

theorem svcReadEff_registers (hs : svcUp s = true) (h0 : frameSpace addr = 0) (hw : frameOff addr % 0x1000 + 4 * words ≤ 0x1000)
    (h32 : words ≤ 32) {r : List Word × State} (hr : r = svcGetWords addr words (frameBegin s)) :
    svcReadEff addr words s = frameEnd (svcReply r.1 r.2) := by
  subst hr
  have inside : (List.range words).any (fun i => !frameIn addr i) = false :=
    List.any_eq_false.mpr fun i hi => by simp [frameIn_of_lt hw h32 (List.mem_range.mp hi)]
  simp [svcReadEff, hs, h0, inside]

theorem svcStatusEff_up (hs : svcUp s = true) : svcStatusEff s = frameEnd (svcReply [readReg s 0x10] (frameBegin s)) := if_pos hs

theorem svcIdentEff_up (hs : svcUp s = true) :
    svcIdentEff s = frameEnd (svcReply [readReg s 0x0, readReg s 0x4, readReg s 0x8, readReg s 0xC] (frameBegin s)) := if_pos hs

theorem svcUnknownEff_up {b : State} (hs : svcUp s = true) (hb : b = frameBegin s) :
    svcUnknownEff s = frameEnd { b with svc := { b.svc with unknown := true } } := by
  subst hb
  exact if_pos hs

theorem svcAbortEff_read {data : List Word} {bits : Fin 32} {part : Word} {b : State} (hs : svcUp s = true) (hb : b = frameBegin s) :
    svcAbortEff false addr data bits part s = frameEnd { b with svc := { b.svc with aborts := b.svc.aborts + 1, abort := true } } := by
  subst hb
  exact if_neg (by simp [hs])

/-- R122: the bits of an aborted part word are written right-aligned. -/
theorem svcAbortEff_part {bits : Fin 32} {part : Word} {b v : State} (hs : svcUp s = true) (hb : b = frameBegin s) (hn : bits ≠ 0)
    (h0 : frameSpace addr = 0) (hr : onRelease addr 0 = false) (hv : v = bumpSeqs b (svcWord addr 0 (part.toNat % 2 ^ bits.val) b)) :
    svcAbortEff true addr [] bits part s = frameEnd { v with svc := { v.svc with aborts := v.svc.aborts + 1, abort := true } } := by
  subst hv hb
  have first : frameIn addr 0 = true := frameIn_of_lt (words := 1) (by simp only [frameOff]; omega) (by decide) (by decide)
  have written : ¬ (bits = 0 ∨ onRelease addr 0 = true ∨ (!frameIn addr 0) = true ∨ 2 ≤ frameSpace addr) := by simp [hn, hr, first, h0]
  refine (if_neg (by simp [hs])).trans ?_
  exact congrArg (fun t : State => frameEnd { t with svc := { t.svc with aborts := t.svc.aborts + 1, abort := true } }) (if_neg written)

end Frames

/-- Settles O31: the service port is in service, and each frame has one case. -/
theorem serviceFramesComplete : Obligations.Service_frames_complete := by
  unfold Obligations.Service_frames_complete
  intro dt s u b hs hu hb up
  subst hu
  refine ⟨fun addr data v h hv => ?_, fun addr words r h0 hw h32 hr => ?_, ?_, ?_, ?_, fun addr data bits part => ?_,
    fun addr bits part hn h0 hr v hv => ?_, ?_, ?_⟩
  · exact exec_closes rfl hs (svcWriteEff_puts up h (hb ▸ hv))
  · exact exec_closes rfl hs (svcReadEff_registers up h0 hw h32 (hb ▸ hr))
  · exact exec_closes rfl hs (hb ▸ svcStatusEff_up up)
  · exact exec_closes rfl hs (hb ▸ svcIdentEff_up up)
  · exact exec_closes rfl hs (svcUnknownEff_up up hb)
  · exact exec_closes rfl hs (svcAbortEff_read up hb)
  · exact exec_closes rfl hs (svcAbortEff_part up hb hn h0 hr hv)
  · rw [hb, frameBegin_svc]
  · rw [frameEnd_svc]

section Replies

variable {s : State}

/-- R120: the bits of the status byte. -/
theorem svcByte_bits (s : State) : svcByte s = BitVec.ofNat 8 (ofBool s.svc.range + 2 * ofBool s.svc.abort + 4 * ofBool s.svc.denied
    + 8 * ofBool s.svc.busy + 16 * ofBool s.svc.unknown + 32 * (s.svc.frames.toNat % 8)) := by
  refine congrArg (BitVec.ofNat 8) ?_
  simp only [ofMask, List.foldr_cons, List.foldr_nil]
  omega

theorem svcByte_frameBegin (s : State) : svcByte (frameBegin s) = svcByte s := by
  rw [svcByte, frameBegin_svc, svcByte]

theorem frameEnd_out (s : State) : (frameEnd s).out = s.out := by rw [frameEnd, bumpSeqs_out]

/-- R118: the words of a frame whose space has none read 0. -/
theorem svcGetWords_beyond {addr : BitVec 24} (h : 2 ≤ frameSpace addr) (words : Nat) (s : State) :
    svcGetWords addr words s = (List.replicate words 0, s) := by
  have zero : ∀ i t, svcGetWord addr i t = (0, t) := fun i t => by
    rw [svcGetWord, if_neg (by omega), if_pos (by omega)]
  induction words with
  | zero => rfl
  | succ n ih =>
    rw [svcGetWords, List.range_succ, List.foldl_append]
    change List.foldl _ (svcGetWords addr n s) [n] = _
    rw [ih, List.foldl_cons, List.foldl_nil, zero, List.replicate_succ']
    split <;> rfl

theorem svcReadEff_beyond {addr : BitVec 24} {words : Nat} (hs : svcUp s = true) (h : 2 ≤ frameSpace addr) {t : State}
    (ht : t = frameEnd (svcReply (List.replicate words 0) (frameBegin s))) :
    svcReadEff addr words s = { t with svc := { t.svc with range := true } } := by
  have other : ¬ (frameSpace addr = 1 ∧ frameOff addr = 0x100 ∧ 8 ≤ words) := by omega
  subst ht
  simp [svcReadEff, hs, svcGetWords_beyond h, other, h]

/-- R123: the words of a completion. -/
def cplWords (c : BitVec 256) : List Word := (List.range 8).map (fun i => BitVec.ofNat 32 (bits c.toNat (32 * i + 31) (32 * i)))

theorem svcCplReadEff_removes {c : BitVec 256} {rest : List (BitVec 256)} (hs : svcUp s = true) (hc : s.svc.cpls = c :: rest) {t : State}
    (ht : t = svcReply (cplWords c) s) : svcCplReadEff s = { t with svc := { t.svc with cpls := rest } } := by
  obtain ⟨strap, chip⟩ : s.svc.strap = true ∧ s.chip.understory = true := by simpa [svcUp] using hs
  subst ht
  simp [svcCplReadEff, strap, chip, hc, svcReply, cplWords]

theorem svcCplFrameEff_returns {c : BitVec 256} {rest : List (BitVec 256)} (hs : svcUp s = true) (hc : s.svc.cpls = c :: rest) {t : State}
    (ht : t = svcReply (cplWords c) (frameBegin s)) : svcCplFrameEff s = frameEnd { t with svc := { t.svc with cpls := rest } } := by
  rw [svcCplFrameEff, if_pos hs, svcCplReadEff_removes (by rwa [frameBegin_svcUp]) (by rw [frameBegin_svc, hc]) ht]

theorem svcByte_svcReply (ws : List Word) (s : State) :
    svcByte (svcReply ws s) = BitVec.ofNat 8 (32 * ((s.svc.frames + 1).toNat % 8)) := by
  rw [svcByte_bits]
  simp [svcReply, ofBool]

theorem svcReply_frameBegin_out (ws : List Word) (s : State) :
    (svcReply ws (frameBegin s)).out = s.out ++ [.status (svcByte s), .words ws] := by
  rw [svcReply, frameBegin_out, svcByte_frameBegin]

end Replies

/-- Settles O32: a reply carries the status byte as it stands and clears its flags; the two frames answer with such a reply. -/
theorem serviceRepliesAndCompletions : Obligations.Service_replies_and_completions := by
  unfold Obligations.Service_replies_and_completions
  intro ws s
  refine ⟨rfl, rfl, svcByte_bits s, svcByte_svcReply ws s, fun dt words addr u hs hu up h2 => ?_, fun dt u c rest hs hu up hc => ?_⟩
  · subst hu
    refine ⟨_, exec_closes rfl hs (svcReadEff_beyond up h2 rfl), rfl, ?_⟩
    dsimp only
    rw [frameEnd_out, svcReply_frameBegin_out, begin_out, List.nil_append]
  · subst hu
    refine ⟨_, exec_closes rfl hs (svcCplFrameEff_returns up hc rfl), ?_, ?_, ?_⟩
    · rw [frameEnd_svc]
    · rw [frameEnd_svc, svcReply, frameBegin_svc]
    · rw [frameEnd_out, svcReply_frameBegin_out, begin_out, List.nil_append, cplWords]

end Sys2Proof.Machine
end

section
/-!
PROOF. Family 05: the instructions of the lanes, what the descriptors of the Glade, the Folio and the program store change of their stores,
and the Folio and program descriptors at the service port. What an instruction does is stated once about the operation that it calls; the
statements follow by the runner's law.
-/

namespace Sys2Proof.Machine

/-! ### Values in range (R130) -/

/-- A value of a signed word of `w` bits. -/
def Fits (w : Nat) (x : Int) : Prop := -(2 ^ (w - 1)) ≤ x ∧ x < 2 ^ (w - 1)

theorem two_pow_halves {w : Nat} (h : 0 < w) : (2 : Int) ^ w = 2 * 2 ^ (w - 1) := by rw [← pow_succ', Nat.sub_add_cancel h]

theorem fits_toInt {w : Nat} (v : BitVec w) (h : 0 < w) : Fits w v.toInt := by
  have lo := BitVec.le_two_mul_toInt (x := v)
  have hi := BitVec.two_mul_toInt_lt (x := v)
  rw [two_pow_halves h] at lo hi
  constructor <;> omega

theorem Fits.mono {v w : Nat} {x : Int} (h : Fits v x) (hvw : v ≤ w) : Fits w x := by
  have wider : (2 : Int) ^ (v - 1) ≤ 2 ^ (w - 1) := pow_le_pow_right₀ (by norm_num) (by omega)
  exact ⟨(neg_le_neg wider).trans h.1, h.2.trans_le wider⟩

theorem fits_sext {w : Nat} (x : Nat) (h : 0 < w) : Fits w (sext w x) := by
  have below : x % 2 ^ w < 2 ^ w := Nat.mod_lt _ (Nat.two_pow_pos w)
  have half : ((2 ^ (w - 1) : Nat) : Int) = 2 ^ (w - 1) := Nat.cast_pow 2 _
  have halves := two_pow_halves h
  have whole : ((2 ^ w : Nat) : Int) = 2 ^ w := Nat.cast_pow 2 _
  unfold Fits sext
  dsimp only
  split <;> omega

/-- A value in range is kept by a store to its register. -/
theorem wrapS_of_fits {w : Nat} {x : Int} (hw : 0 < w) (h : Fits w x) : wrapS w x = x := by
  obtain ⟨lo, hi⟩ := h
  have half : ((2 ^ (w - 1) : Nat) : Int) = 2 ^ (w - 1) := Nat.cast_pow 2 _
  have halves := two_pow_halves hw
  have whole : ((2 ^ w : Nat) : Int) = 2 ^ w := Nat.cast_pow 2 _
  unfold wrapS sext toW
  dsimp only
  rcases lt_or_ge x 0 with neg | pos
  · have wraps : x % 2 ^ w = x + 2 ^ w := by
      rw [← Int.add_emod_right, Int.emod_eq_of_lt (by omega) (by omega)]
    rw [wraps, Nat.mod_eq_of_lt (by omega), if_neg (by omega)]
    omega
  · rw [Int.emod_eq_of_lt pos (by omega), Nat.mod_eq_of_lt (by omega), if_pos (by omega)]
    omega

theorem fits_satS (w : Nat) (x : Int) : Fits w (satS w x) := by
  have pos : (0 : Int) < 2 ^ (w - 1) := by positivity
  unfold Fits satS clampI
  omega

theorem satS_of_fits {w : Nat} {x : Int} (h : Fits w x) : satS w x = x := by
  obtain ⟨lo, hi⟩ := h
  unfold satS clampI
  omega

/-- A value in range is not saturated. -/
theorem sat24_of_fits {x : Int} (h : Fits 24 x) : sat24 x = (x, false) := by
  simp [sat24, satS_of_fits h]

theorem fits_vOf (r : LaneRun) (i : Fin 16) : Fits 24 (vOf r i) := fits_toInt _ (by decide)

/-- idx has 12 bits, and is read without a sign. -/
theorem fits_idx (r : LaneRun) : Fits 24 r.idx.toNat := by
  have := r.idx.isLt
  constructor <;> omega

theorem Fits.ite {w : Nat} {x y : Int} {p : Prop} [Decidable p] (hx : Fits w x) (hy : Fits w y) : Fits w (if p then x else y) := by
  split <;> assumption

theorem Fits.min {w : Nat} {x y : Int} (hx : Fits w x) (hy : Fits w y) : Fits w (min x y) := ⟨le_min hx.1 hy.1, min_lt_of_left_lt hx.2⟩

theorem Fits.max {w : Nat} {x y : Int} (hx : Fits w x) (hy : Fits w y) : Fits w (max x y) := ⟨le_max_of_le_left hx.1, max_lt hx.2 hy.2⟩

/-- A shift right leaves a value in range. -/
theorem Fits.shiftRight {w : Nat} {x : Int} (h : Fits w x) (n : Nat) : Fits w (x / 2 ^ n) := by
  have pos : (0 : Int) < 2 ^ n := by positivity
  have one : (1 : Int) ≤ 2 ^ n := pos
  have side : (0 : Int) < 2 ^ (w - 1) := by positivity
  refine ⟨(Int.le_ediv_iff_mul_le pos).mpr (by nlinarith [h.1]), (Int.ediv_lt_iff_lt_mul pos).mpr (by nlinarith [h.2])⟩

/-! ### A lane that runs (R130, R133, R134) -/

section Lane

variable {s : State} {l : LaneOp} {r : LaneRun} {w : Nat}

theorem LaneRuns.err (h : LaneRuns s l r w) : l.err = 0 := h.2.1

theorem laneGo_runs (h : LaneRuns s l r w) (act : LaneRun → State → State) : laneGo l w act s = act r s := by
  obtain ⟨clean, -, fetched⟩ := h
  simp only [laneGo, fetched, clean]

theorem laneStops_runs (h : LaneRuns s l r w) : laneStops l w s = true := by
  obtain ⟨clean, -, fetched⟩ := h
  simp [laneStops, clean, fetched]

theorem residueBad_self (x : Int) : residueBad x x = false := by simp [residueBad]

/-- R133: without an error of the datapath, a value in range is what the register holds. -/
theorem setV_stores {a : Fin 16} {x : Int × Bool} (he : l.err = 0) (hx : Fits 24 x.1) (ops : Nat) :
    setV l r a x ops s = laneSets l r a x ops s := by
  have stored : wrapS 24 (x.1 + l.err) = x.1 := by rw [he, add_zero, wrapS_of_fits (by decide) hx]
  unfold setV
  dsimp only
  rw [stored, residueBad_self]
  rfl

theorem setAcc_stores {a : Fin 2} {x : Int × Bool} (he : l.err = 0) (hx : Fits 56 x.1) : setAcc l r a x s = accSets l r a x s := by
  have stored : wrapS 56 (x.1 + l.err) = x.1 := by rw [he, add_zero, wrapS_of_fits (by decide) hx]
  unfold setAcc
  dsimp only
  rw [stored, residueBad_self]
  rfl

end Lane

section Instructions

variable {i : Instr} {dt : Nat} {s t : State} {l : LaneOp} {r q : LaneRun} {w : Nat} {act : LaneRun → State → State}

/-- An instruction of a lane that runs answers the close of its operation. -/
theorem exec_runs (hi : exec i s = run dt s (laneGo l w act)) (hs : s.life.inReset = false) (hr : LaneRuns (begin dt s) l r w)
    (ht : act r (begin dt s) = t) : exec i s = .next (closing (begin dt s) t) :=
  exec_closes hi hs ((laneGo_runs hr act).trans ht)

/-- R140: an instruction that can have an undefined operand, and has none: `ill` says whether it has. -/
theorem exec_defined {ill : Bool} {why : Fault} {eff : State → State}
    (hi : exec i s = runOr dt s (fun s => ill && laneStops l w s) why eff) (hs : s.life.inReset = false) (ok : ill = false)
    (ht : eff (begin dt s) = t) : exec i s = .next (closing (begin dt s) t) := by
  rw [hi, runOr_next dt s _ why _ hs (by rw [ok, Bool.false_and]), ht]

theorem exec_runsOr {ill : Bool} {why : Fault} (hi : exec i s = runOr dt s (fun s => ill && laneStops l w s) why (laneGo l w act))
    (hs : s.life.inReset = false) (ok : ill = false) (hr : LaneRuns (begin dt s) l r w) (ht : act r (begin dt s) = t) :
    exec i s = .next (closing (begin dt s) t) :=
  exec_defined hi hs ok ((laneGo_runs hr act).trans ht)

/-- R140: with an undefined operand, a lane that runs stops. -/
theorem exec_stops {ill : Bool} {why : Fault} {eff : State → State}
    (hi : exec i s = runOr dt s (fun s => ill && laneStops l w s) why eff) (hs : s.life.inReset = false) (bad : ill = true)
    (hr : LaneRuns (begin dt s) l r w) : exec i s = .fault why := by
  rw [hi, runOr_stops dt s _ why _ hs (by rw [bad, laneStops_runs hr]; rfl)]

theorem exec_sets {a : Fin 16} {x : Int × Bool} {ops : Nat} (hi : exec i s = run dt s (laneGo l w act)) (hs : s.life.inReset = false)
    (hr : LaneRuns (begin dt s) l r w) (ht : act r (begin dt s) = setV l q a x ops t) (hx : Fits 24 x.1) :
    exec i s = .next (closing (begin dt s) (laneSets l q a x ops t)) :=
  exec_runs hi hs hr (ht.trans (setV_stores hr.err hx ops))

theorem exec_setsOr {ill : Bool} {why : Fault} {a : Fin 16} {x : Int × Bool} {ops : Nat}
    (hi : exec i s = runOr dt s (fun s => ill && laneStops l w s) why (laneGo l w act)) (hs : s.life.inReset = false) (ok : ill = false)
    (hr : LaneRuns (begin dt s) l r w) (ht : act r (begin dt s) = setV l q a x ops t) (hx : Fits 24 x.1) :
    exec i s = .next (closing (begin dt s) (laneSets l q a x ops t)) :=
  exec_runsOr hi hs ok hr (ht.trans (setV_stores hr.err hx ops))

theorem exec_setsAcc {a : Fin 2} {x : Int × Bool} (hi : exec i s = run dt s (laneGo l w act)) (hs : s.life.inReset = false)
    (hr : LaneRuns (begin dt s) l r w) (ht : act r (begin dt s) = setAcc l q a x t) (hx : Fits 56 x.1) :
    exec i s = .next (closing (begin dt s) (accSets l q a x t)) :=
  exec_runs hi hs hr (ht.trans (setAcc_stores hr.err hx))

end Instructions

/-- Settles O43: each instruction writes a value in range: saturated, or made of values of data registers. -/
theorem laneInstructionsCompute : Obligations.Lane_instructions_compute := by
  unfold Obligations.Lane_instructions_compute
  intro dt l a b c k r s u hs hu
  subst hu
  refine ⟨fun mov => ?_, fun add => ?_, fun sub => ?_, fun abs => ?_, fun mulNearest => ?_, fun mulDown => ?_, fun min => ?_,
    fun max => ?_, fun clmp y hy => ?_, fun n hn shl => ?_, fun n asr => ?_, fun x hx sel => ?_, fun imm ldi => ?_,
    fun n x old ldin hv => ?_, fun midx => ?_, fun n round hn ext => ?_, fun n hn accadd => ?_, fun accclr => ?_,
    fun e bank ex x hex hx => ?_⟩
  · have kept := fits_vOf r b
    exact exec_sets rfl hs mov (by rw [sat24_of_fits kept]) kept
  · exact exec_sets rfl hs add rfl (fits_satS 24 _)
  · exact exec_sets rfl hs sub rfl (fits_satS 24 _)
  · exact exec_sets rfl hs abs (by simp only [Int.natCast_natAbs]) (fits_satS 24 _)
  · exact exec_sets rfl hs mulNearest rfl (fits_satS 24 _)
  · exact exec_sets rfl hs mulDown rfl (fits_satS 24 _)
  · have kept := (fits_vOf r b).min (fits_vOf r c)
    exact exec_sets rfl hs min (by rw [sat24_of_fits kept]) kept
  · have kept := (fits_vOf r b).max (fits_vOf r c)
    exact exec_sets rfl hs max (by rw [sat24_of_fits kept]) kept
  · subst hy
    exact exec_sets rfl hs clmp rfl (((fits_vOf r a).max (fits_vOf r b)).min (fits_vOf r c))
  · exact exec_setsOr rfl hs (decide_eq_false (by omega)) shl rfl (fits_satS 24 _)
  · exact exec_sets rfl hs asr (by rw [Int.fdiv_eq_ediv_of_nonneg _ (by positivity)]) ((fits_vOf r b).shiftRight n.toNat)
  · exact exec_setsOr rfl hs (decide_eq_false (by omega)) sel rfl (.ite (fits_vOf r b) (fits_vOf r c))
  · exact exec_sets rfl hs ldi rfl ((fits_toInt imm (by decide)).mono (by decide))
  · exact exec_sets rfl hs ldin (by rw [hv]; rfl) (fits_satS 24 _)
  · exact exec_sets rfl hs midx rfl (fits_idx r)
  · exact exec_setsOr rfl hs (decide_eq_false (by omega)) ext rfl (fits_satS 24 _)
  · exact exec_runsOr rfl hs (decide_eq_false (by omega)) accadd (setAcc_stores accadd.err (fits_satS 56 _))
  · exact exec_setsAcc rfl hs accclr rfl (by constructor <;> decide)
  · subst hex hx
    exact ⟨fun macz => exec_setsAcc rfl hs macz rfl (fits_satS 56 _), fun mac => exec_setsAcc rfl hs mac rfl (fits_satS 56 _),
      fun msu => exec_setsAcc rfl hs msu rfl (fits_satS 56 _)⟩

/-- Settles O45: each instruction has one operation, or, with an undefined operand, stops under the name of the fault. -/
theorem laneInstructionsControl : Obligations.Lane_instructions_control := by
  unfold Obligations.Lane_instructions_control
  intro dt l a b c r s u hs hu
  subst hu
  refine ⟨fun nop => ?_, fun count body rpt => ?_, fun x k hx skip => ⟨fun hc => ?_, fun hc => ?_⟩, fun cmp => ?_, fun n out => ?_,
    fun ident words leaf hl => ?_, fun endLeaf w hw => ⟨fun i hi => ?_, fun hn => ?_⟩, ⟨rfl, rfl, rfl, rfl, rfl, rfl, rfl, rfl⟩,
    fun x k hx skip => ?_, fun x hx sel => ?_, fun n hn shl => ?_⟩
  · exact exec_runs rfl hs nop rfl
  · exact exec_runs rfl hs rpt rfl
  · exact exec_runsOr rfl hs (decide_eq_false (by omega)) skip (by rw [if_pos hc])
  · exact exec_runsOr rfl hs (decide_eq_false (by omega)) skip (by rw [hc]; rfl)
  · exact exec_runs rfl hs cmp rfl
  · exact exec_runs rfl hs out rfl
  · exact exec_runs rfl hs leaf (if_pos hl)
  · subst hw
    exact exec_runs rfl hs endLeaf (by simp only [hi])
  · subst hw
    exact exec_runs rfl hs endLeaf (by simp only [hn])
  · exact exec_stops rfl hs (decide_eq_true hx) skip
  · exact exec_stops rfl hs (decide_eq_true hx) sel
  · exact exec_stops rfl hs (decide_eq_true hn) shl

/-! ### Reads of the Glade (R131, R176) -/

section Reads

variable {s : State} {r : LaneRun} {a phys k : Nat} {lease : Lease}

theorem readGlade_outside (e : Ecc) (h : relAddr (spaceOf s r.job.owner) a = none) : readGlade r a e s = (.outside, s) := by
  simp only [readGlade, h]

@[simp] theorem countRange_words (base n : Nat) (s : State) : (countRange base n s).glade.words = s.glade.words := rfl
@[simp] theorem countRange_bad (base n : Nat) (s : State) : (countRange base n s).glade.bad = s.glade.bad := rfl
@[simp] theorem countRange_fog (base n : Nat) (s : State) : (countRange base n s).glade.fog = s.glade.fog := rfl

/-- R143: a job sees its own staged store. -/
theorem readGlade_staged {x : Nat × BitVec 24} (h : relAddr (spaceOf s r.job.owner) a = some (phys, k, lease))
    (hb : s.glade.bad.contains phys = false) (hx : r.staged.find? (fun y => y.1 == a) = some x) :
    readGlade r a .clean s = (.value x.2.toInt, countRange phys 1 s) := by
  have good : phys ∉ s.glade.bad := by simpa using hb
  simp [readGlade, h, good, hx]

theorem readGlade_word (h : relAddr (spaceOf s r.job.owner) a = some (phys, k, lease)) (hb : s.glade.bad.contains phys = false)
    (hx : ∀ x ∈ r.staged, x.1 ≠ a) (hf : s.glade.fog.contains phys = false) :
    readGlade r a .clean s = (.value (sext 24 (cellGet zero0 s.glade.words phys)), countRange phys 1 s) := by
  have good : phys ∉ s.glade.bad := by simpa using hb
  have written : phys ∉ s.glade.fog := by simpa using hf
  have unstaged : r.staged.find? (fun x => x.1 == a) = none := by simpa using hx
  simp [readGlade, h, good, unstaged, written]

end Reads

/-! ### Searches (R132) -/

section Searches

variable {better : Int → Int → Bool}

/-- Where none is better, the best so far stays. -/
theorem searchBest_stays {b : Int × Nat} : ∀ {xs : List Int} (n : Nat), (∀ y ∈ xs, better y b.1 = false) → searchBest better xs n b = b
  | [], _, _ => rfl
  | x :: xs, n, h => by
    obtain ⟨hx, hxs⟩ := List.forall_mem_cons.mp h
    rw [searchBest, hx]
    exact searchBest_stays (n + 1) hxs

/-- The best of a list is its head: nothing after it is better. -/
theorem FirstBest.head (asymm : ∀ x y, better x y = true → better y x = false) {x z : Int} {zs : List Int}
    (h : FirstBest (fun x y => better x y = true) id (z :: zs) 0 x) : z = x ∧ ∀ y ∈ zs, better y x = false := by
  obtain ⟨hx, hbest⟩ := h
  refine ⟨by simpa using hx, fun y hy => ?_⟩
  obtain ⟨j, hj⟩ := List.mem_iff_getElem?.mp hy
  rcases hbest (j + 1) y hj with h | ⟨h, -⟩
  · exact asymm _ _ h
  · obtain rfl : x = y := h
    exact Bool.eq_false_iff.mpr fun h => by simp [asymm _ _ h] at h

/-- The best of a list comes later: it is better than the head. -/
theorem FirstBest.tail {x z : Int} {zs : List Int} {i : Nat} (h : FirstBest (fun x y => better x y = true) id (z :: zs) (i + 1) x) :
    better x z = true ∧ FirstBest (fun x y => better x y = true) id zs i x := by
  obtain ⟨hx, hbest⟩ := h
  exact ⟨(hbest 0 z rfl).resolve_right fun h => absurd h.2 (by omega), hx,
    fun j y hj => (hbest (j + 1) y hj).imp_right fun h => ⟨h.1, by omega⟩⟩

theorem FirstBest.map {key : Int → Int} {P : Int → Int → Prop} {xs : List Int} {i : Nat} {x : Int} (h : FirstBest P key xs i x) :
    FirstBest P id (xs.map key) i (key x) := by
  refine ⟨by simp [h.1], fun j y hj => ?_⟩
  rw [List.getElem?_map, Option.map_eq_some_iff] at hj
  obtain ⟨z, hz, rfl⟩ := hj
  exact h.2 j z hz

theorem firstBest_decide {P : Int → Int → Prop} [DecidableRel P] {key : Int → Int} {xs : List Int} {i : Nat} {x : Int} :
    FirstBest (fun x y => decide (P x y) = true) key xs i x ↔ FirstBest P key xs i x := by
  simp only [FirstBest, decide_eq_true_eq]

/-- The first of the best, where it is better than the best so far. -/
theorem searchBest_finds (asymm : ∀ x y, better x y = true → better y x = false) {x : Int} : ∀ {xs : List Int} {i : Nat} (n : Nat)
    {b : Int × Nat}, FirstBest (fun x y => better x y = true) id xs i x → better x b.1 = true → searchBest better xs n b = (x, n + i)
  | [], _, _, _, h, _ => by simp [FirstBest] at h
  | z :: zs, 0, n, b, h, hb => by
    obtain ⟨rfl, worse⟩ := h.head asymm
    rw [searchBest, if_pos hb]
    exact searchBest_stays (n + 1) worse
  | z :: zs, i + 1, n, b, h, hb => by
    obtain ⟨later, rest⟩ := h.tail
    have turn : better x (if better z b.1 = true then (z, n) else b).1 = true := by
      split <;> assumption
    rw [searchBest, searchBest_finds asymm (n + 1) rest turn, Nat.add_assoc, Nat.add_comm 1]

/-- R132: begun at the head of a list, the search finds its first of the best. -/
theorem searchBest_firstBest (asymm : ∀ x y, better x y = true → better y x = false) {x y : Int} {xs : List Int} :
    ∀ {i : Nat}, FirstBest (fun x y => better x y = true) id (y :: xs) i x → searchBest better xs 1 (y, 0) = (x, i)
  | 0, h => by
    obtain ⟨rfl, worse⟩ := h.head asymm
    exact searchBest_stays 1 worse
  | i + 1, h => by
    obtain ⟨later, rest⟩ := h.tail
    rw [searchBest_finds asymm 1 rest later, Nat.add_comm]

/-- R132: a search that reads all its words writes the key of the first of the best, and its place to idx. -/
theorem searchEff_finds {op n i : Nat} {key : Int → Int} {l : LaneOp} {a : Fin 16} {p : Fin 4} {r : LaneRun} {s t : State} {x : Int}
    {xs : List Int} (asymm : ∀ x y, better x y = true → better y x = false) (hr : LaneRuns s l r (laneWord op a p 0 n))
    (hw : searchWords r r.p[p] l.hit (List.range n) s [] = ((.value 0, xs), t))
    (hx : FirstBest (fun x y => better x y = true) key xs i x) :
    searchEff op better key l a p n s = laneSets l { r with idx := BitVec.ofNat 12 i } a (sat24 (key x)) n t := by
  refine ((laneGo_runs hr _).trans ?_).trans (setV_stores hr.err (fits_satS 24 _) n)
  cases xs with
  | nil => simp [FirstBest] at hx
  | cons y ys => simp only [hw, List.map_cons, searchBest_firstBest asymm hx.map]

theorem asymm_lt (x y : Int) (h : decide (x < y) = true) : decide (y < x) = false := by
  simp only [decide_eq_true_eq, decide_eq_false_iff_not] at h ⊢
  omega

theorem asymm_gt (x y : Int) (h : decide (y < x) = true) : decide (x < y) = false := asymm_lt y x h

end Searches

/-! ### Loads (R131, R139, R182) -/

section Loads

variable {s t : State} {l : LaneOp} {r : LaneRun} {a b : Fin 16} {p : Fin 4} {mod : BitVec 2} {off : BitVec 12} {e : Ecc}

theorem ldgEff_loads {x : Int} (hr : LaneRuns s l r (laneWord 0x08 a p 0 (mod.toNat * 4096 + off.toNat)))
    (hx : readGlade r (genAddr r.p[p] off.toNat) e s = (.value x, t)) (fits : Fits 24 x) :
    ldgEff l a p mod off e s = laneSets l { r with p := upd r.p p (fun g => genMod g mod) } a (x, false) 1 t :=
  ((laneGo_runs hr _).trans (by simp only [hx])).trans (setV_stores hr.err fits 1)

theorem ldgEff_outside (hr : LaneRuns s l r (laneWord 0x08 a p 0 (mod.toNat * 4096 + off.toNat)))
    (ha : relAddr (spaceOf s r.job.owner) (genAddr r.p[p] off.toNat) = none) :
    ldgEff l a p mod off e s = boundsFault l r (genAddr r.p[p] off.toNat) s :=
  (laneGo_runs hr _).trans (by simp only [readGlade_outside e ha])

theorem fits_folioWord (s : State) (k : Nat) : Fits 24 (folioWord s k) := fits_sext _ (by decide)

@[simp] theorem folioEcc_clean (k : Nat) (s : State) : folioEcc k .clean s = s := ite_self s

/-- R139: LDF with an index in the table, or beyond an end, where the last entry is read: `past` says which. -/
theorem ldfEff_loads {n : Fin 32} {tab : Table} {past : Bool} {k : Nat} (hr : LaneRuns s l r (laneWord 0x0A a b 0 n))
    (ht : tabGet s.glade.tables n = some tab) (hp : (decide (vOf r b < 0) || decide ((tab.len : Int) ≤ vOf r b)) = past)
    (hk : (if past then tab.len - 1 else (vOf r b).toNat) = k) (hb : s.glade.folioBad.contains (tab.base + k) = false) :
    ldfEff l a b n .clean s = laneSets l r a (folioWord s (tab.base + k), past) 1 s := by
  refine ((laneGo_runs hr _).trans ?_).trans (setV_stores hr.err (fits_folioWord s _) 1)
  have good : (s.glade.folioBad.contains (tab.base + k) || Ecc.clean == Ecc.bad) = false := by rw [hb]; rfl
  simp only [ht, hp, hk, good, Bool.false_eq_true, if_false, folioEcc_clean]

end Loads

/-- Settles O44: a read of the Glade gives the job's staged store or the word (`readGlade_staged`, `readGlade_word`), or lies outside;
a search finds the first of the best (`searchEff_finds`). -/
theorem laneInstructionsAddressMemory : Obligations.Lane_instructions_address_memory := by
  unfold Obligations.Lane_instructions_address_memory
  intro dt l a b p mod off r s u hs hu
  subst hu
  refine ⟨fun phys i lease ldg ha hb hx hf => ?_, fun phys i lease x ldg ha hb hx => ?_, fun phys i lease stg ha hl => ?_,
    fun ha => ⟨fun ldg => ?_, fun stg => ?_⟩, fun n t ldf ht => ⟨fun h0 hlen hb => ?_, fun hout hb => ?_⟩,
    fun n xs t i x h1 h256 hw => ?_, fun pset => ?_, fun plen => ?_, fun pstep => ?_⟩
  · exact exec_closes rfl hs (ldgEff_loads ldg (readGlade_word ha hb hx hf) (fits_sext _ (by decide)))
  · exact exec_closes rfl hs (ldgEff_loads ldg (readGlade_staged ha hb hx) (fits_toInt x.2 (by decide)))
  · exact exec_runs rfl hs stg (by simp only [ha, hl, if_true]; rfl)
  · exact exec_closes rfl hs (ldgEff_outside ldg ha)
  · exact exec_runs rfl hs stg (by simp only [ha])
  · have inside : (decide (vOf r b < 0) || decide ((t.len : Int) ≤ vOf r b)) = false := by
      simp only [Bool.or_eq_false_iff, decide_eq_false_iff_not]
      omega
    exact exec_closes rfl hs (ldfEff_loads ldf ht inside rfl hb)
  · have past : (decide (vOf r b < 0) || decide ((t.len : Int) ≤ vOf r b)) = true := by
      simpa only [Bool.or_eq_true, decide_eq_true_eq] using hout
    exact exec_closes rfl hs (ldfEff_loads ldf ht past rfl hb)
  · have defined : (n == 0 || decide (256 < n.toNat)) = false := by
      have counts : n ≠ 0#12 := fun e => absurd h1 (by rw [e]; decide)
      simp [counts, h256]
    refine ⟨fun mxs hx => ?_, fun mns hx => ?_, fun mxa hx => ?_⟩
    · exact exec_defined rfl hs defined (searchEff_finds asymm_gt mxs hw (firstBest_decide.mpr hx))
    · exact exec_defined rfl hs defined (searchEff_finds asymm_lt mns hw (firstBest_decide.mpr hx))
    · simp only [← Int.natCast_natAbs] at hx ⊢
      exact exec_defined rfl hs defined (searchEff_finds asymm_gt mxa hw (firstBest_decide.mpr hx))
  · exact exec_runs rfl hs pset rfl
  · exact exec_runs rfl hs plen rfl
  · exact exec_runs rfl hs pstep rfl

/-! ### Raising a happening leaves all but the FAULT region (R417, R466 to R479) -/

/-- What raising a happening keeps: all but the FAULT region, of it the causes and FAULT_N, and the sources that Quire has seen. -/
def OnlyHappening (s t : State) : Prop :=
  ∃ q : List (Nat × Nat), OnlyFault { s with quire := { s.quire with sourcesSeen := q } } t

theorem OnlyFault.happening {s t : State} (h : OnlyFault s t) : OnlyHappening s t := ⟨s.quire.sourcesSeen, h⟩

theorem OnlyHappening.trans {s t u : State} (h : OnlyHappening s t) (k : OnlyHappening t u) : OnlyHappening s u := by
  obtain ⟨p, f, rfl, a, b, c⟩ := h
  obtain ⟨q, g, rfl, d, e, i⟩ := k
  exact ⟨q, g, rfl, d.trans a, e.trans b, i.trans c⟩

theorem noteSource_happening (k : Nat) (s : State) : OnlyHappening s (noteSource k s) := by
  unfold noteSource
  split
  · exact ⟨_, .refl _⟩
  · exact (OnlyFault.refl s).happening

theorem reportOverflow_happening (s : State) (m : Option (Nat × Sev)) : OnlyHappening s (reportOverflow s m) := by
  unfold reportOverflow
  split
  · exact (OnlyFault.refl s).happening
  next L v =>
    have limited := rateLimit_fault s 13 L msLsb
    split
    next e => exact ((limited.of_eq e).happening.trans (noteSource_happening 13 _)).trans (genToken_fault _ _ _ _ _).happening
    next e => exact (limited.of_eq e).happening

theorem raiseHap_happening (s : State) (h : Hap) : OnlyHappening s (raiseHap s h).1 := by
  have noted := noteSource_happening h.source s
  unfold raiseHap
  dsimp only
  split
  · have logged := noted.trans (logEntry_fault _ h).happening
    have reported := (logged.trans (genToken_fault _ h.source h.sev h.payload h.stamp).happening).trans
      (reportOverflow_happening _ (logEntry (noteSource h.source s) h).2.2)
    split
    · exact reported.trans (beginHandling_fault _ _ _ _).happening
    · exact reported
  · exact noted.trans (genToken_fault _ _ _ _ _).happening

theorem emit_happening (h : Hap) (s : State) : OnlyHappening s (emit h s) := raiseHap_happening s h

theorem OnlyHappening.glade {s t : State} (h : OnlyHappening s t) : t.glade = s.glade := by
  obtain ⟨q, f, rfl, -⟩ := h
  rfl

@[simp] theorem emit_glade (h : Hap) (s : State) : (emit h s).glade = s.glade := (emit_happening h s).glade

/-! ### What changes beside the stores (R92, R169, R184) -/

@[simp] theorem complete_glade (id status : Nat) (result detail : Int) (applied : Option Stamp) (s : State) :
    (complete id status result detail applied s).glade = s.glade := by
  unfold complete
  split <;> rfl

@[simp] theorem complete_canopy (id status : Nat) (result detail : Int) (applied : Option Stamp) (s : State) :
    (complete id status result detail applied s).canopy = s.canopy := by
  unfold complete
  split <;> rfl

@[simp] theorem leaseChange_glade (k : Nat) (o : Owner) (words : Nat) (s : State) : (leaseChange k o words s).glade = s.glade :=
  emit_glade _ s

@[simp] theorem resetLeaf_glade (o : Owner) (s : State) (leaf : Byte) : (resetLeaf o s leaf).glade = s.glade := by
  cases o <;> rfl

@[simp] theorem foldl_resetLeaf_glade (o : Owner) : ∀ (leaves : List Byte) (s : State), (leaves.foldl (resetLeaf o) s).glade = s.glade
  | [], _ => rfl
  | leaf :: leaves, s => (foldl_resetLeaf_glade o leaves (resetLeaf o s leaf)).trans (resetLeaf_glade o s leaf)

/-! ### Addresses removed from a store, and written to it -/

/-- R165: the addresses of a range. -/
def inRange (base n a : Nat) : Bool := decide (base ≤ a) && decide (a < base + n)

theorem inRange_iff {base n a : Nat} : inRange base n a = true ↔ base ≤ a ∧ a < base + n := by simp [inRange]

theorem cellGet_filterFrom (d : Nat → Nat) (p : Nat → Bool) (a : Nat) : ∀ (cs : List (Nat × Nat)) (n : Nat), cellWfFrom d n cs = true →
    cellGet d (cs.filter (fun c => p c.1)) a = if p a then cellGet d cs a else d a
  | [], _, _ => by simp [cellGet]
  | (k, v) :: cs, n, w => by
    simp only [cellWfFrom, Bool.and_eq_true, decide_eq_true_eq] at w
    have ih := cellGet_filterFrom d p a cs (k + 1) w.2
    have low : a ≤ k → cellGet d cs a = d a := fun h => cellGet_below d (Nat.lt_succ_of_le h) w.2
    rw [List.filter_cons]
    split_ifs <;> grind [cellGet]

/-- A store without the addresses that a test refuses reads there as what is not listed. -/
theorem cellGet_filter (d : Nat → Nat) (p : Nat → Bool) (m : Memory) (a : Nat) (w : Memory.wf d m = true) :
    cellGet d (m.filter (fun c => p c.1)) a = if p a then cellGet d m a else d a :=
  cellGet_filterFrom d p a m 0 w

/-- What is left of a store lies above every bound of the test. -/
theorem cellWfFrom_filter_ge (d : Nat → Nat) (p : Nat × Nat → Bool) {b : Nat} (hp : ∀ c, p c = true → b ≤ c.1) :
    ∀ (cs : List (Nat × Nat)) (n : Nat), cellWfFrom d n cs = true → cellWfFrom d b (cs.filter p) = true
  | [], _, _ => rfl
  | (k, x) :: cs, n, w => by
    simp only [cellWfFrom, Bool.and_eq_true, decide_eq_true_eq] at w
    rw [List.filter_cons]
    split
    next h =>
      simp only [cellWfFrom, Bool.and_eq_true, decide_eq_true_eq]
      exact ⟨⟨hp _ h, w.1.2⟩, cellWfFrom_filter d p cs (k + 1) w.2⟩
    next => exact cellWfFrom_filter_ge d p hp cs (k + 1) w.2

/-- Writes of consecutive addresses leave every other address as it is. -/
theorem cellGet_cellPuts_outside {d : Nat → Nat} {m : Memory} (h : Memory.wf d m = true) {xs : List Nat} {a b : Nat}
    (hb : ¬ (a ≤ b ∧ b < a + xs.length)) : cellGet d (cellPuts d m a xs) b = cellGet d m b := by
  rw [cellGet_cellPuts d xs m a b h]
  split
  next up => rw [List.getElem?_eq_none (by omega), Option.getD_none]
  next => rfl

theorem cellGet_cellPuts_listed {d : Nat → Nat} {m : Memory} (h : Memory.wf d m = true) {xs : List Nat} {a i x : Nat}
    (hi : xs[i]? = some x) : cellGet d (cellPuts d m a xs) (a + i) = x := by
  rw [cellGet_cellPuts d xs m a _ h, if_pos (Nat.le_add_right a i), Nat.add_sub_cancel_left, hi, Option.getD_some]

/-! ### Leases and releases (R165, R166, R169) -/

section Leases

variable {v : State}

theorem zeroWords_words (base n : Nat) (v : State) :
    (zeroWords base n v).glade.words = v.glade.words.filter (fun w => !inRange base n w.1) := rfl

theorem zeroWords_wf (h : Memory.wf zero0 v.glade.words = true) (base n : Nat) : Memory.wf zero0 (zeroWords base n v).glade.words = true :=
  filter_wf zero0 _ v.glade.words h

theorem cellGet_zeroWords (h : Memory.wf zero0 v.glade.words = true) (base n a : Nat) : cellGet zero0 (zeroWords base n v).glade.words a =
    if base ≤ a ∧ a < base + n then 0 else cellGet zero0 v.glade.words a := by
  rw [zeroWords_words, cellGet_filter zero0 (fun a => !inRange base n a) v.glade.words a h]
  simp only [← inRange_iff]
  cases inRange base n a <;> rfl

theorem freeLease_words (v : State) (l : Nat × Lease) : (freeLease v l).glade.words = (zeroWords l.2.base l.2.words v).glade.words := by
  simp only [freeLease, leaseChange_glade, foldl_resetLeaf_glade]
  rfl

theorem leaseNow_words {f : InFlight} {k base n : Nat} (hk : tabFree v.glade.leases 128 = some k)
    (hn : n = leaseNeed v (bit (pU f.payload 18 1) 0) (leaseLeaves f.payload)) (hb : placeLease v (pU f.payload 19 1) n = some base) :
    (leaseNow f v).glade.words = (zeroWords base n v).glade.words := by
  subst hn
  simp only [leaseNow, hk, hb, complete_glade, leaseChange_glade, foldl_resetLeaf_glade]
  rfl

end Leases

/-! ### A lease that moves (R172) -/

section Moves

variable {v : State}

/-- Cells written to a store one after another. -/
def putCells (m cs : Memory) : Memory := cs.foldl (fun m c => cellPut zero0 m c.1 c.2) m

theorem putCells_wf : ∀ (cs : Memory) {m : Memory}, Memory.wf zero0 m = true → Memory.wf zero0 (putCells m cs) = true
  | [], _, h => h
  | c :: cs, _, h => putCells_wf cs (cellPut_wf zero0 _ c.1 c.2 h)

/-- Cells moved from a base to another one. -/
def shiftCells (base dest : Nat) (cs : Memory) : Memory := cs.map (fun c => (c.1 - base + dest, c.2))

/-- A store with moved cells written: at the new place of a listed cell it reads as the cell. -/
theorem cellGet_putCells_shift {base : Nat} (dest a : Nat) : ∀ (cs : Memory) (n : Nat) {m : Memory}, base ≤ n → cellWfFrom zero0 n cs = true →
    Memory.wf zero0 m = true → cellGet zero0 (putCells m (shiftCells base dest cs)) a =
      if dest ≤ a ∧ cellGet zero0 cs (a - dest + base) ≠ 0 then cellGet zero0 cs (a - dest + base) else cellGet zero0 m a
  | [], _, _, _, _, _ => by simp [cellGet, zero0, putCells, shiftCells]
  | (k, x) :: cs, n, m, hn, hc, hm => by
    simp only [cellWfFrom, Bool.and_eq_true, decide_eq_true_eq] at hc
    obtain ⟨⟨hk, hx⟩, rest⟩ := hc
    have here : cellGet zero0 ((k, x) :: cs) k = x := if_pos rfl
    have below : ∀ b < k + 1, cellGet zero0 cs b = 0 := fun b h => cellGet_below zero0 h rest
    have other : ∀ b ≠ k, cellGet zero0 ((k, x) :: cs) b = cellGet zero0 cs b := fun b h => by
      rw [cellGet, if_neg h]
      split
      next lt => exact (below b (by omega)).symm
      next => rfl
    have turn : putCells m (shiftCells base dest ((k, x) :: cs)) =
      putCells (cellPut zero0 m (k - base + dest) x) (shiftCells base dest cs) := rfl
    rw [turn, cellGet_putCells_shift (base := base) dest a cs (k + 1) (by omega) rest (cellPut_wf zero0 m _ x hm),
      cellGet_cellPut zero0 m _ a x hm]
    by_cases at' : a = k - base + dest
    · have back : a - dest + base = k := by omega
      rw [back, here, below k (by omega), if_neg (by simp), if_pos at', if_pos ⟨by omega, hx⟩]
    · rw [if_neg at']
      by_cases up : dest ≤ a
      · rw [other _ (by omega)]
      · rw [if_neg fun h => up h.1, if_neg fun h => up h.1]

theorem moveLease_words (k : Nat) (l : Lease) (dest : Nat) (v : State) : (moveLease k l dest v).glade.words =
    putCells (v.glade.words.filter (fun w => !inRange l.base l.words w.1))
      (shiftCells l.base dest (v.glade.words.filter (fun w => inRange l.base l.words w.1))) := by
  simp only [moveLease, leaseChange_glade]
  rfl

theorem moveLease_wf (h : Memory.wf zero0 v.glade.words = true) (k : Nat) (l : Lease) (dest : Nat) :
    Memory.wf zero0 (moveLease k l dest v).glade.words = true := by
  rw [moveLease_words]
  exact putCells_wf _ (filter_wf zero0 _ v.glade.words h)

/-- R172: the words of a lease are moved; a gap left behind reads as 0. -/
theorem cellGet_moveLease (h : Memory.wf zero0 v.glade.words = true) (k : Nat) (l : Lease) (dest a : Nat)
    (free : ∀ b, dest ≤ b → b < dest + l.words → ¬ (l.base ≤ b ∧ b < l.base + l.words) → cellGet zero0 v.glade.words b = 0) :
    cellGet zero0 (moveLease k l dest v).glade.words a =
      if dest ≤ a ∧ a < dest + l.words then cellGet zero0 v.glade.words (a - dest + l.base)
      else if l.base ≤ a ∧ a < l.base + l.words then 0 else cellGet zero0 v.glade.words a := by
  have inside : cellWfFrom zero0 l.base (v.glade.words.filter (fun w => inRange l.base l.words w.1)) = true :=
    cellWfFrom_filter_ge zero0 _ (fun c hc => (inRange_iff.mp hc).1) v.glade.words 0 h
  have kept := filter_wf zero0 (fun w => !inRange l.base l.words w.1) v.glade.words h
  rw [moveLease_words, cellGet_putCells_shift dest a _ l.base le_rfl inside kept,
    cellGet_filter zero0 (inRange l.base l.words) v.glade.words _ h,
    cellGet_filter zero0 (fun a => !inRange l.base l.words a) v.glade.words a h]
  simp only [Bool.not_eq_true', ← Bool.not_eq_true, inRange_iff, zero0]
  by_cases moved : dest ≤ a ∧ a < dest + l.words
  · have source : l.base ≤ a - dest + l.base ∧ a - dest + l.base < l.base + l.words := by omega
    rw [if_pos moved, if_pos source]
    by_cases zero : cellGet zero0 v.glade.words (a - dest + l.base) = 0
    · rw [if_neg fun h => h.2 zero, zero]
      by_cases own : l.base ≤ a ∧ a < l.base + l.words
      · rw [if_neg (not_not.mpr own)]
      · rw [if_pos own, free a moved.1 moved.2 own]
    · rw [if_pos ⟨moved.1, zero⟩]
  · have outside : ¬ (dest ≤ a ∧ (if l.base ≤ a - dest + l.base ∧ a - dest + l.base < l.base + l.words then
        cellGet zero0 v.glade.words (a - dest + l.base) else 0) ≠ 0) := by
      rintro ⟨up, listed⟩
      exact listed (if_neg (by omega))
    rw [if_neg moved, if_neg outside, ite_not]

end Moves

/-! ### A job's commit (R143) -/

section Commits

variable {v : State} {sp : List (Nat × Lease)} {a : Nat}

/-- R143: one staged store is written. -/
def commitOne (sp : List (Nat × Lease)) (x : Nat × BitVec 24) (s : State) : State :=
  match relAddr sp x.1 with
  | some (a, _, _) => countRange a 1 (modGlade s (fun g => { g with
      words := cellPut zero0 g.words a x.2.toNat, fog := g.fog.filter (· != a) }))
  | none => s

/-- The store staged last is written last. -/
theorem commitStores_foldr (r : LaneRun) (v : State) : commitStores r v = r.staged.foldr (commitOne (spaceOf v r.job.owner)) v :=
  List.foldl_reverse

theorem commitOne_inside {x : Nat × BitVec 24} {p k : Nat} {lease : Lease} (h : relAddr sp x.1 = some (p, k, lease)) :
    (commitOne sp x v).glade.words = cellPut zero0 v.glade.words p x.2.toNat := by
  simp only [commitOne, h]
  rfl

theorem commitOne_outside {x : Nat × BitVec 24} (h : relAddr sp x.1 = none) : commitOne sp x v = v := by
  simp only [commitOne, h]

theorem commitOne_wf (x : Nat × BitVec 24) (h : Memory.wf zero0 v.glade.words = true) :
    Memory.wf zero0 (commitOne sp x v).glade.words = true := by
  cases hx : relAddr sp x.1 with
  | none => rwa [commitOne_outside hx]
  | some at' =>
    rw [commitOne_inside hx]
    exact cellPut_wf zero0 _ _ _ h

theorem cellGet_commitOne_other {x : Nat × BitVec 24} (h : Memory.wf zero0 v.glade.words = true)
    (ha : ∀ p k le, relAddr sp x.1 = some (p, k, le) → p ≠ a) :
    cellGet zero0 (commitOne sp x v).glade.words a = cellGet zero0 v.glade.words a := by
  cases hx : relAddr sp x.1 with
  | none => rw [commitOne_outside hx]
  | some at' =>
    rw [commitOne_inside hx, cellGet_cellPut zero0 v.glade.words _ a _ h, if_neg (ha _ _ _ hx).symm]

theorem commitAll_wf (h : Memory.wf zero0 v.glade.words = true) : ∀ xs : List (Nat × BitVec 24),
    Memory.wf zero0 (xs.foldr (commitOne sp) v).glade.words = true
  | [] => h
  | x :: xs => commitOne_wf x (commitAll_wf h xs)

theorem cellGet_commitAll_other (h : Memory.wf zero0 v.glade.words = true) : ∀ xs : List (Nat × BitVec 24),
    (∀ x ∈ xs, ∀ p k le, relAddr sp x.1 = some (p, k, le) → p ≠ a) →
    cellGet zero0 (xs.foldr (commitOne sp) v).glade.words a = cellGet zero0 v.glade.words a
  | [], _ => rfl
  | x :: xs, ha => by
    obtain ⟨hx, hxs⟩ := List.forall_mem_cons.mp ha
    rw [List.foldr_cons, cellGet_commitOne_other (commitAll_wf h xs) hx, cellGet_commitAll_other h xs hxs]

theorem cellGet_commitAll_last (h : Memory.wf zero0 v.glade.words = true) {x : Nat × BitVec 24} {k : Nat} {lease : Lease}
    (hx : relAddr sp x.1 = some (a, k, lease)) (xs : List (Nat × BitVec 24)) :
    cellGet zero0 ((x :: xs).foldr (commitOne sp) v).glade.words a = x.2.toNat := by
  rw [List.foldr_cons, commitOne_inside hx, cellGet_cellPut zero0 _ a a _ (commitAll_wf h xs), if_pos rfl]

end Commits

/-- Settles O59: a lease and a release zero a range (`cellGet_zeroWords`), a move writes the words at their new place
(`cellGet_moveLease`), and a commit writes the staged stores, the last one last (`commitStores_foldr`). -/
theorem gladeWordsChangeOnlyWhereAddressed : Obligations.Glade_words_change_only_where_addressed := by
  unfold Obligations.Glade_words_change_only_where_addressed
  intro v a h
  refine ⟨fun base n => ⟨zeroWords_wf h base n, cellGet_zeroWords h base n a⟩, fun l => ?_, fun f k base n hk hn hb => ?_,
    fun k l dest free => ⟨moveLease_wf h k l dest, cellGet_moveLease h k l dest a free⟩, fun r => ?_⟩
  · rw [freeLease_words]
    exact ⟨zeroWords_wf h _ _, cellGet_zeroWords h _ _ a⟩
  · rw [leaseNow_words hk hn hb]
    exact ⟨zeroWords_wf h base n, cellGet_zeroWords h base n a⟩
  · rw [commitStores_foldr]
    refine ⟨commitAll_wf h _, cellGet_commitAll_other h _, fun x rest k le hr hx => ?_⟩
    rw [hr]
    exact cellGet_commitAll_last h hx rest

/-! ### The Folio (R178 to R181) -/

section Folio

variable {f : InFlight} {s : State}

theorem folioWriteNow_unmaps (h : pU f.payload 28 1 = 2) : folioWriteNow f s = complete f.id stOK 0 0 (some (nowStamp s))
    { s with glade := { s.glade with tables := tabDel s.glade.tables f.target.idx } } := by
  simp only [folioWriteNow, h]
  rfl

/-- R179: the Folio address at which the table that FOLIO_WRITE names begins, once the descriptor has mapped it. -/
def writeBase (f : InFlight) (s : State) : Nat :=
  if pU f.payload 28 1 = 1 then pU f.payload 30 2 else ((tabGet s.glade.tables f.target.idx).map (fun x => x.base)).getD 0

/-- R180: the entries that FOLIO_WRITE writes: whole blocks of what has arrived. -/
def writeCount (f : InFlight) : Nat :=
  wholeBlocks (pU f.payload 24 2) (pU f.payload 26 2) (min (pU f.payload 26 2) (f.buf.data.length / 4))

/-- R179: their values. -/
def writeVals (f : InFlight) : List Nat := (List.range (writeCount f)).map (fun i => leAt f.buf.data (4 * i) 3)

theorem folioWriteNow_folio (h : pU f.payload 28 1 ≠ 2) :
    (folioWriteNow f s).glade.folio = cellPuts zero0 s.glade.folio (writeBase f s + pU f.payload 24 2) (writeVals f) := by
  unfold folioWriteNow
  dsimp only
  split
  next two => exact absurd two h
  next =>
    rw [apply_ite State.glade, complete_glade, complete_glade, ite_self]
    by_cases maps : pU f.payload 28 1 = 1 <;> simp [maps, modGlade, writeBase, writeVals, writeCount]

theorem wholeBlocks_le (first count bytes : Nat) : wholeBlocks first count (min count (bytes / 4)) ≤ count := by
  unfold wholeBlocks
  split <;> omega

theorem wholeBlocks_full {first count bytes : Nat} (h : 4 * count ≤ bytes) : wholeBlocks first count (min count (bytes / 4)) = count :=
  if_pos (by omega)

@[simp] theorem writeVals_length (f : InFlight) : (writeVals f).length = writeCount f := by simp [writeVals]

theorem writeVals_getElem? {i : Nat} (h : i < writeCount f) : (writeVals f)[i]? = some (leAt f.buf.data (4 * i) 3) := by
  simp [writeVals, h]

end Folio

/-! ### Program RAM (R137) -/

section Program

variable {f : InFlight} {s : State} {found : List FoundLeaf}

/-- R137: the words that PROGRAM_LOAD writes. -/
def loadWords (f : InFlight) : List Nat := (bufWords (bufData f)).take (loadLen f)

theorem loadWords_length_le (f : InFlight) : (loadWords f).length ≤ loadLen f := List.length_take_le ..

theorem programNow_ram (h : findLeaves 600 (loadWords f) 0 [] = .inl found) :
    (programNow f s).canopy.ram = cellPuts zero0 s.canopy.ram (loadBase f) (loadWords f) := by
  rw [loadWords] at h
  simp only [programNow, h, complete_canopy]
  rfl

end Program

/-- Settles O60: each writes consecutive addresses of its store (`folioWriteNow_folio`, `programNow_ram`). -/
theorem folioAndProgramRamChangeOnlyWhereAddressed : Obligations.Folio_and_program_ram_change_only_where_addressed := by
  unfold Obligations.Folio_and_program_ram_change_only_where_addressed
  intro f v a base first count hfolio hram hfirst hcount
  subst hfirst hcount
  refine ⟨fun h => by rw [folioWriteNow_unmaps h, complete_glade], fun h hbase => ?_, fun found h => ?_⟩
  · obtain rfl : base = writeBase f v := hbase
    have le : writeCount f ≤ pU f.payload 26 2 := wholeBlocks_le ..
    rw [folioWriteNow_folio h]
    refine ⟨cellPuts_wf zero0 _ _ _ hfolio, fun out => ?_, fun n hn => ?_⟩
    · exact cellGet_cellPuts_outside hfolio (by rw [writeVals_length]; omega)
    · obtain rfl : n = writeCount f := hn
      exact ⟨le, fun full => wholeBlocks_full full, fun i hi => cellGet_cellPuts_listed hfolio (writeVals_getElem? hi),
        fun i hi => cellGet_cellPuts_outside hfolio (by rw [writeVals_length]; omega)⟩
  · have le := loadWords_length_le f
    simp only [ramWord, programNow_ram h]
    exact ⟨cellPuts_wf zero0 _ _ _ hram, fun out => cellGet_cellPuts_outside hram (by omega),
      fun i w hw => cellGet_cellPuts_listed hram hw⟩

/-! ### Folio and program descriptors (R137, R178 to R181) -/

section Descriptors

variable {f : InFlight} {s : State} {serve : BitVec 16 → List RawDesc → State → State}

theorem isImmediate_store (h : f.opcode.toNat = 0x58 ∨ f.opcode.toNat = 0x59 ∨ f.opcode.toNat = 0x5C) : isImmediate f s = true := by
  rcases h with h | h | h <;> simp [isImmediate, h, opInfo]

theorem opNow_folioWrite (h : f.opcode.toNat = 0x58) : opNow serve f s = folioWriteNow f s := by simp [opNow, h]

theorem opNow_folioRead (h : f.opcode.toNat = 0x59) : opNow serve f s = folioReadNow f s := by simp [opNow, h]

theorem opNow_programLoad (h : f.opcode.toNat = 0x5C) : opNow serve f s = programNow f s := by simp [opNow, h]

/-- R82, R89: the Folio and program descriptors act at acceptance. -/
theorem svcDescEff_store {op : Nat} {w : State} (d : Desc) (h : op = 0x58 ∨ op = 0x59 ∨ op = 0x5C)
    (ht : svcTakes (rawOf op d) (frameBegin s) = true) (hfw : (f, w) = svcFlight (rawOf op d) (frameBegin s))
    (hp : passes (rawOf op d) (frameBegin s) = true) :
    f.opcode.toNat = op ∧ svcDescEff (rawOf op d) s = svcDone (opNow tunnelServer f w) := by
  have code : f.opcode.toNat = op := by
    rw [show f = (svcFlight (rawOf op d) (frameBegin s)).1 from congrArg Prod.fst hfw, opcode_svcFlight_rawOf d (by omega)]
  have other : f.opcode ≠ 0x70#8 := fun e => by
    rw [e] at code
    rcases h with rfl | rfl | rfl <;> exact absurd code (by decide)
  have acts := svcDescEff_acts (rawOf op d) s _ rfl ht hp
  rw [← hfw] at acts
  exact ⟨code, acts (isImmediate_store (by rwa [code])) other⟩

/-- R181: with a clean table and a buffer that answers, the entries are written to host memory. -/
theorem folioReadNow_reads {t : Table} {v : State} (ht : tabGet s.glade.tables f.target.idx = some t) (hb : f.buf.ok = true)
    (hclean : s.glade.folioBad.any (fun a => decide (t.base + pU f.payload 24 2 ≤ a)
      && decide (a < t.base + pU f.payload 24 2 + pU f.payload 26 2)) = false)
    (hv : v = hostWrite f (pU f.payload 16 8) ((List.range (pU f.payload 26 2)).flatMap (fun i =>
      leBytes 4 (toW 32 (folioWord s (t.base + pU f.payload 24 2 + i))))) s) :
    folioReadNow f s = complete f.id stOK (pU f.payload 26 2) 0 (some (nowStamp v)) v := by
  subst hv
  simp only [folioReadNow, ht, hclean, hb, Bool.not_true, Bool.false_eq_true, if_false]

end Descriptors

/-- Settles O39: each row submits its descriptor, which acts at acceptance by its opcode. -/
theorem folioAndProgramDescriptorsTakeEffect : Obligations.Folio_and_program_descriptors_take_effect := by
  unfold Obligations.Folio_and_program_descriptors_take_effect
  intro dt d r s u b w f hs hu hb ht hfw hp
  subst hu hb
  refine ⟨fun hr hmode => ?_, fun hr => ?_, fun hr hok t htab hclean v hv => ?_, fun hr => ?_, fun g v l hl => programNow_ram hl⟩ <;>
    subst hr
  · obtain ⟨code, acts⟩ := svcDescEff_store d (.inl rfl) ht hfw hp
    rw [opNow_folioWrite code, folioWriteNow_unmaps hmode] at acts
    exact exec_closes rfl hs acts
  · obtain ⟨code, acts⟩ := svcDescEff_store d (.inl rfl) ht hfw hp
    rw [opNow_folioWrite code] at acts
    exact exec_closes rfl hs acts
  · obtain ⟨code, acts⟩ := svcDescEff_store d (.inr (.inl rfl)) ht hfw hp
    rw [opNow_folioRead code, folioReadNow_reads htab hok hclean hv] at acts
    exact exec_closes rfl hs acts
  · obtain ⟨code, acts⟩ := svcDescEff_store d (.inr (.inr rfl)) ht hfw hp
    rw [opNow_programLoad code] at acts
    exact exec_closes rfl hs acts

end Sys2Proof.Machine
end

section
/-!
PROOF. Family 06: the descriptors of the Glade at the service port, and the maintenance of the Glade: a thinning, the load window, the
scrubber and a word in uncorrectable error. What each operation does in the cases that the statements name is stated once about the
operation; the statements follow by the runner's law.
-/

namespace Sys2Proof.Machine

/-! ### Lease, release and thin descriptors (R82, R89, R166 to R173) -/

section GladeDescriptors

variable {f : InFlight} {s : State} {serve : BitVec 16 → List RawDesc → State → State}

/-- The opcodes of GLADE_LEASE, GLADE_RELEASE and GLADE_THIN. -/
def IsGladeOp (op : Nat) : Prop := op = 0x50 ∨ op = 0x51 ∨ op = 0x52

theorem isImmediate_glade (h : IsGladeOp f.opcode.toNat) : isImmediate f s = true := by
  rcases h with h | h | h <;> simp [isImmediate, h, opInfo]

theorem opNow_glade (h : IsGladeOp f.opcode.toNat) : opNow serve f s = gladeAccept f s := by
  rcases h with h | h | h <;> simp [opNow, h]

theorem gladeAccept_now (h : s.glade.thin = none) : gladeAccept f s = runDeferred 600 (gladeNow f s) := by
  simp [gladeAccept, h]

theorem gladeAccept_deferred (h : s.glade.thin.isSome = true) :
    gladeAccept f s = { s with glade := { s.glade with deferred := s.glade.deferred ++ [f.id] } } :=
  if_pos h

theorem gladeNow_lease (h : f.opcode.toNat = 0x50) (hc : leaseStateCheck f s = none) : gladeNow f s = leaseNow f s := by
  simp only [gladeNow, h, hc]

theorem gladeNow_release (h : f.opcode.toNat = 0x51) (hc : releaseStateCheck f s = none) : gladeNow f s = releaseNow f s := by
  simp only [gladeNow, h, hc]

theorem gladeNow_thin (h : f.opcode.toNat = 0x52) (hc : thinStateCheck f s = none) : gladeNow f s = thinNow f s := by
  simp only [gladeNow, h, hc]

/-- R173: a lease, release or thin descriptor meets the Glade at acceptance. -/
theorem svcDescEff_glade {op : Nat} {w : State} (d : Desc) (h : IsGladeOp op) (ht : svcTakes (rawOf op d) (frameBegin s) = true)
    (hfw : (f, w) = svcFlight (rawOf op d) (frameBegin s)) (hp : passes (rawOf op d) (frameBegin s) = true) :
    f.opcode.toNat = op ∧ svcDescEff (rawOf op d) s = svcDone (gladeAccept f w) := by
  have small : op < 2 ^ 8 ∧ op ≠ 0x70 := by
    rcases h with rfl | rfl | rfl <;> decide
  have code : f.opcode.toNat = op := by
    rw [show f = (svcFlight (rawOf op d) (frameBegin s)).1 from congrArg Prod.fst hfw, opcode_svcFlight_rawOf d small.1]
  have glade : IsGladeOp f.opcode.toNat := by rwa [code]
  have other : f.opcode ≠ 0x70#8 := fun e => small.2 (by rw [← code, e]; rfl)
  have acts := svcDescEff_acts (rawOf op d) s _ rfl ht hp
  rw [← hfw] at acts
  exact ⟨code, by rw [acts (isImmediate_glade glade) other, opNow_glade glade]⟩

/-- R165, R166: a lease that has its entry and its place is entered in the table. -/
theorem leaseNow_leases {k base n : Nat} (hk : tabFree s.glade.leases 128 = some k)
    (hn : n = leaseNeed s (bit (pU f.payload 18 1) 0) (leaseLeaves f.payload)) (hb : placeLease s (pU f.payload 19 1) n = some base) :
    (leaseNow f s).glade.leases = tabPut s.glade.leases k
      { base := base, words := n, slot := Fin.ofNat 32 f.target.idx, owner := leaseOwner (Fin.ofNat 32 f.target.idx) (pU f.payload 17 1)
        leaves := (leaseLeaves f.payload).map (fun i => BitVec.ofNat 8 i), standby := bit (pU f.payload 18 1) 0 } := by
  subst hn
  simp only [leaseNow, hk, hb, complete_glade, leaseChange_glade, foldl_resetLeaf_glade]
  rfl

end GladeDescriptors

/-- Settles O38: each row submits its descriptor, which meets the Glade at acceptance (`svcDescEff_glade`) and takes effect or waits by
`gladeAccept_now` and `gladeAccept_deferred`; the lease entered is `leaseNow_leases`. -/
theorem gladeDescriptorsTakeEffect : Obligations.Glade_descriptors_take_effect := by
  unfold Obligations.Glade_descriptors_take_effect
  intro dt d r s u b w f hs hu hb ht hfw hp
  subst hu hb
  refine ⟨fun hr free hc => ?_, fun hr free hc => ?_, fun hr free hc => ?_, fun hr busy => ?_,
    fun g v k base hk hb => leaseNow_leases hk rfl hb⟩ <;> subst hr
  · obtain ⟨code, acts⟩ := svcDescEff_glade d (.inl rfl) ht hfw hp
    rw [gladeAccept_now free, gladeNow_lease code hc] at acts
    exact exec_closes rfl hs acts
  · obtain ⟨code, acts⟩ := svcDescEff_glade d (.inr (.inl rfl)) ht hfw hp
    rw [gladeAccept_now free, gladeNow_release code hc] at acts
    exact exec_closes rfl hs acts
  · obtain ⟨code, acts⟩ := svcDescEff_glade d (.inr (.inr rfl)) ht hfw hp
    rw [gladeAccept_now free, gladeNow_thin code hc] at acts
    exact exec_closes rfl hs acts
  · obtain ⟨-, acts⟩ := svcDescEff_glade d (.inl rfl) ht hfw hp
    rw [gladeAccept_deferred busy] at acts
    exact exec_closes rfl hs acts

/-! ### A thinning (R171, R172, R177) -/

section Thinning

variable {s : State} {k : Nat} {l : Lease} {th : Thin}

theorem thinHead_thin (h : thinHead s = some (k, l, th)) : s.glade.thin = some th := by
  unfold thinHead at h
  split at h
  next t ht =>
    split at h
    · obtain ⟨_, _, same⟩ := Option.map_eq_some_iff.mp h
      obtain ⟨-, -, rfl⟩ := same
      exact ht
    · cases h
  next => cases h

theorem moveLease_leases (k : Nat) (l : Lease) (dest : Nat) (s : State) :
    (moveLease k l dest s).glade.leases = tabPut s.glade.leases k { l with base := dest } := by
  simp only [moveLease, leaseChange_glade]
  rfl

theorem thinCopyEff_moves (h : thinHead s = some (k, l, th)) (gap : gapNow s l = true) (early : th.waited < 64) {v : State}
    (hv : v = moveLease k l (thinDest s l th.dest) s) : thinCopyEff s = runDeferred 600 (thinRun 130
      { v with glade := { v.glade with thin := v.glade.thin.map (fun t => { t with todo := t.todo.tail, waited := 0 }) } }) := by
  subst hv
  simp only [thinCopyEff, h, gap, early, and_self, if_true, modGlade]

theorem thinMoveEff_clean (s : State) : thinMoveEff none s = thinCopyEff s := by
  cases h : thinHead s <;> simp only [thinMoveEff, h]

/-- R177: a word in uncorrectable error is found in the copy, and the lease stays. -/
theorem thinMoveEff_bad (h : thinHead s = some (k, l, th)) (gap : gapNow s l = true) (early : th.waited < 64) {o : Nat} (ho : o < l.words) :
    thinMoveEff (some (o, .bad)) s = thinSettle (gladeUncorrectable (l.base + o) s) := by
  simp only [thinMoveEff, h, gap, early, ho, and_self, if_true]

theorem thinSkipEff_skips (h : thinHead s = some (k, l, th)) (late : 64 ≤ th.waited) : thinSkipEff s = runDeferred 600 (thinRun 130
    { s with glade := { s.glade with
      thinSkips := s.glade.thinSkips + 1
      thin := some { th with todo := th.todo.tail, waited := 0, skipped := th.skipped + 1 } } }) := by
  simp only [thinSkipEff, h, late, if_true, modGlade, thinHead_thin h, Option.map_some]

end Thinning

/-! ### The load window (R174, R175) -/

section Load

variable {s : State}

/-- R175: the accesses of the window on all banks. -/
def windowTotal (s : State) : Nat := s.glade.accesses.toList.foldl (· + ·) 0

/-- R175: the accesses of the window on the bank with the most. -/
def windowTop (s : State) : Nat := s.glade.accesses.toList.foldl max 0

/-- R175: the first of the banks with the most accesses. -/
def windowBank (s : State) : Nat := (s.glade.accesses.toList.findIdx? (fun x => x == windowTop s)).getD 0

/-- No bank is counted more often than the top, which is the count of one of the banks. -/
theorem windowTop_spec (s : State) :
    (∀ n : Fin 8, s.glade.accesses[n] ≤ windowTop s) ∧ ∃ n : Fin 8, s.glade.accesses[n] = windowTop s := by
  obtain ⟨hmem, hle⟩ := List.max?_eq_some_iff.mp (List.max?_cons' (x := 0) (xs := s.glade.accesses.toList))
  change windowTop s ∈ _ at hmem
  have le (n : Fin 8) : s.glade.accesses[n] ≤ windowTop s := hle _ (List.mem_cons_of_mem _ (by simp))
  refine ⟨le, ?_⟩
  rcases List.mem_cons.mp hmem with zero | counted
  · exact ⟨0, by have := le 0; omega⟩
  · obtain ⟨i, hi, same⟩ := Vector.mem_iff_getElem.mp (Vector.mem_toList_iff.mp counted)
    exact ⟨⟨i, hi⟩, same⟩

/-- R175: a window whose load is within the limits closes without a warning. -/
theorem gladeLoadEff_closes (hw : s.glade.windowFrom + msLsb ≤ s.time.now) (total : windowTotal s ≤ 900000) (top : windowTop s ≤ 112500) :
    gladeLoadEff s = { s with glade := { s.glade with
      accesses := Vector.replicate 8 0, windowFrom := s.time.now / msLsb * msLsb
      loadTotal := min 100 (windowTotal s / 12000), loadBankPct := min 100 (windowTop s / 1500), loadBank := windowBank s } } := by
  unfold gladeLoadEff
  exact (if_neg (by omega)).trans (if_neg (not_or.mpr ⟨total.not_gt, top.not_gt⟩))

end Load

/-! ### The scrubber, and words in error (R134, R176 to R178, R182, R414) -/

section Scrub

variable {s v : State} {a : Nat}

theorem gladeScrub_done (h : scrubTurn false a s = none) (e : Ecc) : gladeScrub a e s = s := by
  simp only [gladeScrub, h, ite_self]

theorem gladeScrub_clean (ha : a < 6144) (h : scrubTurn false a s = some v) : gladeScrub a .clean s = countRange a 1 v := by
  simp only [gladeScrub, h, if_neg ha.not_ge]

theorem gladeScrub_bad (ha : a < 6144) (h : scrubTurn false a s = some v) :
    gladeScrub a .bad s = gladeUncorrectable a (countRange a 1 v) := by
  simp only [gladeScrub, h, if_neg ha.not_ge]

/-- R177: a free word in uncorrectable error is cleared, and warned of. -/
theorem gladeUncorrectable_free {w : State} (h : leaseAt s a = none) (hw : w = countRange a 1 { s with glade := { s.glade with
      eccBad := satU 16 (s.glade.eccBad + 1), words := cellPut zero0 s.glade.words a 0, bad := s.glade.bad.filter (· != a) } }) :
    gladeUncorrectable a s = emit (gladeEccHap w a .warning) w := by
  have counted : leaseAt (modGlade s (fun g => { g with eccBad := satU 16 (g.eccBad + 1) })) a = none := h
  subst hw
  simp only [gladeUncorrectable, counted]
  rfl

theorem folioScrub_clean (ha : a < 16384) (h : scrubTurn true a s = some v) : folioScrub a .clean s = v := by
  simp only [folioScrub, h, if_neg ha.not_ge, folioEcc_clean]

theorem scrubEff_pstore (ha : a < 4096) (e : Ecc) : scrubEff .pstore a e s = pstoreEcc a e s := if_pos ha

end Scrub

/-- Settles O47: a thinning, the load window and a scrub read each have their law; the top of the window is `windowTop_spec`. -/
theorem gladeMaintenanceRuns : Obligations.Glade_maintenance_runs := by
  unfold Obligations.Glade_maintenance_runs
  intro dt k l th s u v hs hu
  subst hu
  refine ⟨fun head gap early hv => ⟨?_, fun o ho => ?_⟩, fun head late => ?_, fun x => ?_, fun hw total banks => ?_,
    fun a ha => ⟨fun h e => ?_, fun h => ⟨?_, ?_⟩⟩, fun a w h hw => gladeUncorrectable_free h hw, fun a ha h => ?_, fun a ha => ?_,
    fun a => ?_⟩
  · exact exec_closes rfl hs ((thinMoveEff_clean _).trans (thinCopyEff_moves head gap early hv))
  · exact exec_closes rfl hs (thinMoveEff_bad head gap early ho)
  · exact exec_closes rfl hs (thinSkipEff_skips head late)
  · rw [moveLease_leases, tabGet_tabPut_same]
  · obtain ⟨le, n, top⟩ := windowTop_spec (begin dt s)
    exact ⟨_, le, ⟨n, top⟩, _, exec_closes rfl hs (gladeLoadEff_closes hw total (top ▸ banks n))⟩
  · exact exec_closes rfl hs (gladeScrub_done h e)
  · exact exec_closes rfl hs (gladeScrub_clean ha h)
  · exact exec_closes rfl hs (gladeScrub_bad ha h)
  · exact exec_closes rfl hs (folioScrub_clean ha h)
  · exact exec_closes rfl hs (scrubEff_pstore ha .corrected)
  · exact exec_closes rfl hs rfl

end Sys2Proof.Machine
end

section
/-!
PROOF. Family 07: the descriptors that set up a slot, submitted at the service port while the slot is in OFF. They act at acceptance,
because a checked header names a slot as its target; what each then leaves is stated once about its operation.
-/

namespace Sys2Proof.Machine

/-! ### What a checked header says (R87, R88) -/

/-- R88: where no check fails, the condition of each is false. -/
theorem firstFail_none {cs : List Check} (h : firstFail cs = none) : ∀ c ∈ cs, c.1 = false := by
  have clear : cs.filter (fun c => c.1) = [] := by
    cases hf : cs.filter (fun c => c.1) with
    | nil => rfl
    | cons c rest =>
      simp only [firstFail, hf] at h
      split at h <;> cases h
  simpa using clear

/-- R87, R88: a checked header names a target of its opcode's class. -/
theorem headerCheck_class {src : Source} {r : RawDesc} {s : State} {cls count : Nat} {timed : Bool} (h : headerCheck src r s = none)
    (hi : opInfo (rawU r 0 2) = some (cls, count, timed)) : rawU r 5 1 = cls := by
  have clean : headerReserved r = none := by
    cases hr : headerReserved r with
    | none => rfl
    | some o => simp [headerCheck, hr] at h
  simp only [headerCheck, clean, hi] at h
  have target := firstFail_none h (_, stTarget, (rawU r 4 4 : Int)) (.tail _ (.tail _ (.head _)))
  simp only [Bool.or_eq_false_iff, bne_eq_false_iff_eq] at target
  exact target.1

theorem svcFlight_class (r : RawDesc) (s : State) : (svcFlight r s).1.target.cls = rawU r 5 1 := rfl

/-- R86: the opcode field of a descriptor. -/
theorem rawU_rawOf_opcode {op : Nat} (d : Desc) (h : op < 2 ^ 8) : rawU (rawOf op d) 0 2 = op := by
  rw [rawU, bits, rawOf_toNat d (by omega)]
  omega

/-- R87, R88: a descriptor in flight whose checks have passed targets its opcode's class. -/
theorem class_svcFlight_rawOf {op cls count : Nat} {timed : Bool} (d : Desc) {s : State} (h : op < 2 ^ 8)
    (hp : passes (rawOf op d) s = true) (hi : opInfo op = some (cls, count, timed)) : (svcFlight (rawOf op d) s).1.target.cls = cls := by
  simp only [passes, Bool.and_eq_true, Option.isNone_iff_eq_none] at hp
  rw [svcFlight_class]
  exact headerCheck_class hp.1 ((congrArg opInfo (rawU_rawOf_opcode d h)).trans hi)

/-! ### Slot set-up descriptors (R82, R89, R189, R195 to R199, R222, R245) -/

section SlotSetup

variable {f : InFlight} {s : State} {serve : BitVec 16 → List RawDesc → State → State}

/-- The opcodes of SLOT_CONFIG, BANK_LOAD, BANK_SWAP, LIMITS_SET and STEP_CONFIG. -/
def IsSlotSetupOp (op : Nat) : Prop := op = 0x10 ∨ op = 0x11 ∨ op = 0x12 ∨ op = 0x25 ∨ op = 0x38

theorem IsSlotSetupOp.info {op : Nat} (h : IsSlotSetupOp op) : op < 2 ^ 8 ∧ op ≠ 0x70 ∧ ∃ timed, opInfo op = some (1, 32, timed) := by
  rcases h with rfl | rfl | rfl | rfl | rfl <;> exact ⟨by decide, by decide, _, rfl⟩

/-- R195, R222, R245: the set-up of a slot in OFF waits for no sample. -/
theorem isImmediate_slotSetup (h : IsSlotSetupOp f.opcode.toNat) (hc : f.target.cls = 1) (off : s.axis.slots[slotT f].mode = .off) :
    isImmediate f s = true := by
  have atOnce : (f.target.cls == 1 && s.axis.slots[(Fin.ofNat 32 f.target.idx : Fin 32)].mode == .off) = true := by
    rw [hc, show s.axis.slots[(Fin.ofNat 32 f.target.idx : Fin 32)].mode = .off from off]
    rfl
  rcases h with h | h | h | h | h
  · simp [isImmediate, h, opInfo]
  all_goals simpa only [isImmediate, h] using atOnce

theorem opNow_slotConfig (h : f.opcode.toNat = 0x10) : opNow serve f s = slotConfigNow f s := by simp only [opNow, h]

theorem opNow_bankLoad (h : f.opcode.toNat = 0x11) : opNow serve f s = bankLoadNow f (nowStamp s) s := by simp only [opNow, h]

theorem opNow_bankSwap (h : f.opcode.toNat = 0x12) : opNow serve f s = bankSwapNow f (nowStamp s) s := by simp only [opNow, h]

theorem opNow_limitsSet (h : f.opcode.toNat = 0x25) : opNow serve f s = limitsSetNow f (nowStamp s) s := by simp only [opNow, h]

theorem opNow_stepConfig (h : f.opcode.toNat = 0x38) : opNow serve f s = stepCfgNow f (nowStamp s) s := by simp only [opNow, h]

/-- R82, R89: the descriptors that set up a slot in OFF act at acceptance. -/
theorem svcDescEff_slotSetup {op : Nat} {w : State} (d : Desc) (h : IsSlotSetupOp op) (ht : svcTakes (rawOf op d) (frameBegin s) = true)
    (hfw : (f, w) = svcFlight (rawOf op d) (frameBegin s)) (hp : passes (rawOf op d) (frameBegin s) = true)
    (off : w.axis.slots[slotT f].mode = .off) :
    f.opcode.toNat = op ∧ svcDescEff (rawOf op d) s = svcDone (opNow tunnelServer f w) := by
  obtain ⟨small, notCan, timed, info⟩ := h.info
  have hf : f = (svcFlight (rawOf op d) (frameBegin s)).1 := congrArg Prod.fst hfw
  have code : f.opcode.toNat = op := by rw [hf, opcode_svcFlight_rawOf d small]
  have slot : f.target.cls = 1 := by rw [hf, class_svcFlight_rawOf d small hp info]
  have other : f.opcode ≠ 0x70#8 := fun e => notCan (by rw [← code, e]; rfl)
  have acts := svcDescEff_acts (rawOf op d) s _ rfl ht hp
  rw [← hfw] at acts
  exact ⟨code, acts (isImmediate_slotSetup (by rwa [code]) slot off) other⟩

/-- R197: a part that is no pair, or the standby set of a pair, is written without an event. -/
theorem bankLoadNow_off {at' : Stamp} (off : s.axis.slots[slotT f].mode = .off)
    (h : isPair (pU f.payload 16 1) = false ∨ pU f.payload 17 1 ≠ 0) : bankLoadNow f at' s =
      complete f.id stOK (pU f.payload 16 1) 0 (some at') (fogSlot (slotT f) (modSlot s (slotT f) (loadPart f.payload false))) := by
  have silent : (isPair (pU f.payload 16 1) && pU f.payload 17 1 == 0) = false := by
    rcases h with h | h <;> simp [h]
  simp only [bankLoadNow, off, silent, bne_self_eq_false, Bool.false_eq_true, if_false]

/-- R222: the first limits of a slot leave its motion as it is. -/
theorem limitsSetNow_first {at' : Stamp} (h : s.axis.slots[slotT f].limits = none) : limitsSetNow f at' s =
    completeOk f.id (some at') (modSlot s (slotT f) (fun sl => { sl with limits := some {
      vmax := pS f.payload 16 4, amax := pS f.payload 20 4, dmax := pS f.payload 24 4, jmax := pS f.payload 28 4
      stopDec := pS f.payload 32 4, stopJerk := pS f.payload 36 4, reject := bit (pU f.payload 40 1) 0 } })) := by
  simp only [limitsSetNow, h, Option.isSome_none, Bool.false_eq_true, if_false]

end SlotSetup

/-- Settles O37: each row submits its descriptor, which acts at acceptance by its opcode (`svcDescEff_slotSetup`). -/
theorem slotSetupTakesEffectAtAcceptance : Obligations.Slot_setup_takes_effect_at_acceptance := by
  unfold Obligations.Slot_setup_takes_effect_at_acceptance
  intro dt d r s u b w f hs hu hb ht hfw hp off
  subst hu hb
  refine ⟨fun hr => ?_, fun hr hpart => ?_, fun hr => ?_, fun hr first => ?_, fun hr => ?_⟩ <;> subst hr
  · obtain ⟨code, acts⟩ := svcDescEff_slotSetup d (.inl rfl) ht hfw hp off
    rw [opNow_slotConfig code] at acts
    exact exec_closes rfl hs acts
  · obtain ⟨code, acts⟩ := svcDescEff_slotSetup d (.inr (.inl rfl)) ht hfw hp off
    rw [opNow_bankLoad code, bankLoadNow_off off hpart] at acts
    exact exec_closes rfl hs acts
  · obtain ⟨code, acts⟩ := svcDescEff_slotSetup d (.inr (.inr (.inl rfl))) ht hfw hp off
    rw [opNow_bankSwap code] at acts
    exact exec_closes rfl hs acts
  · obtain ⟨code, acts⟩ := svcDescEff_slotSetup d (.inr (.inr (.inr (.inl rfl)))) ht hfw hp off
    rw [opNow_limitsSet code, limitsSetNow_first first] at acts
    exact exec_closes rfl hs acts
  · obtain ⟨code, acts⟩ := svcDescEff_slotSetup d (.inr (.inr (.inr (.inr rfl)))) ht hfw hp off
    rw [opNow_stepConfig code] at acts
    exact exec_closes rfl hs acts

end Sys2Proof.Machine
end

section
/-!
PROOF. Family 09: transitions of the quadrature lines, of Z and of the Hall lines, and the standstill of a port. What each does in the
cases that the statement names is stated once about its effect; the statement follows by the runner's law.
-/

namespace Sys2Proof.Machine

@[simp] theorem regB_modPort (s : State) (p : Fin 3) (f : Port → Port) (o i : Nat) : regB (modPort s p f) o i = regB s o i := rfl

/-! ### The Gray sequence (R255) -/

/-- R255: the place of the (A, B) state of a port's lines in the Gray sequence. -/
def linesIndex (lines : BitVec 3) : Nat := grayIndex (lines.getLsbD 1) (lines.getLsbD 0)

/-- R255: the count of an edge between two states of the lines, whose sense `invert` reverses. -/
def edgeCount (invert : Bool) (before after : BitVec 3) : Int :=
  (if linesIndex after = (linesIndex before + 1) % 4 then 1 else -1) * if invert then -1 else 1

theorem edgeCount_unit (invert : Bool) (before after : BitVec 3) :
    edgeCount invert before after = 1 ∨ edgeCount invert before after = -1 := by
  unfold edgeCount
  cases invert <;> split <;> decide

/-- R255: an edge along the sequence, and no other, counts in the positive sense of the port. -/
theorem along_iff_edgeCount (invert : Bool) (before after : BitVec 3) :
    linesIndex after = (linesIndex before + 1) % 4 ↔ edgeCount invert before after = if invert then -1 else 1 := by
  unfold edgeCount
  split
  next along => simp [along]
  next against => cases invert <;> simp [against]

/-! ### Edges of the counting lines (R254 to R256) -/

/-- R45, R254: a line of a port at its new level, with the stamp of the accepted edge. -/
def acceptLine (line : EncLine) (now : Nat) (x : Port) : Port :=
  match line with
  | .a => { x with lines := x.lines ^^^ 2#3, lastA := some now }
  | .b => { x with lines := x.lines ^^^ 1#3, lastB := some now }

/-- R256: the stamp of the last accepted edge of the other line. -/
def otherEdge (line : EncLine) (x : Port) : Option Nat :=
  match line with
  | .a => x.lastB
  | .b => x.lastA

section Quadrature

/-- R254: the port of ENC0 or ENC1. -/
abbrev encPort (p : Fin 2) : Fin 3 := ⟨p.val, by omega⟩

variable {p : Fin 2} {s : State} {held : Nat}

/-- R254: a line that returns within the window of a port in service is a glitch. -/
theorem encEdgeEff_glitch (line : EncLine) (on : portOn s (encPort p) = true) (short : held < portWindow s (encPort p)) :
    encEdgeEff p line held s = portGlitch (encPort p) s :=
  (if_pos short).trans (if_pos on)

/-- R255: an accepted edge that stands alone counts by its place in the sequence. -/
theorem encEdgeEff_counts (line : EncLine) (on : portOn s (encPort p) = true) (long : portWindow s (encPort p) ≤ held)
    (alone : ∀ t, otherEdge line s.axis.ports[encPort p] = some t → t + portWindow s (encPort p) ≤ s.time.now) {d : Int}
    (hd : d = edgeCount (regB s (portBase p) 1) s.axis.ports[encPort p].lines (acceptLine line s.time.now s.axis.ports[encPort p]).lines) :
    encEdgeEff p line held s =
      noteEdge (encPort p) (decide (d < 0)) (portCount (encPort p) d (modPort s (encPort p) (acceptLine line s.time.now))) := by
  subst hd
  refine (if_neg long.not_gt).trans ((if_neg (by simp [on])).trans ((if_neg (fun near => ?apart)).trans ?counted))
  case apart => cases line <;> grind [otherEdge]
  case counted => cases line <;> rfl

/-! ### Edges of Z (R257, R289) -/

/-- R257: an accepted edge of Z on the port's lines. -/
def flipZ (x : Port) : Port := { x with lines := x.lines ^^^ 4 }

/-- R257: what a port records of Z: the stamp, and C at it. -/
def recordZ (now : Nat) (x : Port) : Port :=
  { x with zReady := false, zSeen := true, zStamp := BitVec.ofNat 64 now, zCount := x.c }

theorem encZEff_unrecorded {v : State} (h : encZEdge p held s = (v, false)) : encZEff p held s = v := by
  simp only [encZEff, h, Bool.false_eq_true, if_false]

/-- R289: a recorded Z triggers the latches at the present instant. -/
theorem encZEff_recorded {v : State} (h : encZEdge p held s = (v, true)) : encZEff p held s =
    latchTrigger (1 + p.val) 0 (fun _ => true) ⟨.d0, BitVec.ofNat 64 v.time.now⟩ false v := by
  simp only [encZEff, h, if_true]

variable (on : portOn s (encPort p) = true) (enabled : regB s (portBase p) 10 = true) (long : portWindow s (encPort p) ≤ held)
include on enabled long

/-- R257: Z back at its inactive level for the window makes the port ready for the next crossing. -/
theorem encZEdge_inactive (back : s.axis.ports[encPort p].lines.getLsbD 2 = !regB s (portBase p) 12) : encZEdge p held s =
    (modPort (modPort s (encPort p) flipZ) (encPort p) (fun x => { x with zReady := true }), false) :=
  (if_neg (by simp [on, enabled])).trans ((if_neg long.not_gt).trans (if_pos (by rw [back]; simp)))

/-- R257: the first active edge of a crossing is recorded with its stamp and C. -/
theorem encZEdge_records (active : s.axis.ports[encPort p].lines.getLsbD 2 = regB s (portBase p) 12)
    (ready : s.axis.ports[encPort p].zReady = true) (ungated : regB s (portBase p) 11 = false) (silent : regB s (portBase p) 13 = false) :
    encZEdge p held s = (modPort (modPort s (encPort p) flipZ) (encPort p) (recordZ s.time.now), true) :=
  (if_neg (by simp [on, enabled])).trans ((if_neg long.not_gt).trans ((if_neg (by rw [active]; simp)).trans
    ((if_pos (by rw [ready]; simp [ungated])).trans (congrArg (·, true) (if_neg (by exact ne_true_of_eq_false silent))))))

end Quadrature

/-! ### Edges of the Hall lines (R265, R266) -/

section Hall

variable {lines : BitVec 3} {held : Nat} {s : State}

/-- R265: the next sector lies one place on. -/
theorem nextSector_moves (k : Fin 6) : (k.val + 6 - (k + 5).val) % 6 = 1 := by decide +revert

/-- R265: a move to the next sector counts one in the positive sense of the port. -/
theorem hallEdgeEff_next {k : Fin 6} (on : portOn s 2 = true) (long : portWindow s 2 ≤ held) (hk : hallSector lines = some k)
    (previous : s.axis.ports[(2 : Fin 3)].sector = some (k + 5)) : hallEdgeEff lines held s = hallSectorEff k (modPort
      (noteEdge 2 (regB s (portBase 2) 1) (portCount 2 (if regB s (portBase 2) 1 then -1 else 1) (modPort s 2 (fun q => { q with lines := lines }))))
      2 (fun q => { q with valid := lines, sector := some k })) := by
  have sense : decide ((if regB s (portBase 2) 1 then (-1 : Int) else 1) < 0) = regB s (portBase 2) 1 := by
    cases regB s (portBase 2) 1 <;> rfl
  simp only [hallEdgeEff, long.not_gt, if_false, on, Bool.not_true, Bool.false_eq_true, hk]
  rw [previous]
  simp [nextSector_moves, sense]

/-- R266: a state that names no sector is counted and reported; the counter and the sector stay. -/
theorem hallEdgeEff_invalid (on : portOn s 2 = true) (long : portWindow s 2 ≤ held) (hk : hallSector lines = none) :
    hallEdgeEff lines held s =
      emitLim msLsb 0 (fun x => { source := 155, sev := .warning
                                  payload := b1 lines.toNat ++ b1 s.axis.ports[(2 : Fin 3)].valid.toNat ++ cnt1 x })
        (hallInvalidNow (modPort (modPort s 2 (fun q => { q with lines := lines })) 2 (fun q => { q with invalid := q.invalid + 1 }))) := by
  simp [hallEdgeEff, on, long.not_gt, hk]

end Hall

/-- R260: a port in service without an edge for its timeout stands still. -/
theorem encStandstillEff_idle {p : Fin 3} {s : State} {t : Nat} (on : portOn s p = true) (hl : s.axis.ports[p].last = some t)
    (idle : t + portTimeout s p ≤ s.time.now) : encStandstillEff p s = modPort s p (fun x => { x with standstill := true }) := by
  simp only [encStandstillEff, hl, on, idle, decide_true, Bool.and_self, if_true]

/-- Settles O49: each kind of transition has its law; the sense of a count is `along_iff_edgeCount`. -/
theorem portsCountEdges : Obligations.Ports_count_edges := by
  unfold Obligations.Ports_count_edges
  intro dt held p q s u hs hu hq
  subst hu
  obtain rfl : q = encPort p := Fin.ext hq
  refine ⟨fun line on short => ?_, fun on long alone lines v hl hv => ?_, fun on long alone lines v hl hv => ?_,
    fun on enabled long back => ?_, fun on enabled long active ready ungated silent => ?_, fun lines k on long hk previous => ?_,
    fun lines on long unsectored => ?_, fun q t on hl idle => ?_⟩
  · exact exec_closes rfl hs (encEdgeEff_glitch line on short)
  · subst hl hv
    exact ⟨_, edgeCount_unit _ _ _, along_iff_edgeCount _ _ _, exec_closes rfl hs (encEdgeEff_counts .a on long alone rfl)⟩
  · subst hl hv
    exact ⟨_, edgeCount_unit _ _ _, along_iff_edgeCount _ _ _, exec_closes rfl hs (encEdgeEff_counts .b on long alone rfl)⟩
  · exact exec_closes rfl hs (encZEff_unrecorded (encZEdge_inactive on enabled long back))
  · exact exec_closes rfl hs (encZEff_recorded (encZEdge_records on enabled long active ready ungated silent))
  · exact exec_closes rfl hs (hallEdgeEff_next on long hk previous)
  · exact ⟨_, exec_closes rfl hs (hallEdgeEff_invalid on long (by rcases unsectored with rfl | rfl <;> rfl))⟩
  · exact exec_closes rfl hs (encStandstillEff_idle on hl idle)

end Sys2Proof.Machine
end

section
/-!
PROOF. Family 10: edges at the trigger pins, the windows of the compare units and of the lattices, and the update points of the latch
units. What each does in the cases that the statement names is stated once about its effect; the statement follows by the runner's law.
-/

namespace Sys2Proof.Machine

/-! ### Trigger pins (R277, R278) -/

section Pins

variable {k : Fin 4} {s : State}

/-- R22, R302: a pin's mode comes from its registers and the park runs, not from what the pin has seen. -/
@[simp] theorem pinMode_modPin (s : State) (j k : Fin 4) (f : Pin → Pin) : pinMode (modPin s j f) k = pinMode s k := rfl

theorem modPin_modPin (s : State) (k : Fin 4) (f g : Pin → Pin) : modPin (modPin s k f) k g = modPin s k (fun p => g (f p)) := by
  simp [modPin, upd]

section Edge

variable {level : Bool} (change : s.pins.pins[k].level ≠ level) (input : pinMode s k = 2)
include change input

/-- R277: a change at an input that merges no edges is an accepted edge. -/
theorem tpEdgeEff_accepts (idle : s.pins.pins[k].merging = false) :
    tpEdgeEff k level s = acceptEdge k level s.time.now false (modPin s k (fun p => { p with level := level })) := by
  simp only [tpEdgeEff, change, input, pinMode_modPin, if_false, ne_eq, not_true_eq_false, idle, Bool.false_and]
  cases s.pins.pins[k].last <;> rfl

/-- R277: a change within 40 ns of the accepted edge is counted and reported, and triggers nothing. -/
theorem tpEdgeEff_merges {t : Nat} (merging : s.pins.pins[k].merging = true) (last : s.pins.pins[k].last = some t)
    (early : s.time.now < t + mergeLsb) : tpEdgeEff k level s =
      emitLim msLsb k (fun held => { source := 114, sev := .note, idx := k, payload := b1 k ++ cnt1 (held + 1) })
        (modPin s k (fun p => { p with level := level, suppressed := p.suppressed + 1 })) := by
  simp only [tpEdgeEff, change, input, last, merging, early, pinMode_modPin, modPin_time, modPin_modPin, if_false, ne_eq,
    not_true_eq_false, decide_true, Bool.and_self, if_true]

end Edge

/-- R277: at the end of the 40 ns an input whose level differs from the accepted one has an edge there, marked as merged. -/
theorem tpMergeEndEff_ends {t : Nat} (last : s.pins.pins[k].last = some t) (merging : s.pins.pins[k].merging = true)
    (elapsed : t + mergeLsb ≤ s.time.now) (input : pinMode s k = 2) : tpMergeEndEff k s =
      if s.pins.pins[k].level = s.pins.pins[k].lastLevel then modPin s k (fun p => { p with merging := false })
      else acceptEdge k s.pins.pins[k].level (t + mergeLsb) true (modPin s k (fun p => { p with merging := false })) := by
  simp only [tpMergeEndEff, last, merging, elapsed, input, pinMode_modPin, decide_true, Bool.and_self, if_true, true_and, ne_eq, ite_not]

/-- R278: an input at its stuck level for the whole of a nonzero stuck time is marked and reported once. -/
theorem pinStuckEff_reports {t : Nat} (input : pinMode s k = 2) (limit : regF s (pinBase k) 31 16 ≠ 0)
    (fresh : s.pins.pins[k].stuckDone = false) (stuck : s.pins.pins[k].lastLevel = regB s (pinBase k) 3)
    (still : s.pins.pins[k].level = s.pins.pins[k].lastLevel) (last : s.pins.pins[k].last = some t)
    (elapsed : t + regF s (pinBase k) 31 16 * 100 * usLsb ≤ s.time.now) : pinStuckEff k s =
      emit { source := 113, sev := .warning, idx := k, payload := b1 k ++ b1 (ofBool s.pins.pins[k].level) }
        (modPin s k (fun p => { p with stuck := true, stuckDone := true })) := by
  simp only [pinStuckEff, last]
  exact if_pos ⟨input, limit, by rw [fresh]; rfl, stuck, still, elapsed⟩

end Pins

/-! ### Windows (R279, R282, R296) -/

/-- R22, R279: the first window of an armed unit is solved once its trajectory is there. -/
theorem compareWindowEff_first {i : Fin 16} {s v : State} {a : CmpArm} {b : Binding} {ts : T64} {w : Window}
    (armed : s.pins.cmp[i].arm = some a) (bound : s.axis.slots[a.slot].bind = some b) (sample : lastSample s a.slot = some ts)
    (first : s.pins.cmp[i].window = none) (inService : isolated s (.compare i) = false)
    (ready : windowReady s a.slot b a.measured ts = true) (cubic : windowAt a.slot b a.measured ts s = (w, v)) :
    compareWindowEff i s = cmpSolve i a b w v := by
  simp only [compareWindowEff, armed, bound, sample, first, inService, ready, cubic, Bool.not_true, Bool.or_false, Bool.false_eq_true,
    if_false]

/-- R22, R296: the dots of a window are solved at every output of an armed lattice whose direction is known. -/
theorem latticeWindowEff_decided {n : Fin 4} {s : State} {c : LtcCfg} {w : Window} (cfg : s.pins.ltc[n].cfg = some c)
    (poly : s.pins.ltc[n].poly = some w) (armed : ltcArmed s.pins.ltc[n] = true) (inService : isolated s (.lattice n) = false)
    (decided : s.pins.ltc[n].undecided = false) : latticeWindowEff n s = passDone n (modLtc
      ((ltcOuts c).foldl (windowOut n c w (landingPoly (windowPoly w) c.tFlight))
        (modLtc s n (fun l => { l with poly := none, lastPoly := some w }))) n (fun l => { l with fresh := false })) := by
  simp only [latticeWindowEff, cfg, poly, armed, inService, decided, Bool.not_true, Bool.or_false, Bool.false_and, Bool.false_eq_true,
    if_false]

/-! ### Latch units (R289, R290, R292) -/

section Latches

variable {f : InFlight} {s : State}

/-- R5, R292: the arming that a unit had until an instant joins the old ones that a T32 still reaches. -/
def retireArm (at' now : Nat) (l : Latch) : Latch :=
  { l with old := l.arm.toList.map (fun x => (x, at')) ++ l.old.filter (fun x => decide (now < x.2 + 2 ^ 31)) }

/-- R289: what a LATCH_ARM that no state refuses makes of its unit: a disarm ends the arming, any other sets its own. -/
def takeArm (p : BitVec 384) (a : LatArm) (l : Latch) : Latch :=
  if pU p 20 1 = 2 then { l with arm := none }
  else { l with arm := some a, source := a.source, reref := a.reref, slot := a.slot, dom := domCode a.dom }

/-- R289, R292: a LATCH_ARM that no state refuses retires the unit's arming, sets its own and completes at the update point. -/
theorem latchNow_arms {at' : Nat} (granted : firstFail (latchState f s) = none) : latchNow f at' s =
    completeOk f.id (some ⟨.d0, BitVec.ofNat 64 at'⟩)
      (modLat (modLat s (latchT f) (retireArm at' s.time.now)) (latchT f) (takeArm f.payload (latArmOf f.payload at'))) := by
  simp only [latchNow, granted]
  rfl

/-- R97: what is ready at an update point passes the test that picked it. -/
theorem readyAt_picks {at' : Int} {p : InFlight → Bool} (h : f ∈ readyAt s at' p) : p f = true := by
  simp only [readyAt, List.mem_filter, Bool.and_eq_true] at h
  obtain ⟨_, _, picked⟩ := h
  exact picked

/-- R290: a LATCH_ARM that is ready at an update point of a unit arms that unit. -/
theorem latchT_of_ready {i : Fin 16} {at' : Int} (only : readyAt s at' (fun f => f.opcode == 0x41 && latchT f == i) = [f]) :
    latchT f = i := by
  have picked := readyAt_picks (only ▸ List.mem_singleton_self f)
  simp only [Bool.and_eq_true, beq_iff_eq] at picked
  exact picked.2

/-- R290: the only LATCH_ARM ready at the last update point of its unit takes effect there. -/
theorem latchUpdateEff_only {i : Fin 16} {at' : Nat} (point : at' = s.time.now / 16000 * 16000)
    (only : readyAt s at' (fun f => f.opcode == 0x41 && latchT f == i) = [f]) (alone : f.group = none)
    (flying : flightOf s f.id = some f) : latchUpdateEff i s = latchNow f at' s := by
  subst point
  rw [latchUpdateEff, only, takeAll, takeAllN_ungrouped _ _ _ (List.forall_mem_singleton.mpr alone)]
  simp [takeOne, flying]

end Latches

/-- Settles O50: each edge, window and update point has its law; a LATCH_ARM that is ready is one of the point's unit
(`latchT_of_ready`). -/
theorem pinsAndWindows : Obligations.Pins_and_windows := by
  unfold Obligations.Pins_and_windows
  intro dt k s u v hs hu
  subst hu
  refine ⟨fun level change input idle => ?_, fun level t change input merging last early hv => ?_,
    fun t last merging elapsed input hv => ?_, fun t input limit fresh stuck still last elapsed => ?_,
    fun i a b ts w armed bound sample first inService ready cubic => ?_, fun n c w cfg poly armed inService decided => ?_,
    fun i f t a point only alone flying granted ha hv => ?_⟩
  · exact exec_closes rfl hs (tpEdgeEff_accepts change input idle)
  · subst hv
    exact exec_closes rfl hs (tpEdgeEff_merges change input merging last early)
  · subst hv
    exact exec_closes rfl hs (tpMergeEndEff_ends last merging elapsed input)
  · exact exec_closes rfl hs (pinStuckEff_reports input limit fresh stuck still last elapsed)
  · exact exec_closes rfl hs (compareWindowEff_first armed bound sample first inService ready cubic)
  · exact exec_closes rfl hs (latticeWindowEff_decided cfg poly armed inService decided)
  · obtain rfl := latchT_of_ready only
    subst ha hv
    exact exec_closes rfl hs ((latchUpdateEff_only point only alone flying).trans (latchNow_arms granted))

end Sys2Proof.Machine
end

section
/-!
PROOF. Family 11: the descriptors of the links and of the ring at the service port, and the cyclic exchange of the signature links.
What each does in the cases that the statements name is stated once about its operation.
-/

namespace Sys2Proof.Machine

/-! ### Descriptors without an apply time (R82, R89, R90) -/

section Untimed

variable {f : InFlight} {s w : State} {cls count : Nat}

/-- R89: an opcode that permits no apply time acts at acceptance. -/
theorem isImmediate_of_untimed (h : opInfo f.opcode.toNat = some (cls, count, false)) : isImmediate f s = true := by
  unfold isImmediate
  split
  case h_1 code | h_2 code | h_3 code | h_4 code | h_5 code => simp [code, opInfo] at h
  case h_6 => rfl
  case h_7 => simp [h]

/-- R82, R89: a descriptor whose opcode permits no apply time is carried out as it is submitted. -/
theorem svcDescEff_of_untimed {op : Nat} (d : Desc) (h : op < 2 ^ 8) (untimed : opInfo op = some (cls, count, false))
    (ht : svcTakes (rawOf op d) (frameBegin s) = true) (hfw : (f, w) = svcFlight (rawOf op d) (frameBegin s))
    (hp : passes (rawOf op d) (frameBegin s) = true) :
    f.opcode.toNat = op ∧ svcDescEff (rawOf op d) s = svcDone (opNow tunnelServer f w) := by
  have code : f.opcode.toNat = op := by
    rw [show f = (svcFlight (rawOf op d) (frameBegin s)).1 from congrArg Prod.fst hfw, opcode_svcFlight_rawOf d h]
  have other : f.opcode ≠ 0x70#8 := fun e => by
    rw [← code, e] at untimed
    exact absurd untimed (by simp [opInfo])
  have acts := svcDescEff_acts (rawOf op d) s _ rfl ht hp
  rw [← hfw] at acts
  exact ⟨code, acts (isImmediate_of_untimed (by rwa [code])) other⟩

end Untimed

/-! ### Link and ring descriptors (R329, R335, R371, R383) -/

section NetworkDescriptors

variable {f : InFlight} {s : State} {serve : BitVec 16 → List RawDesc → State → State}

theorem opNow_siglinkXfer (h : f.opcode.toNat = 0x68) :
    opNow serve f s = xferNow f (modFlight s f.id (fun x => { x with due := .running })) := by simp only [opNow, h]

theorem opNow_endpointBind (h : f.opcode.toNat = 0x69) : opNow serve f s = bindNow f s := by simp only [opNow, h]

theorem opNow_ringMembers (h : f.opcode.toNat = 0x78) : opNow serve f s = membersNow f s := by simp only [opNow, h]

theorem opNow_tunnel (h : f.opcode.toNat = 0x7A) : opNow serve f s = tunnelNow serve f s := by simp only [opNow, h]

/-- R329: the action byte of an ENDPOINT_BIND is the one set. -/
theorem pU_forceByte_16 (p : BitVec 384) {v : Nat} (h : v < 2 ^ 8) : pU (forceByte p 16 v) 16 1 = v := by
  have fits := p.isLt
  simp only [pU, forceByte, putBits, bits, BitVec.toNat_ofNat]
  omega

theorem action_svcFlight_withSub {op v : Nat} {w : State} (d : Desc) (h : op < 2 ^ 8) (hv : v < 2 ^ 8)
    (hfw : (f, w) = svcFlight (rawOf op (withSub 16 v d)) s) : pU f.payload 16 1 = v := by
  rw [show f = (svcFlight (rawOf op (withSub 16 v d)) s).1 from congrArg Prod.fst hfw, payload_svcFlight_rawOf _ h]
  exact pU_forceByte_16 _ hv

theorem bindNow_binds {v : State} (h : pU f.payload 16 1 = 0)
    (hv : v = modEp s (epT f) (fun x => { x with bind := some (epBindOf f.payload) })) :
    bindNow f s = complete f.id stOK (ofBool (epPresent v (epT f))) 0 (some (nowStamp v)) v := by
  subst hv
  exact if_pos h

theorem bindNow_unbinds {v : State} (h : pU f.payload 16 1 ≠ 0) (hv : v = stopCyclic (epT f) (dropXfers (epT f) s)) :
    bindNow f s = completeOk f.id (some (nowStamp v)) (modEp v (epT f) (fun x => { x with bind := none })) := by
  subst hv
  exact if_neg h

/-- R383, R384: the request to another member leaves in frames. -/
theorem tunnelNow_leaves {v : State} (h : tunnelDst f ≠ s.norrak.position)
    (hv : v = takesEffect f.id (nowStamp s) (modNk s (fun k => { k with
      nextTunnel := k.nextTunnel + 1
      tunnels := k.tunnels ++ [{ desc := f.id, ident := k.nextTunnel, dst := tunnelDst f, count := pU f.payload 24 1
                                 cplBuf := BitVec.ofNat 64 (pU f.payload 28 8)
                                 dataBuf := BitVec.ofNat 64 (pU f.payload 36 8), dataLen := pU f.payload 44 4 }] }))) :
    tunnelNow serve f s = tunnelFrames 0x18 (tunnelDst f) s.norrak.nextTunnel
      (f.buf.data.take (64 * pU f.payload 24 1 + pU f.payload 44 4)) v := by
  subst hv
  exact if_neg h

end NetworkDescriptors

/-! ### The member list (R371, R373, R376) -/

section Members

variable {s : State}

theorem OnlyHappening.norrak {s t : State} (h : OnlyHappening s t) : t.norrak = s.norrak := by
  obtain ⟨q, f, rfl, -⟩ := h
  rfl

@[simp] theorem emit_norrak (h : Hap) (s : State) : (emit h s).norrak = s.norrak := (emit_happening h s).norrak

@[simp] theorem complete_norrak (id status : Nat) (result detail : Int) (applied : Option Stamp) (s : State) :
    (complete id status result detail applied s).norrak = s.norrak := by
  unfold complete
  split <;> rfl

@[simp] theorem setDom_norrak (s : State) (d : Dom) (f : Domain → Domain) : (setDom s d f).norrak = s.norrak := rfl

@[simp] theorem setDomState_norrak (d : Dom) (st : DomState) (s : State) : (setDomState d st s).norrak = s.norrak := by
  unfold setDomState
  dsimp only
  split_ifs <;> simp

@[simp] theorem endSlew_norrak (d : Dom) (s : State) : (endSlew d s).norrak = s.norrak := by
  unfold endSlew slewEnded
  cases runningSlew s d <;> dsimp only <;> split <;> simp

@[simp] theorem freeDom_norrak (d : Dom) (s : State) : (freeDom d s).norrak = s.norrak := by
  unfold freeDom
  dsimp only
  split <;> simp

/-- R49: the discipline of a domain is no part of the ring. -/
@[simp] theorem reDiscipline_norrak (d : Dom) (was : Bool) (s : State) : (reDiscipline d was s).norrak = s.norrak := by
  unfold reDiscipline
  dsimp only
  split
  · split <;> simp
  · split <;> simp

@[simp] theorem setRing_members (st : RingState) (s : State) : (setRing st s).norrak.members = s.norrak.members := by
  unfold setRing
  dsimp only
  split
  · rfl
  · rw [emit_norrak]
    rfl

/-- R376: a partition forgets who has been heard. -/
theorem partition_members (tp : T64) (s : State) :
    (partition tp s).norrak.members = s.norrak.members.map (fun m => { m with seen := false }) := by
  have dropped : ∀ t, (dropPending tp t).norrak.members = t.norrak.members := fun _ => rfl
  simp only [partition, dropped, setRing_members, emit_norrak]
  rfl

/-- R373, R376: the ring state follows without a change of a member list of which nobody has been heard. -/
theorem settleRing_members (tp : T64) (unheard : ∀ m ∈ s.norrak.members, m.seen = false) :
    (settleRing tp s).norrak.members = s.norrak.members := by
  have forgotten : s.norrak.members.map (fun m => { m with seen := false }) = s.norrak.members := by
    refine (List.map_congr_left fun m hm => ?_).trans (List.map_id _)
    show { m with seen := false } = m
    rw [← unheard m hm]
  unfold settleRing
  dsimp only
  split
  · split_ifs <;> simp
  · split_ifs <;> simp [partition_members, forgotten]
  · split_ifs <;> simp [partition_members, forgotten]
  · simp

/-- R371: nobody of a new list has been heard. -/
theorem listOf_unheard (f : InFlight) : ∀ m ∈ listOf f, m.seen = false := by
  intro m hm
  obtain ⟨_, _, rfl⟩ := List.mem_map.mp hm
  rfl

/-- R371: the list of a RING_MEMBERS replaces the one before. -/
theorem membersNow_members (f : InFlight) (s : State) : (membersNow f s).norrak.members = listOf f := by
  have listed {t : State} (h : t.norrak.members = listOf f) (tp : T64) : (settleRing tp t).norrak.members = listOf f :=
    (settleRing_members tp (h ▸ listOf_unheard f)).trans h
  refine listed ?_ _
  rw [completeOk, complete_norrak, reDiscipline_norrak]
  rfl

end Members

/-- Settles O40: each row submits its descriptor, which acts at acceptance by its opcode (`svcDescEff_of_untimed`), a bind or an unbind by
its action byte; the list in force is `membersNow_members`. -/
theorem networkDescriptorsTakeEffect : Obligations.Network_descriptors_take_effect := by
  unfold Obligations.Network_descriptors_take_effect
  intro dt d r s u b w f hs hu hb ht hfw hp
  subst hu hb
  refine ⟨fun hr v hv => ?_, fun hr v hv => ?_, fun hr v hv => ?_, fun hr => ?_, membersNow_members, fun hr away v hv => ?_⟩ <;> subst hr
  · obtain ⟨code, acts⟩ := svcDescEff_of_untimed d (by decide) rfl ht hfw hp
    rw [opNow_siglinkXfer code, ← hv] at acts
    exact exec_closes rfl hs acts
  · obtain ⟨code, acts⟩ := svcDescEff_of_untimed _ (by decide) rfl ht hfw hp
    rw [opNow_endpointBind code, bindNow_binds (action_svcFlight_withSub d (by decide) (by decide) hfw) hv] at acts
    exact exec_closes rfl hs acts
  · obtain ⟨code, acts⟩ := svcDescEff_of_untimed _ (by decide) rfl ht hfw hp
    have unbinds := action_svcFlight_withSub d (by decide) (by decide) hfw
    rw [opNow_endpointBind code, bindNow_unbinds (by simp [unbinds]) hv] at acts
    exact exec_closes rfl hs acts
  · obtain ⟨code, acts⟩ := svcDescEff_of_untimed d (by decide) rfl ht hfw hp
    rw [opNow_ringMembers code] at acts
    exact exec_closes rfl hs acts
  · obtain ⟨code, acts⟩ := svcDescEff_of_untimed d (by decide) rfl ht hfw hp
    rw [opNow_tunnel code, tunnelNow_leaves away hv] at acts
    exact exec_closes rfl hs acts

/-! ### Discovery (R331, R346) -/

section Discovery

variable {e : Fin 12} {s : State}

/-- R331, R346: a poll while nothing is queued: a select that has left the last one unanswered is absent, and this one awaits its answer. -/
theorem identPollEff_polls (due : pollDue s e = true) (inService : isolated s (.select e) = false)
    (idle : s.link.links[epLink e].queue = []) (gap : gapFits s (epLink e) (wordCycles 16 0 8 2) = true) :
    identPollEff e s = { modEp s e (fun x => { pollMissed x with lastPoll := some s.time.now, answered := false }) with
      out := s.out ++ [.xfer (epLink e) e [0x9F]] } := by
  simp only [identPollEff, due, inService, idle, gap, List.find?_nil, Bool.not_false, Bool.and_self, if_true, modEp_out]

/-- R346: a select whose last poll has had no answer is absent. -/
theorem pollMissed_absent {x : Endpoint} (polled : x.lastPoll.isSome = true) (silent : x.answered = false) :
    (pollMissed x).state = .absent := by
  simp [pollMissed, polled, silent]

/-- R114, R468: whether anything follows a command depends on no link and on nothing sent, so that a quiet close leaves an endpoint as
the command made it. -/
theorem closing_endpoint (still : quiet s = true) (r : State) (e : Fin 12) (f : Endpoint → Endpoint) (o : List Output) :
    (closing r { modEp s e f with out := o }).link.eps[e] = f s.link.eps[e] := by
  have quietAfter : quiet { modEp s e f with out := o } = true := still
  rw [quietCloseChangesNothing r _ quietAfter, bumpSeqs_link]
  exact upd_same s.link.eps e f

/-- In full service link 0 is on, its select 0 has answered once, and the poll at the start of time has had no answer. -/
def unansweredPoll : State :=
  modEp (setReg (modChip State.reset (fun c => { c with fullService := true })) (linkBase 0) 0x701) 0
    (fun x => { x with state := .answering, lastPoll := some 0, answered := false })

end Discovery

/-- Refutes O51: a millisecond after a poll without an answer the next one leaves; the select is absent from there on (R346), where the
statement changes nothing of it but the instant of the poll. -/
theorem not_linksExchangeSignatures : ¬ Obligations.Links_exchange_signatures := by
  unfold Obligations.Links_exchange_signatures
  intro h
  have outOfReset : unansweredPoll.life.inReset = false := rfl
  have due : pollDue (begin msLsb unansweredPoll) 0 = true := by decide +kernel
  have inService : isolated (begin msLsb unansweredPoll) (.select 0) = false := by decide +kernel
  have gap : gapFits (begin msLsb unansweredPoll) (epLink 0) (wordCycles 16 0 8 2) = true := by decide +kernel
  have still : quiet (begin msLsb unansweredPoll) = true := by decide +kernel
  obtain ⟨-, -, polls, -⟩ := h msLsb .pcie 0 unansweredPoll _ unansweredPoll outOfReset rfl
  have stated := polls due rfl gap
  rw [exec_closes rfl outOfReset (identPollEff_polls due inService rfl gap)] at stated
  have same := congrArg (fun t : State => t.link.eps[(0 : Fin 12)]) (Host.Outcome.next.inj stated)
  have selects := (closing_endpoint still _ 0 _ _).symm.trans (same.trans (closing_endpoint still _ 0 _ _))
  have states := congrArg Endpoint.state selects
  exact absurd ((pollMissed_absent rfl rfl).symm.trans states) (by decide)

end Sys2Proof.Machine
end

section
/-!
PROOF. Family 12: the trips, the forces, the dead times and the reloads of the local power outputs. What each does in the cases that
the statement names is stated once about its effect; the statement follows by the runner's law.
-/

namespace Sys2Proof.Machine

/-! ### The power block (R348, R357) -/

theorem OnlyHappening.power {s t : State} (h : OnlyHappening s t) : t.power = s.power := by
  obtain ⟨q, f, rfl, -⟩ := h
  rfl

@[simp] theorem emit_power (h : Hap) (s : State) : (emit h s).power = s.power := (emit_happening h s).power

theorem modPower_power_congr {s w : State} (h : s.power = w.power) (f : PowerSt → PowerSt) :
    (modPower s f).power = (modPower w f).power :=
  congrArg f h

theorem modCh_congr {s : State} {c : Fin 3} {f g : Channel → Channel} (h : f s.power.ch[c] = g s.power.ch[c]) :
    modCh s c f = modCh s c g := by
  rw [modCh, modCh, modPower, modPower, upd_congr h]

theorem modCh_fixed {s : State} {c : Fin 3} {f : Channel → Channel} (h : f s.power.ch[c] = s.power.ch[c]) : modCh s c f = s := by
  rw [modCh, modPower, upd_self _ _ h]

theorem modTrip_fixed {s : State} {t : Fin 2} {f : TripSt → TripSt} (h : f s.power.trips[t] = s.power.trips[t]) : modTrip s t f = s := by
  rw [modTrip, modPower, upd_self _ _ h]

theorem modTrip_congr {s : State} {t : Fin 2} {f g : TripSt → TripSt} (h : f s.power.trips[t] = g s.power.trips[t]) :
    modTrip s t f = modTrip s t g := by
  rw [modTrip, modTrip, modPower, modPower, upd_congr h]

theorem modTrip_modTrip (s : State) (t : Fin 2) (f g : TripSt → TripSt) :
    modTrip (modTrip s t f) t g = modTrip s t (fun x => g (f x)) := by
  simp [modTrip, modPower, upd]

/-- What a part shows is changed once by a fold over all the parts, if each step changes what its own part shows and no other's. -/
theorem foldl_finRange_sees {α : Type} {n : Nat} {f : State → Fin n → State} {see : Fin n → State → α} {g : Fin n → α → α}
    (own : ∀ s i, see i (f s i) = g i (see i s)) (other : ∀ s i k, k ≠ i → see k (f s i) = see k s) (s : State) (k : Fin n) :
    see k ((List.finRange n).foldl f s) = g k (see k s) := by
  have unseen : ∀ (l : List (Fin n)) (s : State), k ∉ l → see k (l.foldl f s) = see k s := fun l s absent =>
    List.foldlRecOn l f (motive := fun w => see k w = see k s) rfl
      (fun w same i mem => (other w i k (fun e => absent (e ▸ mem))).trans same)
  obtain ⟨before, after, split⟩ := List.append_of_mem (List.mem_finRange k)
  have once : (before ++ k :: after).Nodup := split ▸ List.nodup_finRange n
  rw [List.nodup_middle, List.nodup_cons, List.mem_append, not_or] at once
  obtain ⟨⟨notBefore, notAfter⟩, -⟩ := once
  rw [split, List.foldl_append, List.foldl_cons, unseen after _ notAfter, own, unseen before s notBefore]

/-! ### Trips (R357) -/

section Trips

variable {t : Fin 2} {s : State}

@[simp] theorem regB_modTrip (s : State) (k : Fin 2) (f : TripSt → TripSt) (o i : Nat) : regB (modTrip s k f) o i = regB s o i := rfl

/-- R357: the blanking windows come from the set-up and the gates, not from the records of the trips. -/
@[simp] theorem blankUntil_modTrip (s : State) (k t : Fin 2) (f : TripSt → TripSt) : blankUntil (modTrip s k f) t = blankUntil s t := rfl

/-- R357: a trip that is not enabled notes its input only. -/
theorem tripEff_disabled (off : regB s (0x9020 + 4 * t) 7 = false) : tripEff t s = modTrip s t (fun x => { x with active := true }) :=
  if_pos (by rw [regB_modTrip, off]; rfl)

/-- R357: an enabled trip acts at once outside the blanking windows of its gates. -/
theorem tripEff_acts (on : regB s (0x9020 + 4 * t) 7 = true) (unblanked : blankUntil s t = none) :
    tripEff t s = tripActs t s.time.now (modTrip s t (fun x => { x with active := true })) := by
  simp only [tripEff, regB_modTrip, blankUntil_modTrip, on, unblanked, Bool.not_true, Bool.false_eq_true, if_false, modTrip_time]

/-- R357: inside a blanking window an enabled trip waits for its close. -/
theorem tripEff_waits {e : Nat} (on : regB s (0x9020 + 4 * t) 7 = true) (blanked : blankUntil s t = some e) :
    tripEff t s = modTrip (modTrip s t (fun x => { x with active := true })) t
      (fun x => { x with waiting := some s.time.now, blankEnd := some e }) := by
  simp only [tripEff, regB_modTrip, blankUntil_modTrip, on, blanked, Bool.not_true, Bool.false_eq_true, if_false, modTrip_time]

/-- R357: at the close of its blanking window a trip acts if its input is still active. -/
theorem blankEndEff_closes {stamp e : Nat} (active : Bool) (waits : s.power.trips[t].waiting = some stamp)
    (window : s.power.trips[t].blankEnd = some e) (closed : e ≤ s.time.now) : blankEndEff t active s =
      let w := modTrip s t (fun x => { x with active := active, waiting := none, blankEnd := none })
      if active then tripActs t stamp w else w := by
  simp only [blankEndEff, waits, window, Nat.not_lt.mpr closed, if_false]

/-- R357: what a trip that acts makes of its record; `cycle` is its cycle mode. -/
def actTrip (cycle : Bool) (x : TripSt) : TripSt :=
  { x with holding := true, latched := x.latched || !cycle, waiting := none, clearing := false }

/-- R357: a trip that acts takes its gates low; of the power block it changes its own record and the count of trips. -/
theorem tripActs_power (t : Fin 2) (stamp : Nat) (s : State) : (tripActs t stamp s).power =
    { s.power with trips := upd s.power.trips t (actTrip (regB s (0x9020 + 4 * t) 6)), tripCount := satU 16 (s.power.tripCount + 1) } := by
  simp only [tripActs, emit_power]
  let acted := modTrip s t (actTrip (regB s (0x9020 + 4 * t) 6))
  refine modPower_power_congr (w := acted) ?_ _
  refine List.foldlRecOn _ _ (motive := fun w : State => w.power = acted.power) rfl (fun w same g _ => ?_)
  split
  · exact same
  · exact same

/-- R357: what a write of POWER_TRIP_STATUS makes of a trip, from the bit written and the level of its input. -/
def writeTrip (clear active : Bool) (x : TripSt) : TripSt :=
  { x with active := active, latched := x.latched && !(clear && !active), clearing := x.clearing || clear && (x.latched && !active) }

theorem bit_toNat {w : Nat} (x : BitVec w) (i : Nat) : bit x.toNat i = x.getLsbD i := by
  rw [bit, BitVec.getLsbD, Nat.testBit_eq_decide_div_mod_eq, Bool.beq_eq_decide_eq]

theorem clearTrip_writes (t : Fin 2) (active : Bool) (s : State) : clearTrip t active s = modTrip s t (writeTrip true active) := by
  cases active with
  | true =>
    simp only [clearTrip, Bool.not_true, Bool.and_false, Bool.false_eq_true, if_false]
    exact modTrip_congr (by simp [writeTrip])
  | false =>
    simp only [clearTrip, modTrip_same, modTrip_modTrip, Bool.not_false, Bool.and_true]
    cases latched : s.power.trips[t].latched
    · exact modTrip_congr (by simp [writeTrip, latched, -Fin.getElem_fin])
    · exact modTrip_congr (by simp [writeTrip, latched, -Fin.getElem_fin])

/-- R357: a write of POWER_TRIP_STATUS writes every trip. -/
theorem tripClearEff_trips (value : Word) (active : BitVec 2) (s : State) (k : Fin 2) :
    (tripClearEff value active s).power.trips[k] = writeTrip (bit value.toNat k) (active.getLsbD k) s.power.trips[k] := by
  have writes : ∀ (s : State) (t : Fin 2),
      (if bit value.toNat t then clearTrip t (active.getLsbD t) s else modTrip s t (fun x => { x with active := active.getLsbD t }))
        = modTrip s t (writeTrip (bit value.toNat t) (active.getLsbD t)) := fun s t => by
    cases bit value.toNat t
    · exact modTrip_congr (by simp [writeTrip])
    · exact clearTrip_writes t _ s
  simp only [tripClearEff, writes]
  exact foldl_finRange_sees (see := fun k s => s.power.trips[k]) (g := fun t => writeTrip (bit value.toNat t) (active.getLsbD t))
    (fun s i => modTrip_same s i _) (fun s i k other => modTrip_other s i k _ other) s k

/-- R357: a reload leaves the trips alone that hold no gate, await no clear and whose input it finds as it was. -/
theorem resumeTrips_idle {inputs : BitVec 2} (idle : ∀ t : Fin 2, s.power.trips[t].active = inputs.getLsbD t
    ∧ s.power.trips[t].clearing = false ∧ s.power.trips[t].holding = false) : resumeTrips inputs s = s := by
  refine List.foldl_fixed' (fun t => ?_) _
  obtain ⟨level, clearing, holding⟩ := idle t
  have same : modTrip s t (fun x => { x with active := inputs.getLsbD t }) = s := modTrip_fixed (by rw [← level])
  simp only [same, clearing, holding, Bool.false_and, Bool.false_eq_true, if_false]

end Trips

/-! ### Forces (R358) -/

/-- R358: the codes that a word of POWER_FORCE has for the gates of a channel. -/
def highCode (value : Word) (c : Fin 3) : Nat := bits value.toNat (4 * c + 1) (4 * c)
def lowCode (value : Word) (c : Fin 3) : Nat := bits value.toNat (4 * c + 3) (4 * c + 2)

/-- R352, R358: the shadow write by which a word of POWER_FORCE reaches a channel. -/
def forceWrite (value : Word) (now : Nat) (c : Fin 3) : ShadowWrite :=
  { stamp := now, forceH := some (forceOf (highCode value c)), forceL := some (forceOf (lowCode value c)) }

/-- R352, R358: the codes of a channel written to POWER_FORCE and to the channel's shadow. -/
def writeForce (value : Word) (s : State) (c : Fin 3) : State :=
  let high := putBits (reg s 0x9008) (4 * c + 1) (4 * c) (highCode value c)
  modCh (setReg s 0x9008 (putBits high (4 * c + 3) (4 * c + 2) (lowCode value c))) c
    (fun ch => { ch with shadow := ch.shadow ++ [forceWrite value s.time.now c] })

/-- R358: a write of POWER_FORCE without codes 2 and 3 writes the codes of every channel. -/
theorem powerForceWriteEff_plain {value : Word} (plain : ∀ c : Fin 3, highCode value c < 2 ∧ lowCode value c < 2) (s : State) :
    powerForceWriteEff value s = (List.finRange 3).foldl (writeForce value) s := by
  refine congrArg (fun f => (List.finRange 3).foldl f s) (funext₂ fun s c => ?_)
  obtain ⟨high, low⟩ := plain c
  have high3 : bits value.toNat (4 * c + 1) (4 * c) ≠ 3 := (Nat.lt_succ_of_lt high).ne
  have low3 : bits value.toNat (4 * c + 2 + 1) (4 * c + 2) ≠ 3 := (Nat.lt_succ_of_lt low).ne
  have both : ¬ (bits value.toNat (4 * c + 1) (4 * c) = 2 ∧ bits value.toNat (4 * c + 2 + 1) (4 * c + 2) = 2) := fun h => high.ne h.1
  simp only [high3, low3, both, if_false]
  rfl

/-- R352: each channel's shadow gets one write, stamped at the write of the register. -/
theorem foldl_writeForce_shadow (value : Word) (s : State) (k : Fin 3) :
    ((List.finRange 3).foldl (writeForce value) s).power.ch[k].shadow
      = s.power.ch[k].shadow ++ [forceWrite value s.time.now k] := by
  have sees := foldl_finRange_sees (f := writeForce value) (see := fun k s => (s.power.ch[k].shadow, s.time.now))
    (g := fun k x => (x.1 ++ [forceWrite value x.2 k], x.2))
    (fun s i => by simp only [writeForce, modCh_same, modCh_time, setReg_power, setReg_time])
    (fun s i k other => by simp only [writeForce, modCh_other _ _ _ _ other, modCh_time, setReg_power, setReg_time]) s k
  exact congrArg Prod.fst sees

/-! ### Dead times (R355) -/

section DeadTimes

variable {c : Fin 3} {s : State}

/-- R355: without adaptation a crossing leaves the dead time at dt_init. -/
theorem swnCrossingEff_fixed (off : regB s (chBase c + 0x0C) 30 = false) : swnCrossingEff c .lh s =
    modCh s c (fun ch => { ch with lh := { ch.lh with tOff := none, d := regF s (chBase c + 0x0C) 29 20 } }) := by
  simp only [swnCrossingEff, off, Bool.not_false, if_true]
  exact modCh_congr rfl

/-- R355: a crossing within the dead time after its turn-off edge adds a sample; fewer than eight move nothing. -/
theorem swnCrossingEff_samples {off : Nat} (adapts : regB s (chBase c + 0x0C) 30 = true) (edge : s.power.ch[c].hl.tOff = some off)
    (after : off ≤ s.time.now) (inTime : s.time.now ≤ off + dtLsb s.power.ch[c].hl) (few : s.power.ch[c].hl.samples.length < 7) :
    swnCrossingEff c .hl s = modCh s c (fun ch => { ch with
      hl := { ch.hl with tOff := none, without := 0, samples := ch.hl.samples ++ [s.time.now - off] } }) := by
  have taken : ¬ (s.time.now < off ∨ off + dtLsb s.power.ch[c].hl < s.time.now) := by omega
  have fewer : (s.power.ch[c].hl.samples ++ [s.time.now - off]).length < 8 := by
    rw [List.length_append, List.length_singleton]
    omega
  simp only [swnCrossingEff, adapts, edge, taken, fewer, Bool.not_true, Bool.false_eq_true, if_false, if_true]
  exact modCh_congr rfl

end DeadTimes

/-! ### Reloads (R349, R356) -/

/-- R349: the instant of the last reload that the carrier of a channel was due for. -/
def reloadInstant (s : State) (c : Fin 3) : T64 :=
  BitVec.ofInt 64 ((domNow s (powDom s)).toNat
    - ((domNow s (powDom s)).toNat - chPhase s c : Int) % (max 1 (chPeriod s c) : Nat))

/-- R349, R356: a channel's first reload with nothing to take from the shadow, from a descriptor, from a trip or from the Hall port
starts the period. -/
theorem powerReloadEff_first {c : Fin 3} {inputs : BitVec 2} {s : State} (first : s.power.ch[c].last = none)
    (empty : s.power.ch[c].shadow = []) (idle : s.host.flight = []) (resumed : resumeTrips inputs s = s)
    (hall : s.power.hallLost = false) : powerReloadEff c inputs s = queuePeriod c (reloadInstant s c) (bootStep s c).2
      (modCh s c (fun ch => { ch with
        onPeriods := if (bootStep s c).1 then ch.onPeriods + 1 else 0, refreshing := (bootStep s c).2
        boots := if (bootStep s c).2 then ch.boots + 1 else ch.boots
        last := some (reloadInstant s c) })) := by
  have kept : modCh s c (fun ch => { ch with shadow := [] }) = s := modCh_fixed (by rw [← empty])
  have sorted : ∀ le : ShadowWrite → ShadowWrite → Bool, sortBy le [] = [] := fun _ => rfl
  simp only [powerReloadEff, first, empty, idle, List.filter_nil, List.flatMap_nil, List.append_nil, sorted, kept, List.foldl_nil,
    resumed, hall, Bool.false_and, Bool.not_true, Bool.false_eq_true, if_false]
  rfl

/-! ### Hall commutation (R361) -/

/-- R361: commutation is lost once the Hall state has been invalid for hall_hold: every gate goes low. -/
theorem hallHoldEff_loses {s : State} {at' : Nat} (invalid : s.power.invalidSince = some at') (mode : powMode s = 2)
    (held : s.power.hallLost = false) (elapsed : at' + max 1 (regF s 0x9000 19 16) * msLsb ≤ s.time.now) :
    ∃ pay, hallHoldEff s = emit { source := 150, sev := .fault, payload := pay }
      ((List.finRange 3).foldl (fun s c => gatesLow c s) (modPower s (fun p => { p with hallLost := true }))) := by
  simp only [hallHoldEff, invalid]
  exact ⟨_, if_pos ⟨mode, by rw [held]; exact Bool.false_ne_true, elapsed⟩⟩

/-- Settles O52: each trip, force, crossing and reload has its law; what becomes of one trip or of one channel's shadow is seen
through the fold over all of them (`foldl_finRange_sees`). -/
theorem powerOutputsReloadTripAndForce : Obligations.Power_outputs_reload_trip_and_force := by
  unfold Obligations.Power_outputs_reload_trip_and_force
  intro dt path c t s u v hs hu
  subst hu
  refine ⟨fun x hv on => ?_, fun off => ?_, fun stamp e waits window closed => ?_, fun w stamp => ?_, fun opened value active => ?_,
    fun opened value plain => ?_, fun at' invalid mode held elapsed => ?_, fun off => ?_, fun off adapts edge after inTime few => ?_,
    fun inputs into tr hinto htr first empty idle trips hall noInput full refresh boot => ?_⟩
  · subst hv
    exact ⟨fun unblanked => exec_closes rfl hs (tripEff_acts on unblanked),
      fun blanked => exec_closes rfl hs (tripEff_waits on blanked)⟩
  · exact exec_closes rfl hs (tripEff_disabled off)
  · exact ⟨exec_closes rfl hs (blankEndEff_closes true waits window closed),
      exec_closes rfl hs (blankEndEff_closes false waits window closed)⟩
  · rw [tripActs_power]
    exact ⟨congrArg TripSt.holding (upd_same _ t _), rfl, fun k other => upd_other _ _ k _ other⟩
  · refine ⟨_, exec_closes_gated rfl hs opened rfl, fun k => ?_⟩
    rw [tripClearEff_trips, bit_toNat]
    exact ⟨rfl, rfl⟩
  · exact ⟨_, exec_closes_gated rfl hs opened (powerForceWriteEff_plain plain _), foldl_writeForce_shadow value _⟩
  · obtain ⟨pay, loses⟩ := hallHoldEff_loses invalid mode held elapsed
    exact ⟨pay, exec_closes rfl hs loses⟩
  · exact exec_closes rfl hs (swnCrossingEff_fixed off)
  · exact exec_closes rfl hs (swnCrossingEff_samples adapts edge after inTime few)
  · subst hinto htr noInput
    have still := powerReloadEff_first first empty idle (resumeTrips_idle (inputs := 0) fun t => by rw [trips]; simp) hall
    rw [boot] at still
    exact exec_closes rfl hs still

end Sys2Proof.Machine
end

section
/-!
PROOF. Family 14: a step and its queue, what reset leaves, happenings and the FAULT region, FAULT_N as an invariant of every step, and the
chip resets.
-/

namespace Sys2Proof.Machine

/-! ### A step, and the state after reset (log 2, R486) -/

/-- Settles O1: by the definition of a step. -/
theorem stepRunsFrontCommand : Obligations.Step_runs_front_command := by
  unfold Obligations.Step_runs_front_command
  exact fun _ _ _ => rfl

/-- Settles O2: a step asks for the front of the queue first. -/
theorem stepIdlesOnEmptyQueue : Obligations.Step_idles_on_empty_queue := by
  unfold Obligations.Step_idles_on_empty_queue
  intro s empty
  rw [step, empty]

/-- Settles O3: the model's reset state, evaluated. -/
theorem resetStateValues : Obligations.Reset_state_values := by
  unfold Obligations.Reset_state_values
  have off : ∀ n : Fin 32, State.reset.axis.slots[n].mode = .off := by decide
  have idle : ∀ n : Fin 8, ringOn State.reset (sqBase n) = false := by decide
  exact ⟨rfl, rfl, rfl, rfl, rfl, rfl, rfl, off, idle, rfl, rfl, rfl⟩

/-! ### Happenings (R417, R466 to R479) -/

/-- Settles O9: what every part of raising a happening keeps (`emit_happening`). -/
theorem happeningsChangeOnlyTheFaultRegion : Obligations.Happenings_change_only_the_fault_region := by
  unfold Obligations.Happenings_change_only_the_fault_region
  intro h s
  obtain ⟨q, f, raised, causes, groups, low⟩ := emit_happening h s
  exact ⟨f, q, raised, causes, groups, low⟩

/-! ### FAULT_N stays what its conditions say (R468) -/

/-- FAULT_N and its conditions depend on these parts only. -/
theorem faultNSound_congr {s t : State} (low : t.fault.faultLow = s.fault.faultLow) (causes : t.fault.causes = s.fault.causes)
    (life : t.life = s.life) (ok : t.firebreak.selftestOk = s.firebreak.selftestOk) (regs : t.regs = s.regs) (axis : t.axis = s.axis) :
    faultNSound t = faultNSound s := by
  simp only [faultNSound, faultLowNow, regB, reg, low, causes, life, ok, regs, axis]

theorem OnlyHappening.faultNSound {s t : State} (h : OnlyHappening s t) : faultNSound t = faultNSound s := by
  obtain ⟨q, f, rfl, causes, -, low⟩ := h
  exact faultNSound_congr low causes rfl rfl rfl rfl

theorem faultNSound_begin (dt : Nat) (s : State) : faultNSound (begin dt s) = faultNSound s :=
  faultNSound_congr rfl rfl rfl rfl rfl rfl

theorem faultNSound_dropHostSeqs (s : State) : faultNSound (dropHostSeqs s) = faultNSound s :=
  faultNSound_congr rfl rfl rfl rfl rfl rfl

/-- Whatever was found, FAULT_N is settled. -/
theorem faultNSound_settleFaultN (s : State) : faultNSound (settleFaultN s) = true := by
  unfold settleFaultN
  dsimp only
  split
  next same => exact beq_iff_eq.mpr same.symm
  next =>
    rw [(emit_happening _ _).faultNSound]
    exact beq_iff_eq.mpr rfl

theorem faultNSound_closing (s t : State) : faultNSound (closing s t) = true := by
  have settled : faultNSound (settle t) = true := faultNSound_settleFaultN _
  rw [← settled, closing]
  exact faultNSound_congr (by rw [bumpSeqs_fault]) (by rw [bumpSeqs_fault]) (by rw [bumpSeqs_life]) (by rw [bumpSeqs_firebreak])
    (by rw [bumpSeqs_regs]) (by rw [bumpSeqs_axis])

/-- FAULT_N is low while the wipe of chip reset, or the reset itself, goes on. -/
theorem faultNSound_low {s : State} (low : s.fault.faultLow = true) (held : s.life.inReset = true ∨ s.life.clearing = true) :
    faultNSound s = true := by
  have now : faultLowNow s = true := by rcases held with h | h <;> simp [faultLowNow, h]
  rw [faultNSound, low, now]
  rfl

/-! ### What a chip reset leaves (R486, R488) -/

theorem OnlyHappening.refl (s : State) : OnlyHappening s s := (OnlyFault.refl s).happening

theorem OnlyHappening.foldl {α : Type} {f : State → α → State} (hf : ∀ s x, OnlyHappening s (f s x)) : ∀ (xs : List α) (s : State),
    OnlyHappening s (xs.foldl f s)
  | [], s => .refl s
  | x :: xs, s => (hf s x).trans (foldl hf xs (f s x))

theorem loadJournal_happening (bad : List (Fin 64)) (s : State) : ∃ y : TallySt, OnlyHappening { s with tally := y } (loadJournal bad s) := by
  unfold loadJournal
  exact ⟨_, .foldl (fun s k => emit_happening _ s) bad _⟩

theorem reportCalendar_happening (s : State) :
    OnlyHappening { s with life := { s.life with calLost := false } } (reportCalendar s) := by
  unfold reportCalendar calendarState
  split
  next => exact emit_happening _ _
  next lost =>
    have same : { s with life := { s.life with calLost := false } } = s := by
      rw [← Bool.eq_false_iff.mpr lost]
    rw [same]
    exact .refl s

/-- R486, R488: the state at t_r, but for what happenings and the tallies hold. -/
def upState (strap : Bool) (f : FaultSt) (q : List (Nat × Nat)) (y : TallySt) (s : State) : State :=
  { afterReset s with
    svc := { ({} : SvcSt) with strap := strap }, fault := f, quire := { ({} : QuireSt) with sourcesSeen := q }, tally := y
    life := { (afterReset s).life with parkValid := parkGood s.life.park, calLost := false } }

theorem beginUp_up (cycle strap : Bool) (bad : List (Fin 64)) (s : State) :
    ∃ f q y, f.faultLow = true ∧ beginUp cycle strap bad s = upState strap f q y s := by
  unfold beginUp
  dsimp only
  obtain ⟨y, p, g, loaded, -, -, low⟩ := loadJournal_happening bad (modLife { afterReset s with svc := { ({} : SvcSt) with strap := strap } }
    (fun l => { l with parkValid := parkGood l.park }))
  rw [loaded]
  obtain ⟨q, f, reported, -, -, kept⟩ := reportCalendar_happening { modLife { afterReset s with svc := { ({} : SvcSt) with strap := strap } }
    (fun l => { l with parkValid := parkGood l.park }) with tally := y, quire := { ({} : QuireSt) with sourcesSeen := p }, fault := g }
  have up : f.faultLow = true := kept.trans low
  split
  · exact ⟨f, q, _, up, (congrArg (modTallies · _) reported)⟩
  · exact ⟨f, q, y, up, reported⟩

/-- FAULT_N is low at t_r, while the wipe goes on. -/
theorem faultNSound_beginUp (cycle strap : Bool) (bad : List (Fin 64)) (s : State) : faultNSound (beginUp cycle strap bad s) = true := by
  obtain ⟨f, q, y, low, up⟩ := beginUp_up cycle strap bad s
  rw [up]
  exact faultNSound_low low (.inr rfl)

/-- A command keeps FAULT_N as its conditions say. -/
def KeepsFaultN (eff : State → State) : Prop := ∀ s, faultNSound s = true → faultNSound (eff s) = true

theorem chipResetEff_faultN (kind : ResetKind) (high strap : Bool) (bad : List (Fin 64)) :
    KeepsFaultN (chipResetEff kind high strap bad) := by
  intro s h
  unfold chipResetEff
  dsimp only
  split_ifs
  · exact h
  · exact h
  · exact faultNSound_beginUp _ strap bad s
  · exact faultNSound_low rfl (.inl rfl)
  · exact faultNSound_low rfl (.inl rfl)

/-- R468: a release while power is not good leaves FAULT_N low, as it was with RESET_N. -/
theorem resetReleaseEff_faultN (strap : Bool) (bad : List (Fin 64)) : KeepsFaultN (resetReleaseEff strap bad) := by
  intro s h
  unfold resetReleaseEff
  split_ifs with high bad'
  · exact h
  · have low : s.fault.faultLow = true := by
      rw [beq_iff_eq.mp h]
      simp_all [faultLowNow]
    exact faultNSound_low low (.inl rfl)
  · exact faultNSound_beginUp false strap bad s

theorem powerFallEff_faultN (railLost : Bool) : KeepsFaultN (powerFallEff railLost) := by
  intro s h
  unfold powerFallEff
  split_ifs
  · exact h
  · exact faultNSound_low rfl (.inl rfl)

theorem powerRecoveryEff_faultN (strap : Bool) (bad : List (Fin 64)) : KeepsFaultN (powerRecoveryEff strap bad) := by
  intro s h
  unfold powerRecoveryEff
  split_ifs
  · exact faultNSound_beginUp true strap bad s
  · exact h

theorem vbackupEff_faultN : KeepsFaultN vbackupEff := by
  intro s h
  unfold vbackupEff
  split_ifs
  · exact h
  · exact h

/-- An answer after which FAULT_N is as its conditions say. -/
def AnswersFaultN (o : Host.Outcome State Fault Refusal) : Prop := ∀ t, o = .next t → faultNSound t = true

section Answers

variable {s : State}

theorem faultNSound_after (h : faultNSound s = true) (dt : Nat) (eff : State → State) : faultNSound (after dt eff s) = true := by
  unfold after
  split
  · rwa [faultNSound_begin]
  · exact faultNSound_closing _ _

theorem run_faultN (h : faultNSound s = true) (dt : Nat) (eff : State → State) : AnswersFaultN (run dt s eff) := by
  rintro t ⟨⟩
  exact faultNSound_after h dt eff

theorem runOr_faultN (h : faultNSound s = true) (dt : Nat) (bad : State → Bool) (why : Fault) (eff : State → State) :
    AnswersFaultN (runOr dt s bad why eff) := by
  intro t ht
  unfold runOr at ht
  split at ht
  · cases ht
  · exact run_faultN h dt eff t ht

theorem runHost_faultN (h : faultNSound s = true) (dt : Nat) (did : State → Bool) (eff : State → State) :
    AnswersFaultN (runHost dt s did eff) := by
  rintro t ⟨⟩
  unfold afterHostCmd
  dsimp only
  split
  · rw [faultNSound_dropHostSeqs]
    exact faultNSound_after h dt eff
  · exact faultNSound_after h dt eff

theorem runReset_faultN (h : faultNSound s = true) (dt : Nat) {eff : State → State} (he : KeepsFaultN eff) :
    AnswersFaultN (runReset dt s eff) := by
  rintro t ⟨⟩
  exact he _ (by rwa [faultNSound_begin])

/-- Every command answers so: but for the rows of a chip reset, each closes with FAULT_N settled. -/
theorem exec_faultN (h : faultNSound s = true) (i : Instr) : AnswersFaultN (exec i s) := by
  cases i with
  | chipReset dt kind high strap bad => exact runReset_faultN h dt (chipResetEff_faultN kind high strap bad)
  | resetNRelease dt strap bad => exact runReset_faultN h dt (resetReleaseEff_faultN strap bad)
  | powerGoodFall dt railLost => exact runReset_faultN h dt (powerFallEff_faultN railLost)
  | powerRecoveryReset dt strap bad => exact runReset_faultN h dt (powerRecoveryEff_faultN strap bad)
  | vbackupLoss dt => exact runReset_faultN h dt vbackupEff_faultN
  | hostRegionReset | linkLoss => exact runHost_faultN h _ _ _
  | skip dt l cond k => exact (runOr_faultN h _ _ _ _ : AnswersFaultN (execSkip dt l cond k s))
  | sel dt l a b c cond => exact (runOr_faultN h _ _ _ _ : AnswersFaultN (execSel dt l a b c cond s))
  | shl dt l a b n => exact (runOr_faultN h _ _ _ _ : AnswersFaultN (execShl dt l a b n s))
  | accadd dt l acc b n => exact (runOr_faultN h _ _ _ _ : AnswersFaultN (execAccadd dt l acc b n s))
  | ext dt l a acc n round => exact (runOr_faultN h _ _ _ _ : AnswersFaultN (execExt dt l a acc n round s))
  | mxs dt l a p n => exact (runOr_faultN h _ _ _ _ : AnswersFaultN (execMxs dt l a p n s))
  | mns dt l a p n => exact (runOr_faultN h _ _ _ _ : AnswersFaultN (execMns dt l a p n s))
  | mxa dt l a p n => exact (runOr_faultN h _ _ _ _ : AnswersFaultN (execMxa dt l a p n s))
  | _ => exact run_faultN h _ _

end Answers

/-- Settles O4: every command closes with FAULT_N settled (`faultNSound_closing`), or is a row of a chip reset, which keeps it low;
held in reset, only time passes. -/
theorem faultNFollowsItsConditions : Obligations.FaultN_follows_its_conditions := by
  unfold Obligations.FaultN_follows_its_conditions
  intro s t h ht
  unfold step at ht
  split at ht
  · cases ht
    exact h
  · rename_i c rest hp
    have h' : faultNSound { s with pending := rest } = true := h
    exact exec_faultN h' c t ht

/-- Settles O12: the reset is due and RESET_N is high, so that the command is `beginUp`, counted as a power cycle by its kind. -/
theorem chipResetResetsAllButWhatIsStored : Obligations.Chip_reset_resets_all_but_what_is_stored := by
  unfold Obligations.Chip_reset_resets_all_but_what_is_stored
  intro dt kind strap bad s u v hu good failed hv
  subst hu hv
  have due : chipResetEff kind true strap bad (begin dt s) = beginUp (kind != .resetN) strap bad (begin dt s) := by
    unfold chipResetEff
    rw [if_neg, if_neg]
    · rfl
    · simp_all
    · rintro ⟨k, g, r⟩
      rcases good k with h | h
      · simp_all
      · exact r h
  have ran : exec (.chipReset dt kind true strap bad) s = .next (beginUp (kind != .resetN) strap bad (begin dt s)) :=
    congrArg Host.Outcome.next due
  rw [ran]
  cases kind <;> rfl

section Reset

variable {s : State} {strap : Bool}

theorem resetReleaseEff_releases (low : s.life.resetNLow = true) (good : s.chip.powerGood = true) (bad : List (Fin 64)) :
    resetReleaseEff strap bad s =
      modTallies (beginUp false strap bad s) (fun t => { t with powerCycles := max s.tally.powerCycles t.powerCycles }) :=
  (if_neg (by simp [low])).trans (if_neg (by simp [good]))

theorem powerRecoveryEff_recovers (fails : s.life.powerFailed = true) (bad : List (Fin 64)) : powerRecoveryEff strap bad s =
    modLife (beginUp true strap bad s) (fun l => { l with vin := max 600 l.vin }) := if_pos fails

end Reset

/-- Settles O13: held, the chip is `afterReset` with its flags; released, it is `beginUp`, whose happenings leave all that is stated as it
is (`beginUp_up`). -/
theorem resetIsHeldAndReleased : Obligations.Reset_is_held_and_released := by
  unfold Obligations.Reset_is_held_and_released
  intro dt s u hu
  subst hu
  refine ⟨fun strap bad => ⟨_, rfl, rfl, rfl, rfl, rfl, rfl⟩, fun low good strap => ⟨_, rfl, ?_⟩, ⟨_, rfl, rfl, rfl, rfl⟩,
    fun fails strap => ⟨_, rfl, ?_⟩⟩
  · obtain ⟨f, q, y, -, up⟩ := beginUp_up false strap [] (begin dt s)
    rw [afterResetCmd, resetReleaseEff_releases low good, up]
    exact ⟨rfl, rfl, rfl, rfl⟩
  · obtain ⟨f, q, y, -, up⟩ := beginUp_up true strap [] (begin dt s)
    rw [afterResetCmd, powerRecoveryEff_recovers fails, up]
    exact ⟨rfl, rfl, le_max_left _ _, rfl⟩

end Sys2Proof.Machine
end

section
/-!
PROOF. Family 18: acknowledgement and the clearing of ledgers, the event ring, and the handlings that waited. What each does in the
cases that the statement names is stated once about its effect.
-/

namespace Sys2Proof.Machine

/-! ### Acknowledgement (R468) -/

section Ack

variable {s : State}

/-- R467, R468: causes below 7 do not hold of themselves; 7 holds while it is hot, 8 while lanes are missing. -/
theorem faultAckEff_clears (idle : s.fault.chipGroups.any (fun g => s.axis.groups[g].ss1) = false) :
    faultAckEff s = { s with fault := { s.fault with causes := s.fault.causes.filter (fun c =>
      decide (c.1 < 7) || c.1 == 7 && decide (125 < s.life.tj) || c.1 == 8 && decide (inService s < 6)) } } := by
  have holds : ∀ k : Nat, ((if 125 < s.life.tj then [7] else []) ++ (if inService s < 6 then [8] else [])).contains k
      = (k == 7 && decide (125 < s.life.tj) || k == 8 && decide (inService s < 6)) := by
    intro k
    by_cases hot : 125 < s.life.tj <;> by_cases few : inService s < 6 <;> simp [hot, few, beq_eq_decide]
  have acts : faultAckEff s = { s with fault := { s.fault with causes := s.fault.causes.filter (fun c => decide (c.1 < 7)
      || ((if 125 < s.life.tj then [7] else []) ++ (if inService s < 6 then [8] else [])).contains c.1) } } :=
    if_neg (by rw [idle]; exact Bool.false_ne_true)
  simp only [acts, holds, Bool.or_assoc]

theorem faultAckEff_waits (busy : s.fault.chipGroups.any (fun g => s.axis.groups[g].ss1) = true) : faultAckEff s = s := if_pos busy

end Ack

/-! ### Clearing a ledger (R474) -/

/-- R473: the entries of a ledger, some of them shown with a merged parent. -/
def Ledger.mark (m : Entry → Bool) (l : Ledger) : Ledger :=
  { l with entries := l.entries.map (Option.map (fun e => { e with parentMerged := m e })) }

theorem Ledger.mark_mark (m n : Entry → Bool) (l : Ledger) :
    Ledger.mark n (Ledger.mark m l) = Ledger.mark (fun e => n { e with parentMerged := m e }) l := by
  simp only [Ledger.mark, List.map_map, Option.map_comp_map]
  rfl

theorem orphanChildren_marks (s : State) (r : EntryRef) :
    ∃ m, (orphanChildren s r).fault.ledgers = s.fault.ledgers.map (Ledger.mark m) := by
  refine ⟨fun e => e.parentMerged || e.parent == some r, ?_⟩
  have same : (fun e : Entry => if e.parent = some r then { e with parentMerged := true } else e)
      = fun e => { e with parentMerged := e.parentMerged || e.parent == some r } := by
    funext e
    by_cases child : e.parent = some r
    · simp [child]
    · simp [child, beq_eq_false_iff_ne.mpr child]
  unfold orphanChildren
  rw [same]
  rfl

theorem foldl_orphanChildren_marks (f : Nat → EntryRef) : ∀ (is : List Nat) (s : State),
    ∃ m, (is.foldl (fun s i => orphanChildren s (f i)) s).fault.ledgers = s.fault.ledgers.map (Ledger.mark m)
  | [], s => ⟨Entry.parentMerged, by
      have same : Ledger.mark Entry.parentMerged = id := by
        funext l
        simp [Ledger.mark]
      simp [same]⟩
  | i :: is, s => by
    obtain ⟨m, hm⟩ := orphanChildren_marks s (f i)
    obtain ⟨n, hn⟩ := foldl_orphanChildren_marks f is (orphanChildren s (f i))
    refine ⟨_, hn.trans (by rw [hm, Vector.map_map, ← funext (Ledger.mark_mark m n)]; rfl)⟩

/-- R474: an entry that a clear removes: it is not in progress, and no stop entry while FAULT_N is low. -/
def clears (s : State) (e : Entry) : Bool := !inProgress e && (e.level != .stop || !s.fault.faultLow)

/-- R474: a ledger with what a clear removes removed, and its counts at 0. -/
def Ledger.clear (s : State) (l : Ledger) : Ledger :=
  { l with
    entries := l.entries.map (fun e => e.bind (fun e => if clears s e then none else some e))
    ovNote := 0, ovWarn := 0, ovFault := 0, stopUnlogged := 0 }

theorem clearLedger_ledgers (s : State) (L : Fin 7) : ∃ m, (clearLedger s L).fault.ledgers =
    upd (s.fault.ledgers.map (Ledger.mark m)) L (Ledger.clear s) := by
  obtain ⟨m, hm⟩ := foldl_orphanChildren_marks (fun i => ⟨L.val, i⟩)
    ((s.fault.ledgers[L].entries.zipIdx).filterMap (fun (e, i) => e.bind (fun e => if clears s e then some i else none))) s
  exact ⟨m, congrArg (upd · L (Ledger.clear s)) hm⟩

section Clear

variable {x : State} {L K : Fin 7} {i : Nat} {e : Entry}

/-- What a clear makes of an entry of its ledger. -/
theorem clearLedger_entry (h : x.fault.ledgers[L].entries[i]? = some (some e)) : ∃ b : Bool,
    (clearLedger x L).fault.ledgers[L].entries[i]? = some (if clears x e then none else some { e with parentMerged := b }) := by
  obtain ⟨m, hm⟩ := clearLedger_ledgers x L
  refine ⟨m e, ?_⟩
  rw [hm, upd_same]
  have marked : (x.fault.ledgers.map (Ledger.mark m))[L] = Ledger.mark m x.fault.ledgers[L] := Vector.getElem_map ..
  have kept : clears x { e with parentMerged := m e } = clears x e := rfl
  rw [marked]
  simp only [Ledger.clear, Ledger.mark, List.getElem?_map, h, Option.map_some, Option.bind_some, kept]

theorem clearLedger_ovNote (x : State) (L : Fin 7) : (clearLedger x L).fault.ledgers[L].ovNote = 0 := by
  obtain ⟨m, hm⟩ := clearLedger_ledgers x L
  rw [hm, upd_same]
  rfl

theorem clearLedger_other (h : K ≠ L) : ∃ m, (clearLedger x L).fault.ledgers[K] = Ledger.mark m x.fault.ledgers[K] := by
  obtain ⟨m, hm⟩ := clearLedger_ledgers x L
  exact ⟨m, by rw [hm, upd_other _ _ _ _ h]; exact Vector.getElem_map ..⟩

end Clear

theorem ledgerClearEff_folds (mask : BitVec 7) (s : State) :
    ledgerClearEff mask.toNat s = ((List.finRange 7).filter (fun L => mask.getLsbD L.val)).foldl clearLedger s := by
  simp only [ledgerClearEff, bit_toNat]

/-! ### The event ring (R479) -/

section EventWrite

variable {s : State} {t : Token} {rest : List Token}

theorem eventWriteEff_stays (h : s.fault.buffer = [] ∨ evqFree s = false) (r : WriteResult) : eventWriteEff r s = s :=
  if_pos (by rcases h with h | h <;> simp [h])

/-- R479: a token waits and the ring takes a record: EVENTS_LOST goes first where tokens were lost. -/
theorem eventWriteEff_starts (hb : s.fault.buffer = t :: rest) (free : evqFree s = true) (r : WriteResult) : eventWriteEff r s =
    match r with
    | .failed code => ringDmaError (.out .evq) code s
    | .ok =>
      let s := if s.fault.lostCount = 0 then s else reportLost s
      if !evqFree s then s
      else match s.fault.buffer with
        | t :: rest => writeEvent t { s with fault := { s.fault with buffer := rest } }
        | [] => s :=
  if_neg (by simp [hb, free])

theorem eventWriteEff_failed (hb : s.fault.buffer = t :: rest) (free : evqFree s = true) (code : Byte) :
    eventWriteEff (.failed code) s = ringDmaError (.out .evq) code s := eventWriteEff_starts hb free _

theorem eventWriteEff_writes (hb : s.fault.buffer = t :: rest) (free : evqFree s = true) (none_lost : s.fault.lostCount = 0) :
    eventWriteEff .ok s = writeEvent t { s with fault := { s.fault with buffer := rest } } := by
  rw [eventWriteEff_starts hb free]
  simp [none_lost, free, hb]

theorem eventWriteEff_reports (hb : s.fault.buffer = t :: rest) (free : evqFree s = true) (lost : s.fault.lostCount ≠ 0)
    {t' : Token} {rest' : List Token} (hb' : (reportLost s).fault.buffer = t' :: rest') (free' : evqFree (reportLost s) = true) :
    eventWriteEff .ok s = writeEvent t' { reportLost s with fault := { (reportLost s).fault with buffer := rest' } } := by
  rw [eventWriteEff_starts hb free]
  simp [lost, free', hb']

theorem eventWriteEff_fills (hb : s.fault.buffer = t :: rest) (free : evqFree s = true) (lost : s.fault.lostCount ≠ 0)
    (full : evqFree (reportLost s) = false) : eventWriteEff .ok s = reportLost s := by
  rw [eventWriteEff_starts hb free]
  simp [lost, full]

end EventWrite

/-! ### Handlings that waited (R472) -/

section Handling

variable {s : State} {L : Fin 7} {i : Fin 32} {e : Entry}

theorem handlingStartEff_waits (h : ∀ e, entryAt s ⟨L.val, i.val⟩ = some e → startsNext s ⟨L.val, i.val⟩ e = false) :
    handlingStartEff L i s = s := by
  unfold handlingStartEff
  dsimp only
  split
  next => rfl
  next e he => exact if_pos (by simp [h e he])

/-- R472: the handling pre-empts the lower ones and runs. -/
def handlingRuns (r : EntryRef) (e : Entry) (s : State) : State :=
  modEntry (preemptOthers s r.ledger e.level r) r (fun e => { e with hstate := .running })

theorem handlingStartEff_starts (he : entryAt s ⟨L.val, i.val⟩ = some e) (next : startsNext s ⟨L.val, i.val⟩ e = true) :
    handlingStartEff L i s = match e.action with
      | some .isolate => endHandling (quarantineLane (Fin.ofNat 9 e.index) (some ⟨L.val, i.val⟩) (handlingRuns ⟨L.val, i.val⟩ e s))
          ⟨L.val, i.val⟩ false
      | some (.ss1 m) => requestAll (ss1Cause e.source) (some ⟨L.val, i.val⟩) ((List.finRange 8).filter (fun g => m.getLsbD g.val))
          (handlingRuns ⟨L.val, i.val⟩ e s)
      | _ => handlingRuns ⟨L.val, i.val⟩ e s := by
  unfold handlingStartEff
  dsimp only
  rw [he]
  exact if_neg (by simp [next])

theorem handlingStartEff_plain (he : entryAt s ⟨L.val, i.val⟩ = some e) (next : startsNext s ⟨L.val, i.val⟩ e = true)
    (noIsolate : e.action ≠ some .isolate) (noStop : ∀ m, e.action ≠ some (.ss1 m)) :
    handlingStartEff L i s = handlingRuns ⟨L.val, i.val⟩ e s := by
  rw [handlingStartEff_starts he next]
  split
  next h => exact absurd h noIsolate
  next m h => exact absurd h (noStop m)
  next => rfl

end Handling

/-- Settles O57: each command's effect in each of its cases; a clear marks the children of what it removes and removes what may go
(`clearLedger_ledgers`). -/
theorem faultsAreAcknowledgedClearedAndWritten : Obligations.Faults_are_acknowledged_cleared_and_written := by
  unfold Obligations.Faults_are_acknowledged_cleared_and_written
  intro dt path s u hs hu
  subst hu
  refine ⟨fun opened idle => ?_, fun opened busy => ?_, fun opened mask => ?_, fun L K i x e he => ?_, fun opened value => ?_,
    fun t rest hb free => ?_, fun h r => ?_, fun L i e r v hr he next hv => ?_, fun L i h => ?_⟩
  · exact exec_closes_gated rfl hs opened (faultAckEff_clears idle)
  · exact exec_closes_gated rfl hs opened (faultAckEff_waits busy)
  · exact exec_closes_gated rfl hs opened (ledgerClearEff_folds mask _)
  · obtain ⟨b, cleared⟩ := clearLedger_entry he
    refine ⟨fun stays => ?_, fun ended may => ?_, clearLedger_ovNote x L, fun other => ?_⟩
    · have keeps : clears x e = false := by
        rcases stays with h | ⟨stop, low⟩
        · simp [clears, h]
        · simp [clears, stop, low]
      exact ⟨{ e with parentMerged := b }, by rw [cleared, keeps]; rfl, rfl, rfl⟩
    · have goes : clears x e = true := by
        rcases may with h | h
        · simp [clears, ended, h]
        · simp [clears, ended, h]
      rw [cleared, goes]
      rfl
    · obtain ⟨m, marked⟩ := clearLedger_other (x := x) other
      rw [marked]
      simp [Ledger.mark]
  · exact exec_closes_gated rfl hs opened rfl
  · exact ⟨fun lost => exec_closes rfl hs (eventWriteEff_writes hb free lost),
      fun lost t' rest' hb' free' => exec_closes rfl hs (eventWriteEff_reports hb free lost hb' free'),
      fun lost full => exec_closes rfl hs (eventWriteEff_fills hb free lost full),
      fun code => exec_closes rfl hs (eventWriteEff_failed hb free code)⟩
  · exact exec_closes rfl hs (eventWriteEff_stays h r)
  · subst hr hv
    refine ⟨fun noIsolate noStop => exec_closes rfl hs (handlingStartEff_plain he next noIsolate noStop), fun action => ?_,
      fun m action => ?_⟩
    · exact exec_closes rfl hs (by rw [handlingStartEff_starts he next, action]; rfl)
    · exact exec_closes rfl hs (by rw [handlingStartEff_starts he next, action]; rfl)
  · exact exec_closes rfl hs (handlingStartEff_waits h)

end Sys2Proof.Machine
end

section
/-!
PROOF. Family 19: the lifecycle requested and committed, the records of the tallies, the backup supply and the park entries, and the
supply, temperature and clock limits.
-/

namespace Sys2Proof.Machine

/-! ### What a lifecycle change carries through (R498, R500) -/

/-- The lifecycle region, the count of lifecycle changes, and the stored safety record with its confirmation. -/
def stored (s : State) : LifeSt × Nat × List Byte × Bool × Bool :=
  (s.life, s.tally.changes, s.firebreak.record, s.firebreak.valid, s.firebreak.nvConfirmed)

/-- A fold of steps that each keep what is seen keeps it. -/
theorem foldl_keeps {α β : Type} {see : State → β} {f : State → α → State} (h : ∀ s x, see (f s x) = see s) :
    ∀ (xs : List α) (s : State), see (xs.foldl f s) = see s
  | [], _ => rfl
  | x :: xs, s => (foldl_keeps h xs (f s x)).trans (h s x)

theorem OnlyHappening.stored {s t : State} (h : OnlyHappening s t) : stored t = stored s := by
  obtain ⟨q, f, rfl, -⟩ := h
  rfl

@[simp] theorem emit_stored (h : Hap) (s : State) : stored (emit h s) = stored s := (emit_happening h s).stored

@[simp] theorem complete_stored (id status : Nat) (result detail : Int) (applied : Option Stamp) (s : State) :
    stored (complete id status result detail applied s) = stored s := by
  unfold complete
  split <;> rfl

@[simp] theorem dropFrame_stored (c : Fin 2) (i status : Nat) (detail : Int) (s : State) :
    stored (dropFrame c i status detail s) = stored s := by
  unfold dropFrame
  split
  · exact complete_stored ..
  · rfl

@[simp] theorem dropAllFrames_stored (detail : Int) (s : State) : stored (dropAllFrames detail s) = stored s :=
  foldl_keeps (fun _ _ => foldl_keeps (fun _ _ => dropFrame_stored ..) _ _) _ _

@[simp] theorem endFlight_stored (but : Option Nat) (new : Nat) (s : State) : stored (endFlight but new s) = stored s := by
  refine foldl_keeps (fun _ _ => ?_) _ _
  rfl

@[simp] theorem loadEntries_stored (s : State) : stored (loadEntries s) = stored s := rfl

@[simp] theorem settleOutputs_stored (s : State) : stored (settleOutputs s) = stored s := by
  have failed : ∀ s, stored (settleTestFail s) = stored s := fun s => by
    unfold settleTestFail
    split <;> rfl
  have sto : ∀ s, stored (settleStoOut s) = stored s := fun s => by
    unfold settleStoOut
    dsimp only
    split <;> rfl
  have cdrv : ∀ s, stored (settleCdrv s) = stored s := fun s => by
    unfold settleCdrv
    dsimp only
    split
    · rfl
    · exact emit_stored ..
  rw [settleOutputs, cdrv, sto, failed]

@[simp] theorem holdSto_stored (s : State) : stored (holdSto s) = stored s := by
  refine (settleOutputs_stored _).trans (foldl_keeps (fun _ _ => ?_) _ _)
  rfl

@[simp] theorem recordState_stored (k : Nat) (s : State) : stored (recordState k s) = stored s := emit_stored ..

@[simp] theorem wipeMemories_stored (s : State) : stored (wipeMemories s) = stored s := by
  have quire : ∀ s, stored (wipeQuire s) = stored s := fun s => by
    unfold wipeQuire
    dsimp only
    split
    · exact emit_stored ..
    · rfl
  exact quire _

@[simp] theorem writeTally_stored (reason : Nat) (s : State) : stored (writeTally reason s) = stored s := emit_stored ..

@[simp] theorem govFollow_stored (s : State) : stored (govFollow s) = stored s := by
  unfold govFollow
  split <;> rfl

/-- R498: the change removes the safety record. -/
def wipesRecord (new : Lifecycle) (s : State) : Bool := s.life.state == .commissioned || new == .retired

/-- R500: the lifecycle region once a change has taken effect: the park record is gone. -/
def LifeSt.turned (new : Lifecycle) (l : LifeSt) : LifeSt := { l with state := new, changing := none, park := [], parkValid := false }

/-- R500: the state of the lifecycle and the safety record once a change has taken effect. -/
def lifecycleTurned (new : Lifecycle) (s : State) : State :=
  let t := modLife (endFlight none (lifeCode new) (dropAllFrames (lifeCode new) s)) (LifeSt.turned new)
  if wipesRecord new s then
    recordState 0 (holdSto (loadEntries (modFb t (fun fb => { fb with record := [], valid := false, confirmed := false, nvConfirmed := false }))))
  else t

/-- R500: a change that LIFE_REQ requested: after the turn come the wipe, its events and the tally of changes. -/
theorem lifecycleCommitEff_turns {new : Lifecycle} {s : State} (h : s.life.changing = some (new, none)) : ∃ v,
    stored v = stored (lifecycleTurned new s) ∧
    stored (lifecycleCommitEff s) = stored (modTallies v (fun t => { t with changes := satU 16 (t.changes + 1) })) := by
  unfold lifecycleCommitEff
  rw [h]
  dsimp only
  rw [govFollow_stored, writeTally_stored]
  refine ⟨_, ?_, rfl⟩
  rw [raiseClearing, emit_stored, emit_stored, wipeMemories_stored]
  rfl

theorem lifecycleTurned_stored (new : Lifecycle) (s : State) : stored (lifecycleTurned new s) =
    (s.life.turned new, s.tally.changes,
      if wipesRecord new s then ([], false, false) else (s.firebreak.record, s.firebreak.valid, s.firebreak.nvConfirmed)) := by
  have ended : stored (endFlight none (lifeCode new) (dropAllFrames (lifeCode new) s)) = stored s := by
    rw [endFlight_stored, dropAllFrames_stored]
  unfold lifecycleTurned
  dsimp only
  split
  · rw [recordState_stored, holdSto_stored, loadEntries_stored]
    exact congrArg (fun x => (LifeSt.turned new x.1, x.2.1, ([], false, false))) ended
  · exact congrArg (fun x => (LifeSt.turned new x.1, x.2)) ended

/-- R500: what a change that LIFE_REQ requested leaves of what is stored. -/
theorem lifecycleCommitEff_stored {new : Lifecycle} {s : State} (h : s.life.changing = some (new, none)) :
    stored (lifecycleCommitEff s) = (s.life.turned new, satU 16 (s.tally.changes + 1),
      if wipesRecord new s then ([], false, false) else (s.firebreak.record, s.firebreak.valid, s.firebreak.nvConfirmed)) := by
  obtain ⟨v, turned, committed⟩ := lifecycleCommitEff_turns h
  rw [lifecycleTurned_stored] at turned
  exact committed.trans (congrArg (fun x => (x.1, satU 16 (x.2.1 + 1), x.2.2)) turned)

/-! ### Requests, tallies, backup and park entries (R495, R501 to R508) -/

section Lifecycle

variable {s : State}

theorem lifeReqEff_requests {value : Nat} {l : Lifecycle} (hl : lifeOf (bits value 2 0) = some l) (reserved : bits value 15 3 = 0)
    (idle : s.life.changing = none) (passes : firstFail (lifeState (bits value 2 0) (bits value 31 16) s) = none) :
    lifeReqEff value s = { s with life := { s.life with changing := some (l, none) } } := by
  unfold lifeReqEff
  rw [hl]
  exact if_pos ⟨reserved, by rw [idle]; rfl, by rw [passes]; rfl⟩

theorem svcGate_denies {eff : State → State} (up : svcUp s = true) (no : svcNoWrites s = true) :
    svcGate eff s = { s with svc := { s.svc with denied := true } } :=
  (if_neg (by simp [up])).trans (if_pos no)

theorem tallyRefreshEff_refreshes (old : 2 * 365 * 86400 ≤ sinceRefresh s) : tallyRefreshEff s =
    emit { source := 241, sev := .note, payload := leBytes 4 (satU 32 (s.tally.refreshes + 1)) } (modTallies s (fun t => { t with
      refreshes := satU 32 (t.refreshes + 1), refreshCal := calNow s, refreshPow := t.poweredS })) :=
  if_neg (Nat.not_lt.mpr old)

theorem parkTimeoutEff_fails {i : Fin 4} {r : ParkRun} (hr : s.life.runs[i.val]? = some r) (own : r.own = true)
    (waiting : r.phase = .waiting) (unseen : r.seen = false) (absent : epPresent s r.entry.ep = false)
    (late : s.life.parkAt + 100 * msLsb ≤ s.time.now) :
    parkTimeoutEff i s = endEntry i false (modRun i (fun r => { r with reason := 1 }) s) := by
  have fails : failEntry i 1 s = endEntry i false (modRun i (fun r => { r with reason := 1 }) s) := by
    unfold failEntry
    rw [hr]
    exact (if_neg (by simp [parkLive, waiting])).trans (if_pos (.inl waiting))
  unfold parkTimeoutEff
  rw [hr]
  exact (if_pos (by simp [own, waiting, unseen, absent, late])).trans fails

end Lifecycle

/-- Settles O58: each command's effect where its conditions hold; what a committed change leaves is followed through its parts
(`lifecycleCommitEff_stored`). -/
theorem lifecycleTalliesAndBackup : Obligations.Lifecycle_tallies_and_backup := by
  unfold Obligations.Lifecycle_tallies_and_backup
  intro dt s u v w hs hu
  subst hu
  refine ⟨fun opened value l hl reserved idle passes => ?_, fun up no value => ?_, fun new h => ?_, fun due => ?_, fun old => ?_,
    fun i r hr own waiting unseen absent late => ?_, fun hv absent => ?_, fun hv good => ?_⟩
  · exact exec_closes_gated (path := .svc) rfl hs opened (lifeReqEff_requests hl reserved idle passes)
  · exact exec_closes rfl hs (svcGate_denies up no)
  · obtain ⟨life, changes, record⟩ := Prod.mk.inj (lifecycleCommitEff_stored h) |>.imp_right Prod.mk.inj
    refine ⟨_, exec_closes rfl hs rfl, by rw [life]; rfl, by rw [life]; rfl, by rw [life]; rfl, by rw [life]; rfl, changes, fun wipes => ?_⟩
    have removed : wipesRecord new (begin dt s) = true := by simpa [wipesRecord] using wipes
    rw [removed] at record
    obtain ⟨bytes, flags⟩ := Prod.mk.inj record
    exact ⟨bytes, Prod.mk.inj flags⟩
  · exact exec_closes rfl hs (if_pos due)
  · exact exec_closes rfl hs (tallyRefreshEff_refreshes old)
  · exact exec_closes rfl hs (parkTimeoutEff_fails hr own waiting unseen absent late)
  · subst hv
    exact congrArg Host.Outcome.next (if_neg (by rw [absent]; exact Bool.false_ne_true))
  · subst hv
    exact congrArg Host.Outcome.next (if_pos good)

/-! ### Supply, temperature and clock limits (R44, R467, R483, R506, R514) -/

section Limits

variable {s : State}

theorem thermalEff_crosses {tj : Int} (was : s.life.tj ≤ 115) (hot : 115 < tj) : thermalEff tj s =
    emit { source := 5, sev := .warning, payload := sgnBytes 1 tj } (modLife s (fun l => { l with tj := tj, hot := true })) := by
  unfold thermalEff
  dsimp only
  rw [decide_eq_true hot]
  exact if_pos ⟨was, hot⟩

theorem thermalLimitEff_crosses {tj : Int} (was : s.life.tj ≤ 125) (above : 125 < tj) {e : State × Option EntryRef × Bool}
    (he : e = raiseHap (modLife s (fun l => { l with tj := tj, hot := true }))
      { source := 6, sev := .stop, handler := 3, payload := sgnBytes 1 tj }) :
    thermalLimitEff tj s = chipCause 7 6 e.2.1 (voidCause 2 e.2.1 e.1) := by
  have hot : 115 < tj := by omega
  subst he
  unfold thermalLimitEff
  dsimp only
  rw [decide_eq_true hot]
  exact if_pos ⟨was, above⟩

theorem junctionLowEff_voids {tj : Int} (cold : tj < -40) : junctionLowEff tj s =
    voidCause 2 none (modLife s (fun l => { l with tj := tj, hot := false })) := by
  have cool : ¬ 115 < tj := by omega
  unfold junctionLowEff
  dsimp only
  rw [decide_eq_false cool]
  exact if_pos cold

theorem vinLowEff_voids {vin : Nat} (good : s.chip.powerGood = true) (was : 600 ≤ s.life.vin) (low : vin < 600)
    {e : State × Option EntryRef × Bool}
    (he : e = raiseHap (modLife s (fun l => { l with vin := vin })) { source := 2, sev := .warning, payload := leBytes 2 vin }) :
    vinLowEff vin s = voidCause 2 e.2.1 e.1 := by
  subst he
  exact if_pos (by simp [modLife, good, was, low])

theorem powerFailEff_fails {vin : Nat} (first : s.life.powerFailed = false) (low : vin < 560) {e : State × Option EntryRef × Bool}
    (he : e = raiseHap (modLife s (fun l => { l with vin := vin, powerFailed := true }))
      { source := 3, sev := .stop, handler := 3, payload := leBytes 2 vin })
    {v : State} (hv : v = chipCause 4 3 e.2.1 (voidCause 2 e.2.1 e.1)) :
    powerFailEff vin s = writeTally 2 (modTallies v (fun t => { t with flushes := satU 16 (t.flushes + 1) })) := by
  obtain ⟨t, r, go⟩ := e
  unfold powerFailEff
  dsimp only
  rw [if_neg (by simp [first, low]), ← he, hv]

theorem xtalFaultEff_far {ratio : Nat} (far : 196608 < 100 * ((ratio : Int) - 65536).natAbs) : xtalFaultEff ratio s =
    raiseChip { source := 32, sev := .stop, payload := leBytes 4 ratio } 2 (modTime s (fun t => { t with xtalOk := false })) :=
  if_neg (by simpa [xtalBad] using far)

theorem xtalFaultEff_near {ratio : Nat} (near : 100 * ((ratio : Int) - 65536).natAbs ≤ 196608) : xtalFaultEff ratio s = s :=
  if_pos (by simpa [xtalBad] using near)

end Limits

/-- Settles O14: each reading crosses its limit, so that its effect is the crossing's. -/
theorem supplyTemperatureAndClockLimits : Obligations.Supply_temperature_and_clock_limits := by
  unfold Obligations.Supply_temperature_and_clock_limits
  intro dt s u hs hu
  subst hu
  refine ⟨fun tj was hot => ?_, fun tj was hot e he => ?_, fun tj cold => ?_, fun vin good was low e he => ?_,
    fun vin first low e v he hv => ?_, fun rail mv => ?_, fun ratio => ⟨fun far => ?_, fun near => ?_⟩, ?_⟩
  · exact exec_closes rfl hs (thermalEff_crosses was hot)
  · exact exec_closes rfl hs (thermalLimitEff_crosses was hot he)
  · exact exec_closes rfl hs (junctionLowEff_voids cold)
  · exact exec_closes rfl hs (vinLowEff_voids good was low he)
  · exact exec_closes rfl hs (powerFailEff_fails first low he hv)
  · exact exec_closes rfl hs rfl
  · exact exec_closes rfl hs (xtalFaultEff_far far)
  · exact exec_closes rfl hs (xtalFaultEff_near near)
  · exact exec_closes rfl hs rfl

end Sys2Proof.Machine
end

section
/-!
PROOF. Families 14 to 19 at the service port: the descriptors of the CAN controllers, of Quire, of the check units and of the chip, each
of which acts at acceptance.
-/

namespace Sys2Proof.Machine

/-! ### What each opcode does at acceptance (R82, R89) -/

section Opcodes

variable {f : InFlight} {s : State} {serve : BitVec 16 → List RawDesc → State → State}

theorem opNow_canSend (h : f.opcode.toNat = 0x70) : opNow serve f s = canSendNow f s := by simp only [opNow, h]

theorem opNow_canCancel (h : f.opcode.toNat = 0x71) : opNow serve f s = canCancelNow f s := by simp only [opNow, h]

theorem opNow_canRecover (h : f.opcode.toNat = 0x72) : opNow serve f s = canRecoverNow f s := by simp only [opNow, h]

theorem opNow_quireRead (h : f.opcode.toNat = 0x81) : opNow serve f s = quireReadNow f s := by simp only [opNow, h]

theorem opNow_checkContext (h : f.opcode.toNat = 0x88) : opNow serve f s = contextNow f s := by simp only [opNow, h]

theorem opNow_tallyRead (h : f.opcode.toNat = 0xA0) : opNow serve f s = tallyReadNow f s := by simp only [opNow, h]

theorem opNow_calendarSet (h : f.opcode.toNat = 0xA1) : opNow serve f s = calendarNow f s := by simp only [opNow, h]

theorem opNow_safetyRecordWrite (h : f.opcode.toNat = 0xB0) : opNow serve f s = recordWriteNow f s := by simp only [opNow, h]

theorem opNow_safetyConfirm (h : f.opcode.toNat = 0xB1) : opNow serve f s = confirmNow f s := by simp only [opNow, h]

theorem opNow_lifecycleChange (h : f.opcode.toNat = 0xF0) : opNow serve f s = lifeNow f s := by simp only [opNow, h]

theorem opNow_parkRecordWrite (h : f.opcode.toNat = 0xF1) : opNow serve f s = parkWriteNow f s := by simp only [opNow, h]

end Opcodes

/-! ### CAN_SEND (R392) -/

section CanSend

variable {f g : InFlight} {s w : State}

/-- R89, R392: a checked CAN_SEND acts at acceptance; its frame waits for its apply time, or for the next update point. -/
theorem enact_canSend {serve : BitVec 16 → List RawDesc → State → State} {grouped : Bool} {apply : Option Stamp}
    (h : f.opcode.toNat = 0x70) : enact serve grouped apply f s =
      canSendNow { f with due := .update apply (s.time.now + guard2) }
        (modFlight (tapRead f s) f.id (fun x => { x with due := .update apply (s.time.now + guard2) })) := by
  have immediate : isImmediate f s = true := by simp only [isImmediate, h]
  unfold enact
  rw [if_pos immediate]
  simp only [h]
  exact opNow_canSend h

theorem svcDescEff_canSend (d : Desc) (ht : svcTakes (rawOf 0x70 d) (frameBegin s) = true)
    (hfw : (f, w) = svcFlight (rawOf 0x70 d) (frameBegin s)) (hp : passes (rawOf 0x70 d) (frameBegin s) = true)
    (hg : g = { f with due := .update (applyOf w .svc (rawOf 0x70 d)) (w.time.now + guard2) }) :
    svcDescEff (rawOf 0x70 d) s = svcDone (canSendNow g (modFlight w f.id (fun x => { x with due := g.due }))) := by
  have code := opcode_svcFlight_rawOf d (op := 0x70) (by decide) (frameBegin s)
  rw [svcFlight] at code
  have unread : ∀ t, tapRead (svcHeld (rawOf 0x70 d) (frameBegin s)).1 t = t := fun _ => rfl
  have applies : ∀ t id due, applyOf (modFlight t id due) .svc (rawOf 0x70 d) = applyOf t .svc (rawOf 0x70 d) := fun _ _ _ => rfl
  obtain ⟨rfl, rfl⟩ := Prod.mk.inj hfw
  rw [svcDescEff_takes _ s ht, svcSubmit_takes _ _ ht, accept_svc _ _ hp, svcDone, enact_canSend code, hg, modFlight_twice, applies,
    modFlight_time, unread]

theorem canSendNow_slot {i : Nat} (free : tabFree s.can[canT g].slots 32 = some i) :
    (canSendNow g s).can[canT g].queued = s.can[canT g].queued + 1
      ∧ ((tabGet (canSendNow g s).can[canT g].slots i).map (fun e => e.desc)) = some g.id := by
  unfold canSendNow
  dsimp only
  rw [free]
  dsimp only
  rw [modFlight_can, modCan, upd_same]
  exact ⟨rfl, by rw [tabGet_tabPut_same]; rfl⟩

end CanSend

/-! ### CHECK_CONTEXT (R437) -/

section CheckContext

variable {f : InFlight} {s v : State}

theorem contextNow_reads (h : pU f.payload 16 1 = 0) :
    contextNow f s = complete f.id stOK (reg s (chkBase (chkT f) + 0x10)) 0 (some (nowStamp s)) s := by
  unfold contextNow
  dsimp only
  rw [if_pos h]

theorem contextNow_writes (h : pU f.payload 16 1 ≠ 0) (hv : v = setReg s (chkBase (chkT f) + 0x10) (pU f.payload 20 4)) :
    contextNow f s = complete f.id stOK (reg s (chkBase (chkT f) + 0x10)) 0 (some (nowStamp v)) v := by
  subst hv
  unfold contextNow
  dsimp only
  rw [if_neg h]

end CheckContext

/-- Settles O41: each row submits its descriptor, which acts at acceptance by its opcode (`svcDescEff_of_untimed`, `svcDescEff_canSend`). -/
theorem canQuireAndCheckDescriptorsTakeEffect : Obligations.Can_quire_and_check_descriptors_take_effect := by
  unfold Obligations.Can_quire_and_check_descriptors_take_effect
  intro dt d r s u b w f hs hu hb ht hfw hp
  subst hu hb
  refine ⟨fun hr g hg => ?_, fun g v i free => canSendNow_slot free, fun hr => ?_, fun hr => ?_, fun hr => ?_, fun hr => ?_,
    fun k hk hr v hv => ?_⟩ <;> subst hr
  · exact exec_closes rfl hs (svcDescEff_canSend d ht hfw hp hg)
  · obtain ⟨code, acts⟩ := svcDescEff_of_untimed d (by decide) rfl ht hfw hp
    rw [opNow_canCancel code] at acts
    exact exec_closes rfl hs acts
  · obtain ⟨code, acts⟩ := svcDescEff_of_untimed d (by decide) rfl ht hfw hp
    rw [opNow_canRecover code] at acts
    exact exec_closes rfl hs acts
  · obtain ⟨code, acts⟩ := svcDescEff_of_untimed d (by decide) rfl ht hfw hp
    rw [opNow_quireRead code] at acts
    exact exec_closes rfl hs acts
  · obtain ⟨code, acts⟩ := svcDescEff_of_untimed _ (by decide) rfl ht hfw hp
    rw [opNow_checkContext code, contextNow_reads (action_svcFlight_withSub d (by decide) (by decide) hfw)] at acts
    exact exec_closes rfl hs acts
  · obtain ⟨code, acts⟩ := svcDescEff_of_untimed _ (by decide) rfl ht hfw hp
    have small : k < 2 ^ 8 := by omega
    have writes : pU f.payload 16 1 ≠ 0 := by
      rw [action_svcFlight_withSub d (by decide) small hfw]
      omega
    rw [opNow_checkContext code, contextNow_writes writes hv] at acts
    rcases hk with rfl | rfl
    · exact exec_closes rfl hs acts
    · exact exec_closes rfl hs acts

/-! ### Descriptors of the chip (R458, R459, R492, R499, R505, R509) -/

section ChipDescriptors

variable {f : InFlight} {s v : State}

theorem tallyReadNow_copies (h : pU f.payload 16 8 = 0) : tallyReadNow f s =
    complete f.id stOK 1024 0 (some (nowStamp s)) { s with tally := { s.tally with
      image := tallyImage s, snapSeq := s.tally.snapSeq + 1 } } := if_pos h

theorem confirmNow_confirms (h : confirmRecord (pU f.payload 16 4) s = (v, true)) :
    confirmNow f s = completeOk f.id (some (nowStamp v)) v := by
  unfold confirmNow
  rw [h]
  exact if_pos rfl

theorem confirmNow_rejects (h : (confirmRecord (pU f.payload 16 4) s).2 = false) :
    confirmNow f s = reject f.id 0x0082 0 (confirmRecord (pU f.payload 16 4) s).1 := by
  unfold confirmNow
  dsimp only
  rw [h]
  exact if_neg Bool.false_ne_true

theorem lifeNow_changes {l : Lifecycle} (h : lifeOf (pU f.payload 16 1) = some l) : lifeNow f s =
    modFlight { s with life := { s.life with changing := some (l, some f.id) } } f.id (fun x => { x with due := .running }) := by
  unfold lifeNow
  rw [h]
  rfl

end ChipDescriptors

/-- Settles O42: each row submits its descriptor, which acts at acceptance by its opcode (`svcDescEff_of_untimed`). -/
theorem chipDescriptorsTakeEffect : Obligations.Chip_descriptors_take_effect := by
  unfold Obligations.Chip_descriptors_take_effect
  intro dt d r s u b w f hs hu hb ht hfw hp
  subst hu hb
  refine ⟨fun hr now => ?_, fun hr v hv => ?_, fun hr => ?_, fun hr wrong => ?_, fun hr v right => ?_, fun hr l hl => ?_,
    fun hr v hv => ?_⟩ <;> subst hr <;> obtain ⟨code, acts⟩ := svcDescEff_of_untimed d (by decide) rfl ht hfw hp
  · rw [opNow_tallyRead code, tallyReadNow_copies now] at acts
    exact exec_closes rfl hs acts
  · rw [opNow_calendarSet code] at acts
    subst hv
    exact exec_closes rfl hs acts
  · rw [opNow_safetyRecordWrite code] at acts
    exact exec_closes rfl hs acts
  · rw [opNow_safetyConfirm code, confirmNow_rejects wrong] at acts
    exact exec_closes rfl hs acts
  · rw [opNow_safetyConfirm code, confirmNow_confirms right] at acts
    exact exec_closes rfl hs acts
  · rw [opNow_lifecycleChange code, lifeNow_changes hl] at acts
    exact exec_closes rfl hs acts
  · rw [opNow_parkRecordWrite code] at acts
    subst hv
    exact exec_closes rfl hs acts

end Sys2Proof.Machine
end

section
/-!
PROOF. Family 14: the frames of a CAN controller, its recovery, and the cycles and windows of its schedule. What each command does in the
cases that the statement names is stated once about its effect.
-/

namespace Sys2Proof.Machine

/-! ### What the discipline of a domain keeps of the controllers (R403) -/

/-- The controllers, the set-up fields and D0. -/
def busView (s : State) : Vector Can 2 × List (Nat × Nat) × Nat := (s.can, s.regs, s.time.now)

theorem OnlyHappening.busView {s t : State} (h : OnlyHappening s t) : busView t = busView s := by
  obtain ⟨q, f, rfl, -⟩ := h
  rfl

@[simp] theorem emit_busView (h : Hap) (s : State) : busView (emit h s) = busView s := (emit_happening h s).busView

@[simp] theorem complete_busView (id status : Nat) (result detail : Int) (applied : Option Stamp) (s : State) :
    busView (complete id status result detail applied s) = busView s := by
  unfold complete
  split <;> rfl

@[simp] theorem setDom_busView (s : State) (d : Dom) (f : Domain → Domain) : busView (setDom s d f) = busView s := by
  cases d <;> rfl

@[simp] theorem setDomState_busView (d : Dom) (st : DomState) (s : State) : busView (setDomState d st s) = busView s := by
  unfold setDomState
  dsimp only
  split_ifs <;> simp

@[simp] theorem endSlew_busView (d : Dom) (s : State) : busView (endSlew d s) = busView s := by
  unfold endSlew slewEnded
  cases runningSlew s d <;> dsimp only <;> split <;> simp

@[simp] theorem freeDom_busView (d : Dom) (s : State) : busView (freeDom d s) = busView s := by
  unfold freeDom
  dsimp only
  split <;> simp

@[simp] theorem reDiscipline_busView (d : Dom) (was : Bool) (s : State) : busView (reDiscipline d was s) = busView s := by
  unfold reDiscipline
  dsimp only
  split
  · split <;> simp
  · split <;> simp

/-- R403: a change of the master changes of the controllers the master alone. -/
theorem setMaster_busView (c : Fin 2) (rank : Nat) (own : Bool) (s : State) :
    busView (setMaster c rank own s) = busView (modCan s c (fun x => { x with masterRank := some rank, isMaster := own })) := by
  unfold setMaster
  dsimp only
  split
  · rw [reDiscipline_busView]
  · rw [emit_busView, reDiscipline_busView]

@[simp] theorem setCanState_now (c : Fin 2) (st : CanState) (s : State) : (setCanState c st s).time.now = s.time.now := by
  unfold setCanState
  dsimp only
  split
  · rfl
  · exact congrArg (fun v => v.2.2) (emit_busView _ (modCan s c _))

@[simp] theorem dropFrame_now (c : Fin 2) (i status : Nat) (detail : Int) (s : State) :
    (dropFrame c i status detail s).time.now = s.time.now := by
  unfold dropFrame
  split
  · exact congrArg (fun v => v.2.2) (complete_busView _ _ _ _ _ (modCan s c _))
  · rfl

@[simp] theorem loseAttempt_now (c : Fin 2) (s : State) : (loseAttempt c s).time.now = s.time.now := by
  unfold loseAttempt
  dsimp only
  split
  · split
    · exact dropFrame_now ..
    · rfl
  · rfl

/-! ### Frames (R393 to R401) -/

section Frames

variable {c : Fin 2} {s v : State}

theorem canEligibleEff_slots (c : Fin 2) (s : State) : ∃ w, canEligibleEff c s = modCan s c (fun x => { x with slots := w })
    ∧ w.map (fun e => e.1) = s.can[c].slots.map (fun e => e.1)
    ∧ ∀ i e x, (i, e) ∈ s.can[c].slots → e.apply = some x → e.scheduled = false → e.since ≤ s.time.now - s.time.now % 16000 →
        toD0 s x ≤ ((s.time.now - s.time.now % 16000 : Nat) : Int) → (i, { e with eligible := true }) ∈ w := by
  refine ⟨_, congrArg (fun v => { s with can := v }) (upd_congr rfl), ?_, fun i e x mem apply plain since due => ?_⟩
  · rw [List.map_map]
    rfl
  · refine List.mem_map.mpr ⟨(i, e), mem, ?_⟩
    simp [apply, plain, since, due]

theorem canSofEff_repeats {i : Nat} {e : CanSlot} (drives : canDrives s c = true) (idle : attempting s c = false)
    (noRef : s.can[c].refDue = false) (best : offered s.can[c] = some (i, e)) (again : 0 < e.attempts)
    (hv : v = modCan (modCanSlot c i (fun x => { x with
      sof := some s.time.now, sofAt := some (sofStamp s x.desc), attempts := x.attempts + 1
      frame := { x.frame with data := e.frame.data } }) s) c (fun x => { x with busIdle := false })) :
    canSofEff c s = { v with out := v.out ++ [.can c e.frame.ident e.frame.data] } := by
  have tried : e.attempts ≠ 0 := by omega
  subst hv
  unfold canSofEff
  rw [if_neg (by simp [drives, idle]), noRef, best]
  dsimp only
  rw [Bool.false_and, if_neg Bool.false_ne_true, if_neg tried]

theorem canTxDoneEff_sends {i : Nat} {e : CanSlot} (tdc : Option (BitVec 8)) (under : attempt s c = some (i, e)) (kept : e.cancel = none)
    (hv : v = modCan (takeTdc c e.frame tdc (settleCan c (modCan s c (fun x => { x with tecN := x.tecN - 1, busIdle := true })))) c
      (fun x => { x with slots := tabDel x.slots i, sent := x.sent + 1 })) :
    canTxDoneEff c tdc s = loopBack c { e.frame with esi := identFd e.frame.ident && s.can[c].state == .passive }
      (e.sof.getD s.time.now)
      (complete e.desc stOK e.attempts v.can[c].tecN (some (e.sofAt.getD ⟨.d0, BitVec.ofNat 64 (e.sof.getD s.time.now)⟩)) v) := by
  subst hv
  unfold canTxDoneEff
  rw [under]
  dsimp only
  rw [kept]
  rfl

theorem canRxFrameEff_receives {f : CanFrame} (age : Nat) (hears : canHears s c = true) (fits : identFd f.ident = false ∨ canFd s c = true) :
    canRxFrameEff c f age s = receiveFrame c f ((s.time.now : Int) - age) false
      (recGood c (modCan (loseAttempt c s) c (fun x => { x with busIdle := true }))) := by
  have now : (modCan (loseAttempt c s) c (fun x => { x with busIdle := true })).time.now = s.time.now := loseAttempt_now c s
  unfold canRxFrameEff
  rw [if_neg (by simp [hears]), if_neg (by rcases fits with h | h <;> simp [h])]
  dsimp only
  rw [now]

theorem canErrorFrameEff_errs (on : canMode s c ≠ 0) (notOff : s.can[c].state ≠ .busOff) (notRecovering : s.can[c].state ≠ .recovering)
    (e : CanErr) (phase : Bool) (t r : Nat) : canErrorFrameEff c e phase t r s =
      if e = .pex then (if regB s (canBase c) 4 then protocolException c phase s else errorFrame c 2 phase t r s)
      else errorFrame c (errCode e) phase t r s :=
  if_neg (by simp only [Bool.or_eq_true, beq_iff_eq, not_or]; exact ⟨⟨on, notOff⟩, notRecovering⟩)

theorem canRecoveryDoneEff_ends {id : Nat} (recovering : s.can[c].state = .recovering) (waits : s.can[c].recover = some id)
    (hv : v = modCan (completeOk id (some (nowStamp s)) s) c (fun x => { x with tecN := 0, recN := 0, recover := none, busIdle := true })) :
    canRecoveryDoneEff c s = emit (canHap c 2 .note 0 (leBytes 4 (satU 32 ((s.time.now - s.can[c].offSince) / usLsb))))
      (setCanState c .active v) := by
  have now : v.time.now = s.time.now := by
    rw [hv]
    exact congrArg (fun v => v.2.2) (complete_busView ..)
  unfold canRecoveryDoneEff
  rw [recovering, waits, if_neg (by decide)]
  dsimp only
  rw [← hv, setCanState_now, now]

end Frames

/-! ### Cycles and windows (R402 to R405) -/

section Schedule

variable {c : Fin 2} {s : State}

theorem refMessageSendEff_offers {t : T64} (on : schedOn s c = true) (master : regB s (canBase c + 0x30) 1 = true)
    (drives : canDrives s c = true) (idle : s.can[c].refDue = false) (start : s.can[c].cycleStart = some t)
    (due : (cycleLsb s c : Int) ≤ diff64 (domNow s .d2) t) :
    refMessageSendEff c s = modCan s c (fun x => { x with refDue := true }) := by
  unfold refMessageSendEff
  dsimp only
  rw [start, on, master, drives, idle]
  exact if_pos (by simpa using due)

theorem loseAttempt_idle (idle : attempting s c = false) : loseAttempt c s = modCan s c (fun x => { x with refSof := none }) := by
  obtain ⟨noFrame, -⟩ := Bool.or_eq_false_iff.mp idle
  have none_under : attempt (modCan s c (fun x => { x with refSof := none })) c = none := by
    rw [attempt, modCan, upd_same]
    exact Option.not_isSome_iff_eq_none.mp (by rw [← attempt, noFrame]; exact Bool.false_ne_true)
  unfold loseAttempt
  dsimp only
  rw [none_under]

theorem canRank_modCan (s : State) (c k : Fin 2) (f : Can → Can) : canRank (modCan s c f) k = canRank s k := rfl

/-- R403: the sender of a reference message is the master; no attempt of an own one is under way. -/
def masterHeard (c : Fin 2) (rank : Nat) (s : State) : State := setMaster c rank false (modCan s c (fun x => { x with refSof := none }))

theorem masterHeard_busView (c : Fin 2) (rank : Nat) (s : State) : busView (masterHeard c rank s) =
    busView (modCan (modCan s c (fun x => { x with refSof := none })) c (fun x => { x with masterRank := some rank, isMaster := false })) :=
  setMaster_busView ..

/-- R404: a reference message starts a cycle of its count. -/
def cycleTaken (c : Fin 2) (count : Nat) (s : State) : State :=
  beginCycle c (domNow s .d2) (count % cycleMod s c) (modCan s c (fun x => { x with prevSof := some (domNow s .d2), busIdle := true }))

/-- R404: the first reference message, of a master of no higher priority. -/
theorem refMessageRxEff_first {count : BitVec 6} {rank : BitVec 3} {prev : BitVec 48} (on : schedOn s c = true)
    (hears : canHears s c = true) (idle : attempting s c = false) (first : s.can[c].prevSof = none) (lower : canRank s c ≤ rank.toNat)
    {w : State} (hw : w = cycleTaken c count.toNat (masterHeard c rank.toNat s)) :
    refMessageRxEff c count rank prev s = receiveFrame c { ident := refIdent w c rank.toNat, brs := false, esi := false, dlc := 8
                                                           data := b1 count.toNat ++ b1 rank.toNat ++ leBytes 6 prev.toNat }
      w.time.now false (recGood c w) := by
  have still : (masterHeard c rank.toNat s).can[c].prevSof = none := by
    have can := congrArg Prod.fst (masterHeard_busView c rank.toNat s)
    rw [show (masterHeard c rank.toNat s).can = _ from can, busView, modCan, upd_same, modCan, upd_same]
    exact first
  subst hw
  unfold refMessageRxEff
  rw [if_neg (by simp [on, hears]), loseAttempt_idle idle]
  dsimp only
  rw [canRank_modCan, if_neg (Nat.not_lt.mpr lower), ← masterHeard, still]
  rfl

theorem cycleTaken_runs (c : Fin 2) (count rank : Nat) (s : State) {w : State} (hw : w = cycleTaken c count (masterHeard c rank s)) :
    w.can[c].running = true ∧ w.can[c].cycle = count % cycleMod s c ∧ w.can[c].masterRank = some rank ∧ w.can[c].isMaster = false
      ∧ w.can[c].opened = [] := by
  obtain ⟨can, regs, -⟩ := Prod.mk.inj (masterHeard_busView c rank s) |>.imp_right Prod.mk.inj
  have modulus : cycleMod (masterHeard c rank s) c = cycleMod s c := by
    simp only [cycleMod, regF, reg, regs]
    rfl
  rw [hw, cycleTaken, modulus, beginCycle, modCan, upd_same, modCan, upd_same, can, modCan, upd_same]
  exact ⟨rfl, rfl, rfl, rfl, rfl⟩

theorem canCycleStartEff_continues {t : T64} {n : Nat} (start : s.can[c].cycleStart = some t) (on : schedOn s c = true)
    (other : (regB s (canBase c + 0x30) 1 && canDrives s c) = false) (lost : refLost s c = true)
    (hn : n = (diff64 (domNow s .d2) t).toNat / cycleLsb s c) (due : 1 ≤ n) :
    canCycleStartEff c s = beginCycle c (t + BitVec.ofNat 64 (n * cycleLsb s c)) ((s.can[c].cycle + n) % cycleMod s c) s := by
  subst hn
  unfold canCycleStartEff
  rw [start]
  dsimp only
  rw [on, other, lost]
  exact if_pos (by simpa using due)

theorem canWindowOpenEff_opens {w : Fin 16} {t : T64} {len : Nat} (span : windowSpan s c w = some (t, len)) (on : schedOn s c = true)
    (runs : s.can[c].running = true) (after : 0 ≤ diff64 (domNow s .d2) t) (before : diff64 (domNow s .d2) t < len)
    (first : s.can[c].opened.contains w = false) : canWindowOpenEff c w s = modCan s c (fun x => { x with
      open_ := (w, t + BitVec.ofNat 64 len) :: x.open_.filter (fun o => o.1 != w)
      opened := w :: x.opened
      slots := x.slots.map (fun e => (e.1, { e.2 with eligible := e.2.eligible || (e.2.scheduled && e.2.window == w) })) }) := by
  unfold canWindowOpenEff
  rw [span]
  dsimp only
  rw [on, runs, first]
  exact if_pos (by simp [after, before])

theorem canWindowCloseEff_closes {w : Fin 16} {t : T64} (opened : s.can[c].open_.find? (fun o => o.1 == w) = some (w, t))
    (closed : 0 ≤ diff64 (domNow s .d2) t) : canWindowCloseEff c w s = closeWindow c w s := by
  unfold canWindowCloseEff
  rw [opened]
  exact if_pos (decide_eq_true closed)

end Schedule

/-- Settles O54: each command's conditions hold, so that its effect is the case's; the cycle that a reference message starts is read
through the change of the master (`setMaster_busView`). -/
theorem canFramesAndSchedule : Obligations.Can_frames_and_schedule := by
  unfold Obligations.Can_frames_and_schedule
  intro dt c s u v hs hu
  subst hu
  refine ⟨?_, fun i e data drives idle noRef best again hdata hv => ?_, fun i e tdc under kept hv => ?_, fun f age hears fits => ?_,
    fun e phase t r on notOff notRecovering => ?_, fun id recovering waits hv => ?_, fun t on master drives idle start due => ?_,
    fun count rank prev on hears idle first lower => ?_, fun t n start on other lost hn due => ?_,
    fun w t len span on runs after before first => ?_, fun w t opened closed => ?_⟩
  · obtain ⟨w, marks, places, due⟩ := canEligibleEff_slots c (begin dt s)
    exact ⟨w, exec_closes rfl hs marks, places, due⟩
  · subst hdata
    exact exec_closes rfl hs (canSofEff_repeats drives idle noRef best again hv)
  · exact exec_closes rfl hs (canTxDoneEff_sends tdc under kept hv)
  · exact exec_closes rfl hs (canRxFrameEff_receives age hears fits)
  · have errs := fun e => canErrorFrameEff_errs on notOff notRecovering e phase t r
    refine ⟨fun plain => exec_closes rfl hs ((errs e).trans (if_neg plain)), fun pex => ?_, fun noPex => ?_⟩
    · exact exec_closes rfl hs (((errs .pex).trans (if_pos rfl)).trans (if_pos pex))
    · exact exec_closes rfl hs (((errs .pex).trans (if_pos rfl)).trans (if_neg (by rw [noPex]; exact Bool.false_ne_true)))
  · exact exec_closes rfl hs (canRecoveryDoneEff_ends recovering waits hv)
  · exact exec_closes rfl hs (refMessageSendEff_offers on master drives idle start due)
  · exact ⟨cycleTaken c count.toNat (masterHeard c rank.toNat (begin dt s)), _,
      exec_closes rfl hs (refMessageRxEff_first on hears idle first lower rfl), rfl, cycleTaken_runs c _ _ _ rfl⟩
  · exact exec_closes rfl hs (canCycleStartEff_continues start on other lost hn due)
  · exact exec_closes rfl hs (canWindowOpenEff_opens span on runs after before first)
  · exact exec_closes rfl hs (canWindowCloseEff_closes opened closed)

end Sys2Proof.Machine
end

section
/-!
PROOF. Families 15 and 16: the samples of the Quire, the start of its captures, the chunks of the stream rings, and the writes of a check
unit's CFG. What each command does in the cases that the statement names is stated once about its effect.
-/

namespace Sys2Proof.Machine

/-! ### Samples and captures (R411, R416, R423) -/

section Samples

variable {lo hi : Ecc} {s : State}

/-- R411: a sample whose instant has passed and whose values exist is taken, unless a stop that waits for it ends the capture. -/
theorem quireSampleEff_sampled {tq : T64} {c : QCfg} {vals : List Int} {w : State} (harm : waitingArm s = none)
    (hnext : s.quire.next = some tq) (hcfg : s.quire.cfg = some c) (harmed : quireArmed s = true)
    (hpassed : 0 ≤ diff64 (domNow s c.dom) tq)
    (hvals : c.chans.map (fun ch => valueAt s (Fin.ofNat 16 ch) (tq + BitVec.ofInt 64 (chanSkew s (Fin.ofNat 16 ch)))) = vals.map some)
    (hw : modQuire s (fun q => { q with next := some (tq + BitVec.ofNat 64 q.period) }) = w) :
    quireSampleEff lo hi s = if (stopCommands tq c.dom w).2 then (stopCommands tq c.dom w).1
      else quireStream (runSample lo hi tq c vals (stopCommands tq c.dom w).1) := by
  have hdue : ¬ ((!quireArmed s || decide (diff64 (domNow s c.dom) tq < 0)) = true) := by
    simp [harmed, hpassed]
  have hall : ¬ ((vals.map some).any Option.isNone = true) := by simp
  have hget : (vals.map some).map (fun v => v.getD 0) = vals := by simp
  unfold quireSampleEff
  rw [harm]
  dsimp only
  rw [hnext, hcfg]
  dsimp only
  rw [if_neg hdue, hvals, if_neg hall, hget, hw]

/-- R423: an arm whose first sample has come begins its capture. -/
theorem quireSampleEff_started {f : InFlight} {t : T64} (harm : waitingArm s = some (f, t)) (hnext : (startCapture f t s).quire.next = none) :
    quireSampleEff lo hi s = startCapture f t s := by
  unfold quireSampleEff
  rw [harm]
  dsimp only
  rw [hnext]

/-- What a happening keeps of a capture: its state, its next sample, its memory. -/
def captureView (s : State) : QState × Option T64 × List (Nat × Nat) := (s.quire.state, s.quire.next, s.quire.mem)

theorem OnlyHappening.captureView {s t : State} (h : OnlyHappening s t) : captureView t = captureView s := by
  obtain ⟨q, f, rfl, -⟩ := h
  rfl

/-- R423: a capture that streams begins armed, its memory empty, its first sample at the instant chosen. -/
theorem startCapture_armed {f : InFlight} {t : T64} (hok : firstFail (quireState f s) = none) (hstream : (qcfgOf f s).stream = true) :
    captureView (startCapture f t s) = (.armed, some t, []) := by
  have hpost : ¬ ((!(qcfgOf f s).stream && decide (quireDepth (qcfgOf f s).chans.length < (qcfgOf f s).post)) = true) := by
    rw [hstream]
    exact Bool.false_ne_true
  unfold startCapture
  rw [hok]
  dsimp only
  rw [if_neg hpost, (emit_happening _ _).captureView]
  rfl

end Samples

/-! ### Chunks of the stream rings (R398, R426) -/

section Chunks

variable {r : Fin 4} {c : Fin 2} {s w : State}

theorem streamChunkEff_of_can (hsrc : strSource s r = 3 + c.val) : streamChunkEff r s = canChunk c r s := by
  unfold streamChunkEff
  rw [hsrc]
  match c with
  | 0 => rfl
  | 1 => rfl

theorem streamChunkEff_of_quire (hsrc : strSource s r = 1) (hring : quireRing s = some r) : streamChunkEff r s = quirePump r 512 s := by
  unfold streamChunkEff
  rw [hsrc]
  exact if_pos hring

/-- R398: without a bulk frame there is no chunk. -/
theorem canChunk_of_empty (hnone : s.can[c].buffer.filter (fun y => y.bulk) = []) : canChunk c r s = s := by
  unfold canChunk
  dsimp only
  rw [hnone]
  rfl

/-- R398: a chunk that is full, or whose oldest frame is 1 ms old, is written if its ring takes it, and its frames leave the buffer. -/
theorem canChunk_of_due {items : List RxFrame} {x : RxFrame} {n : Nat} (hitems : items = s.can[c].buffer.filter (fun y => y.bulk))
    (hhead : items.head? = some x) (hn : n = min (chunkRoom s r / 80) items.length)
    (hdue : n = chunkRoom s r / 80 ∨ toD0 s x.stamp + msLsb ≤ s.time.now) {ok : Bool}
    (hwrite : writeChunk r x.stamp ((items.take n).flatMap (rxItem s c)) s = (w, ok)) :
    canChunk c r s =
      if ok then modCan w c (fun y => { y with buffer := (items.take n).foldl (fun b z => b.erase z) y.buffer }) else w := by
  have hcond : (n = chunkRoom s r / 80 || decide (toD0 s x.stamp + msLsb ≤ s.time.now)) = true := by simpa using hdue
  unfold canChunk
  dsimp only
  rw [← hitems, ← hn, hhead]
  dsimp only
  rw [if_pos hcond, hwrite]

end Chunks

/-! ### Writes of a check unit's CFG (R436) -/

section CheckCfg

variable {n : Fin 8} {value : Word} {s : State}

theorem chkRegWrite_zero (v : Nat) : chkRegWrite n 0 v s = chkCfgWrite n v s := rfl

theorem chkCfgWrite_taken (hoff : chkOn s n = false) (hok : value.getLsbD 0 = false ∨ chkBad s n value.toNat = false) :
    chkCfgWrite n value.toNat s = modCheck (writeRw s (chkBase n) value.toNat) n (fun x => { x with cfgBad := false }) := by
  have hgood : ¬ ((bit value.toNat 0 && chkBad s n value.toNat) = true) := by
    rw [bit_toNat]
    rcases hok with h | h
    · rw [h]
      exact Bool.false_ne_true
    · rw [h, Bool.and_false]
      exact Bool.false_ne_true
  unfold chkCfgWrite
  dsimp only
  rw [hoff, if_neg Bool.false_ne_true, if_neg hgood]

theorem chkCfgWrite_refused (hoff : chkOn s n = false) (hen : value.getLsbD 0 = true) (hbad : chkBad s n value.toNat = true) :
    chkCfgWrite n value.toNat s = emit { source := 208 + n.val, sev := .warning, code := 2, payload := b1 2 ++ leBytes 4 value.toNat }
      (modCheck (writeRw s (chkBase n) (putBits value.toNat 0 0 0)) n (fun x => { x with cfgBad := true })) := by
  unfold chkCfgWrite
  dsimp only
  rw [hoff, if_neg Bool.false_ne_true, bit_toNat, hen, hbad]
  rfl

theorem chkCfgWrite_keeps (hon : chkOn s n = true) (hen : value.getLsbD 0 = true) : chkCfgWrite n value.toNat s = s := by
  unfold chkCfgWrite
  dsimp only
  rw [if_pos hon, bit_toNat, if_pos hen]

theorem chkCfgWrite_disables (hon : chkOn s n = true) (hdis : value.getLsbD 0 = false) :
    chkCfgWrite n value.toNat s =
      modCheck (setReg s (chkBase n) (putBits (reg s (chkBase n)) 0 0 0)) n (fun x => { x with cfgBad := false }) := by
  have hclear : ¬ (value.getLsbD 0 = true) := by rw [hdis]; exact Bool.false_ne_true
  unfold chkCfgWrite
  dsimp only
  rw [if_pos hon, bit_toNat, if_neg hclear]

end CheckCfg

/-- Settles O55: a clause for each case of the effects above. -/
theorem quireSamplesAndCheckUnits : Obligations.Quire_samples_and_check_units := by
  intro dt path s u hs hu
  subst hu
  refine ⟨?_, ?_, ?_, ?_, ?_, ?_, ?_⟩
  · intro tq c vals lo hi w x harm hnext hcfg harmed hpassed hvals hw
    have hsample := quireSampleEff_sampled (lo := lo) (hi := hi) harm hnext hcfg harmed hpassed hvals hw.symm
    refine ⟨fun hgoes => exec_closes rfl hs ?_, fun hends => exec_closes rfl hs ?_⟩
    · rw [hsample, hgoes]
      rfl
    · rw [hsample, hends]
      rfl
  · exact fun f t lo hi harm _ hnone => exec_closes rfl hs (quireSampleEff_started harm hnone)
  · intro f t _ _ hok hstream
    simpa [captureView] using startCapture_armed (t := t) hok hstream
  · intro r c x items n w hsrc hitems hhead hn hdue
    have hchunk := fun ok => canChunk_of_due (ok := ok) (w := w) hitems hhead hn hdue
    exact ⟨fun hw => exec_closes rfl hs ((streamChunkEff_of_can hsrc).trans (hchunk true hw)),
      fun hw => exec_closes rfl hs ((streamChunkEff_of_can hsrc).trans (hchunk false hw))⟩
  · exact fun r c hsrc hnone => exec_closes rfl hs ((streamChunkEff_of_can hsrc).trans (canChunk_of_empty hnone))
  · exact fun r hsrc hring => exec_closes rfl hs (streamChunkEff_of_quire hsrc hring)
  · intro hopen n value
    exact ⟨fun hoff hok => exec_closes_gated rfl hs hopen (chkCfgWrite_taken hoff hok),
      fun hoff hen hbad => exec_closes_gated rfl hs hopen (chkCfgWrite_refused hoff hen hbad),
      fun hon hen => exec_closes_gated rfl hs hopen (chkCfgWrite_keeps hon hen),
      fun hon hdis => exec_closes_gated rfl hs hopen (chkCfgWrite_disables hon hdis)⟩

end Sys2Proof.Machine

end

section
/-!
PROOF. Family 17: the inputs of Firebreak, its stop functions and outputs, its self-checks and the start of its record. What each command
does in the cases that the statement names is stated once about its effect.
-/

namespace Sys2Proof.Machine

/-! ### What the edges of a placer keep of Firebreak (R455) -/

theorem OnlyHappening.firebreak {s t : State} (h : OnlyHappening s t) : t.firebreak = s.firebreak := by
  obtain ⟨q, f, rfl, -⟩ := h
  rfl

theorem emitLim_happening (period key : Nat) (h : Nat → Hap) (s : State) : OnlyHappening s (emitLim period key h s) := by
  have noted := noteSource_happening (h 0).source s
  have logged : OnlyHappening s (if isError (h 0) then
      ((logEntry (noteSource (h 0).source s) (h 0)).1, (logEntry (noteSource (h 0).source s) (h 0)).2.2)
      else (noteSource (h 0).source s, none)).1 := by
    split
    · exact noted.trans (logEntry_fault _ (h 0)).happening
    · exact noted
  unfold emitLim
  dsimp only
  refine OnlyHappening.trans ?_ (reportOverflow_happening _ _)
  generalize (if isError (h 0) then
      ((logEntry (noteSource (h 0).source s) (h 0)).1, (logEntry (noteSource (h 0).source s) (h 0)).2.2)
      else (noteSource (h 0).source s, none)) = p at logged ⊢
  have limited := rateLimit_fault p.1 (h 0).source key period
  split
  · split
    next e => exact logged.trans ((limited.of_eq e).happening.trans (genToken_fault _ _ _ _ _).happening)
    next e => exact logged.trans (limited.of_eq e).happening
  · exact logged

@[simp] theorem enterQueue_firebreak (p : Fin 12) (e : Edge) (s : State) : (enterQueue p e s).firebreak = s.firebreak := by
  have dropped (s : State) : (reportSuppressed p s).firebreak = s.firebreak :=
    (emitLim_happening _ _ _ { s with time := { s.time with placerSupp := s.time.placerSupp + 1 } }).firebreak
  unfold enterQueue
  dsimp only
  split_ifs <;> simp [dropped]

@[simp] theorem putEdge_firebreak (p : Fin 12) (e : Edge) (ahead : Bool) (s : State) : (putEdge p e ahead s).firebreak = s.firebreak := by
  unfold putEdge queueEdge enterNow
  dsimp only
  split_ifs <;> simp [takeFree]

/-! ### Safety inputs (R444 to R446) -/

theorem upd_upd {α : Type} {n : Nat} (v : Vector α n) (i : Fin n) (f g : α → α) : upd (upd v i f) i g = upd v i (fun x => g (f x)) := by
  simp [upd]

theorem modSinCh_modSinCh (s : State) (ch : Fin 4) (f g : SinCh → SinCh) :
    modSinCh (modSinCh s ch f) ch g = modSinCh s ch (fun x => g (f x)) :=
  congrArg (fun v => { s with firebreak := { s.firebreak with chans := v } }) (upd_upd s.firebreak.chans ch f g)

section Inputs

variable {ch : Fin 4} {s : State}

/-- R444: a level that goes to demand starts the filter of the demand. -/
theorem sinChangeEff_leaves (hrel : s.firebreak.chans[ch].released = true) (hdem : s.firebreak.chans[ch].demand = false) :
    sinChangeEff ch false s = modSinCh s ch (fun x => { x with released := false, since := s.firebreak.ticks, filtering := true }) := by
  have hnew : ¬ (s.firebreak.chans[ch].released = false) := fun h => Bool.noConfusion (hrel.symm.trans h)
  unfold sinChangeEff
  dsimp only
  rw [if_neg hnew, hdem, Bool.false_and, if_neg Bool.false_ne_true, if_neg Bool.false_ne_true, modSinCh_modSinCh]
  rfl

theorem demandAcceptEff_accepts (hrel : s.firebreak.chans[ch].released = false) (hdem : s.firebreak.chans[ch].demand = false)
    (hfil : s.firebreak.chans[ch].filtering = true)
    (hpassed : s.firebreak.chans[ch].since + (sinEntry s (sinOf ch)).dfilt ≤ s.firebreak.ticks) :
    demandAcceptEff ch s = settleInput ch (modSinCh s ch (fun x => { x with demand := true, filtering := false })) := by
  have haccept : acceptDemand ch s = settleInput ch (modSinCh s ch (fun x => { x with demand := true, filtering := false })) :=
    congrArg (fun v => settleInput ch { s with firebreak := { s.firebreak with chans := v } }) (upd_congr (by rw [hrel]))
  unfold demandAcceptEff
  dsimp only
  rw [hrel, hdem, hfil, decide_eq_true hpassed, haccept]
  rfl

theorem releaseAcceptEff_accepts (hrel : s.firebreak.chans[ch].released = true) (hdem : s.firebreak.chans[ch].demand = true)
    (hfil : s.firebreak.chans[ch].filtering = true)
    (hpassed : s.firebreak.chans[ch].since + 100 * (sinEntry s (sinOf ch)).filterMs ≤ s.firebreak.ticks) :
    releaseAcceptEff ch s =
      settleInput ch (modSinCh s ch (fun x => { x with demand := false, filtering := false, chatter := false, starts := [] })) := by
  unfold releaseAcceptEff
  dsimp only
  rw [hrel, hdem, hfil, decide_eq_true hpassed]
  rfl

/-- R445: channels that differ too long are a fault, and a demand of their input. -/
theorem discrepancyEff_faults {i : Fin 2} {t : Nat} {v : State} (hdif : s.firebreak.ins[i].differSince = some t)
    (hdis : s.firebreak.ins[i].discrepancy = false) (hpassed : t + 100 * (sinEntry s i).discMs ≤ s.firebreak.ticks)
    (hv : v = emit { source := 218, sev := .fault, idx := i, payload := b1 i.val ++ b1 s.firebreak.ins[i].firstCh }
      (modFb s (fun fb => { fb with ins := upd fb.ins i (fun x => { x with discrepancy := true, bothDemand := false, firstRelease := none }) }))) :
    discrepancyEff i s = if s.firebreak.ins[i].demand then v else demandOn i s.firebreak.ins[i].firstCh v := by
  have hlong : ¬ ((s.firebreak.ins[i].discrepancy || decide (s.firebreak.ticks < t + 100 * (sinEntry s i).discMs)) = true) := by
    rw [hdis, decide_eq_false (by omega)]
    exact Bool.false_ne_true
  unfold discrepancyEff
  dsimp only
  rw [hdif]
  dsimp only
  rw [if_neg hlong, ← hv]

end Inputs

/-! ### Stop functions and outputs (R447 to R456, R460) -/

section Stops

variable {s : State}

theorem ss1TimeoutEff_passed {g : Fin 8} {t : Nat} (hat : s.firebreak.groups[g].stoAt = some t) (hpassed : t ≤ s.firebreak.ticks) :
    ss1TimeoutEff g s = applySto g 2 s := by
  unfold ss1TimeoutEff
  rw [hat]
  exact if_pos hpassed

theorem ss1LimitEff_passed {g : Fin 8} {t : Nat} (hat : s.firebreak.groups[g].limitAt = some t) (hpassed : t ≤ s.firebreak.ticks) :
    ss1LimitEff g s = applySto g 2 s := by
  unfold ss1LimitEff
  rw [hat]
  exact if_pos hpassed

theorem stoForceEff_passed {t : Nat} (hat : s.firebreak.faultAt = some t) (hpassed : t * 10 + 11 * ss1Ms s * msLsb ≤ s.time.now * 10) :
    stoForceEff s = (List.finRange 8).foldl (fun s g => applySto g 5 s) s := by
  unfold stoForceEff
  rw [hat]
  exact if_pos hpassed

/-- R448: a window without monitor entries watches the groups alone. -/
theorem speedWindowEff_unmonitored {v : State} (hdue : s.firebreak.windowAt + 100 ≤ s.firebreak.ticks)
    (hv : v = modFb (liftSto s) (fun fb => { fb with windowAt := fb.ticks })) (hnone : v.firebreak.mons = []) :
    speedWindowEff s = (List.finRange 8).foldl (fun s g => watchGroup g s) v := by
  have hdue' : ¬ (s.firebreak.ticks < s.firebreak.windowAt + 100) := by omega
  unfold speedWindowEff
  dsimp only
  rw [if_neg hdue', ← hv]
  simp only [hnone, List.getElem?_nil, List.filterMap_none, List.foldl_nil]

/-- R455: a test pulse that reads back well is counted, and changes of Firebreak its read-back alone. -/
theorem stoTestEff_passes (hout : s.firebreak.stoOut = true) :
    (stoTestEff true true s).firebreak = { s.firebreak with readback := true, stoTests := s.firebreak.stoTests + 1 } := by
  have hdriven : ¬ ((!s.firebreak.stoOut) = true) := by simp [hout]
  unfold stoTestEff
  dsimp only
  rw [if_neg hdriven]
  simp [modFb]

theorem epStoTimeoutEff_fails {e : Fin 12} {t : Nat} (hat : s.link.eps[e].stoSince = some t) (hrep : s.link.eps[e].stoReported = false)
    (hfail : s.link.eps[e].stoFailed = false) (hpassed : t + leAt s.firebreak.record 26 2 * msLsb ≤ s.time.now) :
    epStoTimeoutEff e s = settleOutputs (emit { source := 224, sev := .stop, idx := e, handler := 2, payload := b1 e.val ++ b1 1 }
      (modFb (modEp s e (fun x => { x with stoFailed := true })) (fun fb => { fb with epFail := true, outOff := true }))) := by
  unfold epStoTimeoutEff
  dsimp only
  rw [hat]
  dsimp only
  rw [hrep, hfail, decide_eq_true hpassed]
  rfl

/-- R456: an EDM that opens while the contactor is off is taken over. -/
theorem edmInputEff_opens {i : Fin 2} (hopen : s.firebreak.edmOpen = 0#2) (hoff : s.firebreak.cdrv = false) :
    edmInputEff i true s = settleOutputs (modFb s (fun fb => { fb with edmOpen := if i = 0 then 1#2 else 2#2 })) := by
  have hnew : ¬ ((s.firebreak.edmOpen.getLsbD i == true) = true) := by
    rw [hopen]
    simp
  have htaken : (s.firebreak.edmOpen ||| if i = 0 then 1 else 2) = if i = 0 then 1#2 else 2#2 := by rw [hopen, BitVec.zero_or]; rfl
  unfold edmInputEff
  dsimp only
  rw [if_neg hnew]
  refine (if_neg (by simp [modFb, hoff])).trans ?_
  exact congrArg (fun x => settleOutputs { s with firebreak := { s.firebreak with edmOpen := x } }) htaken

theorem edmTimeoutEff_faults {i : Fin 2} {t : Nat} (hat : s.firebreak.cdrvAt = some t) (hused : bit (edmMask s) i.val = true)
    (hpassed : t + edmTicks s ≤ s.firebreak.ticks) (hread : s.firebreak.edmOpen.getLsbD i.val = s.firebreak.cdrv) :
    edmTimeoutEff i s = edmFault i (!s.firebreak.cdrv) s := by
  unfold edmTimeoutEff
  rw [hat]
  dsimp only
  rw [hused, decide_eq_true hpassed, hread, beq_self_eq_true]
  rfl

theorem edmAckEff_clears (hfault : s.firebreak.edmFault = true) (hall : edmAll s true = true) :
    edmAckEff s = liftSto (modFb s (fun fb => { fb with edmFault := false })) :=
  if_pos (by rw [hfault, hall]; rfl)

/-- R459: the value offered through the service port is checked against the record while no slot is on. -/
theorem fbConfirmViaEff_confirms (hup : svcUp s = true) (hoff : slotsOn s = false) (hcom : s.life.state ≠ .commissioned)
    (hret : s.life.state ≠ .retired) (value : Word) : fbConfirmViaEff value s = (confirmRecord value.toNat s).1 := by
  have hcom' : (s.life.state == .commissioned) = false := by simpa using hcom
  have hret' : (s.life.state == .retired) = false := by simpa using hret
  unfold fbConfirmViaEff svcGate svcNoWrites fbConfirmEff
  rw [hup, hcom', hret', hoff]
  rfl

end Stops

/-! ### Self-checks and the start of the record (R442, R443, R459) -/

section Checks

variable {s : State}

theorem recordCheckEff_bad (hrec : s.firebreak.record ≠ []) : recordCheckEff false s = selfFault 4 s :=
  if_neg (by simpa using hrec)

theorem startupSelftestEff_failed (hnew : s.firebreak.selftestOk = false) : startupSelftestEff false s = selfFault 5 s := by
  unfold startupSelftestEff
  rw [hnew]
  rfl

/-- R442, R443: the first self-test that passes takes a record that is good, and says so of one that is not. -/
theorem startupSelftestEff_passed {good : Bool} {v : State} (hgood : good = recordGood s.firebreak.record)
    (hnew : s.firebreak.selftestOk = false) (hrec : s.firebreak.record ≠ [])
    (hv : v = modFb s (fun fb => { fb with
      selftestOk := true, logicTests := satU 16 (fb.logicTests + 1), valid := good, confirmed := good && fb.nvConfirmed, windowAt := fb.ticks })) :
    startupSelftestEff true s = if good then liftSto (holdPresent (loadEntries v)) else recordState 0 v := by
  have hstored : ¬ (v.firebreak.record.isEmpty = true) := by
    rw [hv]
    exact mt List.isEmpty_iff.mp hrec
  unfold startupSelftestEff
  dsimp only
  rw [hnew, ← hgood, ← hv, if_neg hstored]
  rfl

end Checks

/-- Settles O56: a clause for each case of the effects above; a self-check that fails is a self-fault by its definition. -/
theorem firebreakInputsFunctionsAndChecks : Obligations.Firebreak_inputs_functions_and_checks := by
  intro dt ch g s u v hs hu
  subst hu
  refine ⟨?_, ?_, ?_, ?_, ?_, ?_, ?_, ?_, ?_, ?_, ?_, ?_, ?_, ?_, ?_, ?_, ?_, ?_, ?_, ?_, ?_⟩
  · exact fun hrel hdem => exec_closes rfl hs (sinChangeEff_leaves hrel hdem)
  · exact fun hrel hdem hfil hpassed => exec_closes rfl hs (demandAcceptEff_accepts hrel hdem hfil hpassed)
  · exact fun hrel hdem hfil hpassed => exec_closes rfl hs (releaseAcceptEff_accepts hrel hdem hfil hpassed)
  · exact fun i t hdif hdis hpassed hv => exec_closes rfl hs (discrepancyEff_faults hdif hdis hpassed hv)
  · exact fun t hat hpassed => exec_closes rfl hs (ss1TimeoutEff_passed hat hpassed)
  · exact fun t hat hpassed => exec_closes rfl hs (ss1LimitEff_passed hat hpassed)
  · exact fun t hat hpassed => exec_closes rfl hs (stoForceEff_passed hat hpassed)
  · exact fun hdue _ hv hnone => exec_closes rfl hs (speedWindowEff_unmonitored hdue hv hnone)
  · exact fun hout => ⟨_, exec_closes rfl hs rfl, stoTestEff_passes hout⟩
  · exact fun e t hat hrep hfail hpassed => exec_closes rfl hs (epStoTimeoutEff_fails hat hrep hfail hpassed)
  · exact fun hopen hoff => ⟨⟨_, exec_closes rfl hs (edmInputEff_opens hopen hoff), rfl⟩,
      ⟨_, exec_closes rfl hs (edmInputEff_opens hopen hoff), rfl⟩⟩
  · exact fun i t hat hused hpassed hread => exec_closes rfl hs (edmTimeoutEff_faults hat hused hpassed hread)
  · exact fun hfault hall => exec_closes rfl hs (edmAckEff_clears hfault hall)
  · exact fun hup hoff hcom hret value => exec_closes rfl hs (fbConfirmViaEff_confirms hup hoff hcom hret value)
  · rintro kind - rfl
    refine ⟨?_, ?_, ?_, ?_, ?_, ?_, ?_, ?_⟩
    · rintro n rfl hout
      exact exec_closes rfl hs (if_pos hout)
    · rintro rfl
      exact exec_closes rfl hs rfl
    · rintro rfl
      exact exec_closes rfl hs rfl
    · rintro rfl hrec
      exact exec_closes rfl hs (recordCheckEff_bad hrec)
    · rintro rfl
      exact exec_closes rfl hs rfl
    · rintro rfl hnew
      exact exec_closes rfl hs (startupSelftestEff_failed hnew)
    · rintro rfl
      exact exec_closes rfl hs rfl
    · rintro rfl
      exact exec_closes rfl hs rfl
  · exact fun n hlo hhi => exec_closes rfl hs (if_neg (by omega))
  · exact exec_closes rfl hs rfl
  · exact exec_closes rfl hs rfl
  · exact exec_closes rfl hs rfl
  · exact exec_closes rfl hs rfl
  · exact fun good hgood hnew hrec hv => exec_closes rfl hs (startupSelftestEff_passed hgood hnew hrec hv)

end Sys2Proof.Machine

end
